-- ==== Sys2Proof/Word.lean ====
section
/-! DEFINITION. The word types of the module: a byte, a 64-bit register word (R8), and the sparse map
in which a bank of numbered things is held (keys rising, no entry equal to the default). -/

namespace Sys2Proof

/-- One byte. -/
abbrev Byte := BitVec 8

/-- One register word: registers are 64 bits wide (R8). -/
abbrev Word := BitVec 64

/-- A sparse map from numbers: keys strictly rising, no entry equal to what an unlisted key reads as. -/
abbrev SMap (α : Type) := List (Nat × α)

end Sys2Proof
end

