-- ==== Sys2Proof/Syntax.lean ====
section
/-! DEFINITION. The commands: one constructor of `Instr` for each row of spec/opcode_table.json, with the operand
types they carry. The table gives no operands; the operands here are what each row's rule names. -/

namespace Sys2Proof

/-- The way a register or doorbell access arrives: BAR access of a head, or a steward (MCTP) command (R479, R557). -/
inductive Via where
  | head (h : Fin 4)
  | steward
  deriving DecidableEq, Repr

/-- A descriptor in flight: its queue, its slot and its Tadpole half (R125). -/
structure DescRef where
  q : Fin 4096
  slot : BitVec 16
  half : Bool
  deriving DecidableEq, Repr

/-- Kinds of engine (R224, R498). -/
inductive EngKind where
  | newt | kettle | gecko | emb | mover
  deriving DecidableEq, Repr

/-- One engine by kind and index. -/
structure Eng where
  kind : EngKind
  idx : Fin 32
  deriving DecidableEq, Repr

/-- The two memory tiers that hold homes (R73). -/
inductive Tier where
  | hbm | lpddr
  deriving DecidableEq, Repr

/-- Kinds of access (R45, fault record bits RD, WR, AT). -/
inductive AccessKind where
  | read | write | atomic
  deriving DecidableEq, Repr

/-- Status codes (R140). -/
inductive Status where
  | ok | part | poison | fault | prot | rate | staleMap | revoked | lostState | tierErr | aborted
  | invalid | unsupported | fenced | timeout
  deriving DecidableEq, Repr

/-- MetaValue of a host message; `noOp` is MetaField No-Op, `reserved` is Meta0-State 0b01 (R197). -/
inductive MetaValue where
  | i | a | s | noOp | reserved
  deriving DecidableEq, Repr

/-- A CXL.mem message as it reaches a head: the head, the host number the switch presents, the host address. -/
structure HostMsg where
  head : Fin 4
  host : Fin 64
  hpa : BitVec 52
  deriving DecidableEq, Repr

/-- Who an engine or accelerator request comes from, as the home's check 1 sees it (R24, R25, R172). -/
inductive ReqSrc where
  | queue (q : Fin 4096)
  | peer (m : Fin 32)
  | acc (p : Fin 32)
  | gateway (g : Fin 32)
  | steward
  deriving DecidableEq, Repr

/-- An engine or accelerator request as it reaches the home slice (R46): rack-local address and length. -/
structure EngReq where
  src : ReqSrc
  ctx : BitVec 16
  epoch : BitVec 16
  addr : BitVec 50
  len : Nat
  deriving DecidableEq, Repr

/-- How an access to a tier medium ended (R97, R98, R234). -/
inductive MediumOutcome where
  | ok | ce | ue | failed
  deriving DecidableEq, Repr

/-- How a host-memory read ended (R100, R472). -/
inductive DmaOutcome where
  | data (d : List Byte)
  | poisoned
  | error
  deriving DecidableEq, Repr

/-- A scored part or contained object by its object code: kind in [31:24], index in [23:0] (18, "Scopes"). -/
structure PartId where
  kind : BitVec 8
  idx : BitVec 24
  deriving DecidableEq, Repr

/-- Events that score a part (R520). -/
inductive PartEvent where
  | ce | ue | deadline | phyRetrain | containment | retrain | uncorrectable | marginFail | linkDown | ideFail | protocolError
  deriving DecidableEq, Repr

/-- The 16-byte message header (14, "Messages and virtual channels"), less TYPE and LEN, which the command gives. -/
structure MsgHdr where
  pri : Bool
  transit : Bool
  resend : Bool
  src : BitVec 5
  srcAcc : Bool
  srcRack : BitVec 6
  dst : BitVec 5
  dstRack : BitVec 6
  ctx : BitVec 16
  epoch : BitVec 16
  stream : BitVec 6
  seq : BitVec 24
  deriving DecidableEq, Repr

/-- Parameters of an attention request that its subrequests carry (R329 to R335). -/
structure AttnParams where
  bounded : Bool
  qscale : BitVec 32
  cap : BitVec 32
  thresh : BitVec 32
  nkv : Nat
  hg : Nat
  nq : Nat
  cfmt : Nat
  dcode : Nat
  qprec : Bool
  pprec : Bool
  seqLen : Nat
  qpos : Nat
  window : Nat
  sinks : Nat
  keepLast : Nat
  deriving DecidableEq, Repr

/-- One page of an attention request: head kv, page index k, store address (R48). -/
structure AttnPage where
  kv : Nat
  k : Nat
  addr : Nat
  deriving DecidableEq, Repr

/-- One head block of a partial record (11, "Partial records and merging"). -/
structure HeadBlock where
  m : BitVec 32
  l : BitVec 32
  u : BitVec 32
  o : List (BitVec 32)
  deriving DecidableEq, Repr

/-- A partial record. -/
structure PartialRec where
  dcode : Nat
  skipped : Bool
  pages : Nat
  nskip : Nat
  blocks : List HeadBlock
  deriving DecidableEq, Repr

/-- Parameters of a graph search that its subrequests carry (12, GKO_SEARCH operands). -/
structure GkoParams where
  nq : Nat
  k : Nat
  l : Nat
  dim : Nat
  fb : Nat
  metric : Nat
  vfmt : Nat
  scanMax : Nat
  dedup : Bool
  deriving DecidableEq, Repr

/-- One result entry of a search (12, "Results"). -/
structure GkoEntry where
  dist : BitVec 32
  item : BitVec 32
  label : Word
  deriving DecidableEq, Repr

/-- One query's list from one shard. -/
structure GkoList where
  entries : List GkoEntry
  scanned : Bool
  complete : Bool
  limit : Bool
  bad : Nat
  evals : Nat
  deriving DecidableEq, Repr

/-- One item of an insert: slot, label, vector bytes (12, GKO_INSERT). -/
structure GkoItem where
  slot : Nat
  label : Word
  vec : List Byte
  deriving DecidableEq, Repr

/-- One term of a pooled gather: bag, row, its store address, weight, occurrences (R394). -/
structure EmbTerm where
  bag : Nat
  row : Nat
  addr : Nat
  w : BitVec 32
  occ : Nat
  deriving DecidableEq, Repr

/-- A home's partial for one bag: lanes and occurrences pooled (R397). -/
structure EmbPartial where
  bag : Nat
  lanes : List (BitVec 32)
  count : Nat
  deriving DecidableEq, Repr

/-- One update of a row: row, store address, ADD or WRITE, values as FP32 (13, EMB_UPDATE). -/
structure EmbUpd where
  row : Nat
  addr : Nat
  add : Bool
  vals : List (BitVec 32)
  deriving DecidableEq, Repr

/-- The body of a SUBREQ, by the owning chapter (R335, R362, R373, R397, R408); `upd` numbers the update descriptor
at its coordinator, `more` when batches of it follow (R374). -/
inductive Work where
  | attn (p : AttnParams) (queries : List (BitVec 32)) (pages : List AttnPage)
  | gko (shard : Nat) (p : GkoParams) (queries : List Byte) (bitmap : Nat)
  | gkoInsert (shard : Nat) (lbuild : Nat) (upd : Nat) (more : Bool) (items : List GkoItem)
  | gkoDelete (shard : Nat) (upd : Nat) (more : Bool) (slots : List Nat)
  | emb (max : Bool) (rfmt dim : Nat) (terms : List EmbTerm)
  | embUpdate (rfmt dim pitchLog : Nat) (upds : List EmbUpd)
  deriving DecidableEq, Repr

/-- The body of a REPORT (R337, R380, R397, R411). -/
inductive Report where
  | attn (r : PartialRec) (failed : List (Nat × Nat × Status))
  | gko (lists : List GkoList)
  | emb (parts : List EmbPartial) (rows : Nat) (failed : List (Nat × Status))
  | update (done : Nat) (st : Status) (undef : Bool)
  | missing (st : Status)
  deriving DecidableEq, Repr

/-- The body of a fabric message by TYPE (14, the TYPE table). `other` is any TYPE outside the table. -/
inductive Body where
  | rd (addr : BitVec 56) (len : Nat)
  | wr (addr : BitVec 56) (data : List Byte)
  | atom (addr : BitVec 56) (subop width : BitVec 8) (op1 op2 : Word)
  | doorbell (q : BitVec 12) (cq : Bool) (v : Word)
  | streamReset (first : BitVec 24)
  | wrMasked (addr : BitVec 56) (mask : Word) (data : List Byte)
  | subreq (w : Work)
  | cancel (tag : BitVec 32)
  | rdData (data : List Byte)
  | ack
  | report (r : Report)
  | refuse (st : Status)
  | atomResult (old : Word)
  | other (type : BitVec 8)
  deriving DecidableEq, Repr

/-- A fabric message; `bad` marks a non-zero zero field (R423). -/
structure Msg where
  hdr : MsgHdr
  body : Body
  bad : Bool
  deriving DecidableEq, Repr

/-- A received flit (14, "Flits"); `intact` is false when the FEC or the CRC failed. -/
structure Flit where
  fseq : BitVec 14
  ack : BitVec 14
  nak : Bool
  idle : Bool
  intact : Bool
  msgs : List Msg
  deriving DecidableEq, Repr

/-- The identity a far end presents in training (R414). -/
inductive FarIdent where
  | peer (rack : BitVec 6) (m : BitVec 5) (port : BitVec 6)
  | accel (rack : BitVec 6) (pos : BitVec 5) (link : BitVec 6)
  | hall (word : BitVec 32)
  | service
  deriving DecidableEq, Repr

/-- What starts a fast retrain (R418). -/
inductive RetrainCause where
  | watch | uncorrectable | temperature
  deriving DecidableEq, Repr

/-- What puts a head in reset (R467). -/
inductive HeadResetCause where
  | perst | hotReset | linkDown
  deriving DecidableEq, Repr

/-- The transports of MCTP and of SPDM (R461, R466). -/
inductive Transport where
  | vdm (h : Fin 4)
  | i3c
  | service
  | doe (h : Fin 4)
  deriving DecidableEq, Repr

/-- MCTP message types (R466). -/
inductive MctpType where
  | control | spdm | cci | fmApi | stewardCmd | other (t : BitVec 8)
  deriving DecidableEq, Repr

/-- What an SPDM requester offers in NEGOTIATE_ALGORITHMS (R462). -/
structure SpdmOffer where
  p521 : Bool
  sha512 : Bool
  secp521r1 : Bool
  aes256gcm : Bool
  keySched : Bool
  deriving DecidableEq, Repr

/-- What a host writes into an HDM decoder before it commits it (R457). -/
structure Decoder where
  base : Nat
  size : Nat
  ways : Nat
  gran : Nat
  pos : Nat
  dpaBase : Nat
  deriving DecidableEq, Repr

/-- A firmware image: its header's fields, and whether its signature and digest verify and its flash reads (R495). -/
structure Image where
  magic : BitVec 32
  format : BitVec 16
  keyIdx : BitVec 8
  variants : BitVec 8
  svn : BitVec 32
  version : BitVec 32
  length : Nat
  zeroOk : Bool
  sigOk : Bool
  digestOk : Bool
  readOk : Bool
  deriving DecidableEq, Repr

/-- The debounced input pins (R550). -/
inductive Pin where
  | perst (h : Fin 4) | fenceN | hpReqN
  deriving DecidableEq, Repr


/-- The commands, one for each row of the table; each docstring is the row's mnemonic, rule and summary. -/
inductive Instr where
  /-- REGISTER_WRITE (R10). A BAR0 write to a register with no behaviour of its own sets, clears or ignores each field according to its access type, locks and world. -/
  | registerWrite (via : Via) (bytes : Nat) (off : BitVec 26) (v : Word)
  /-- SQ_TAIL_DOORBELL (R120). A BAR2 write of the SQ tail is checked and refused or merged, and makes newly ready slots fetchable. -/
  | sqTailDoorbell (h : Fin 4) (q : Fin 4096) (v : Word)
  /-- CQ_HEAD_DOORBELL (R120). A BAR2 write of the CQ head frees room in the completion ring. -/
  | cqHeadDoorbell (h : Fin 4) (q : Fin 4096) (v : Word)
  /-- DOORBELL (R123). A fabric DOORBELL message is checked against FAB_DB, DB_POS and ACCEL, and is accepted or refused with REFUSE. -/
  | doorbell (p : Fin 50) (m : MsgHdr) (q : BitVec 12) (cq : Bool) (v : Word)
  /-- SLOT_FETCH (R124). The module fetches up to 64 submission slots ahead of the oldest unstarted descriptor and copies each slot whole. -/
  | slotFetch (q : Fin 4096)
  /-- INVALID_OPCODE (R126). A descriptor whose opcode is not in the opcode table completes with ST_INVALID. -/
  | invalidOpcode (q : Fin 4096)
  /-- DESCRIPTOR_COMPLETE (R133). When every issued access has completed and the status is decided, the descriptor completes and its record is due. -/
  | descriptorComplete (d : DescRef)
  /-- COMPLETION_RECORD_WRITE (R138). A completion record is written to the completion ring once there is room, after waiting with CQ_STALL set if needed. -/
  | completionRecordWrite (q : Fin 4096)
  /-- IRQ_TIME_EXPIRY (R149). The moderation timer TIME elapses after the first unsignalled record and the queue raises its vector. -/
  | irqTimeExpiry (q : Fin 4096)
  /-- MSIX_UNMASK (R150). Unmasking a vector whose pending bit is set sends one MSI-X message. -/
  | msixUnmask (h : Fin 4) (vec : Fin 2048)
  /-- DEADLINE_EXPIRY (R135). A descriptor's DEADLINE elapses, it issues no further access and ends with ST_TIMEOUT once its issued accesses complete. -/
  | deadlineExpiry (d : DescRef)
  /-- QUEUE_ENABLE (R115). A write of EN = 1 in state DISABLED enables the queue if CTX and WORLD permit, resetting its pointers and phase, or sets STOP_CAUSE 6. -/
  | queueEnable (via : Via) (q : Fin 4096) (v : Word)
  /-- QUEUE_DISABLE (R116). A write of EN = 0 in state STOPPED disables the queue, discarding fetched slots and steep-cache lines of the queue. -/
  | queueDisable (via : Via) (q : Fin 4096) (v : Word)
  /-- ABORT (R146). A write of ABORT stops the queue, ending started descriptors with ST_ABORTED. -/
  | abort (via : Via) (q : Fin 4096)
  /-- RESUME (R148). A write of RESUME in state STOPPED clears the stop cause and makes the queue RUNNING from SQ_HEAD. -/
  | resume (via : Via) (q : Fin 4096)
  /-- QUEUE_STOPPED (R147). Once started descriptors have ended, fetched unstarted descriptors complete with ST_ABORTED and the queue becomes STOPPED. -/
  | queueStopped (q : Fin 4096)
  /-- NOP (R126). The NOP descriptor does nothing and completes. -/
  | nop (q : Fin 4096)
  /-- FENCE (R176). FENCE waits for every earlier descriptor of its queue and holds later ones until it completes. -/
  | fence (q : Fin 4096)
  /-- ACQUIRE (R178). ACQUIRE with SUBOP 0 reads its flag until it equals VALUE, then drops its queue's steep-cache lines. -/
  | acquire (q : Fin 4096)
  /-- ACQUIRE_AT_LEAST (R178). ACQUIRE with SUBOP 1 reads its flag until it is at least VALUE, then drops its queue's steep-cache lines. -/
  | acquireAtLeast (q : Fin 4096)
  /-- ACQUIRE_NO_WAIT (R178). ACQUIRE with SUBOP 2 reads its flag once and drops its queue's steep-cache lines. -/
  | acquireNoWait (q : Fin 4096)
  /-- ACQUIRE_POLL (R178). The poll INTERVAL of a waiting ACQUIRE elapses and the flag is read again. -/
  | acquirePoll (d : DescRef)
  /-- RELEASE_STORE (R177). RELEASE with SUBOP 0 stores VALUE to its flag after every earlier descriptor of its queue has completed. -/
  | releaseStore (q : Fin 4096)
  /-- RELEASE_ADD (R177). RELEASE with SUBOP 1 adds VALUE to its flag as a precise 8-byte atomic add after earlier descriptors complete. -/
  | releaseAdd (q : Fin 4096)
  /-- FLUSH_RANGE (R181). FLUSH_RANGE writes back dirty steep-cache bytes in a virtual range and leaves the lines clean. -/
  | flushRange (q : Fin 4096)
  /-- INVAL_RANGE (R181). INVAL_RANGE writes back dirty steep-cache bytes in a virtual range and drops the lines. -/
  | invalRange (q : Fin 4096)
  /-- COPY (R265). COPY reads the source in ascending 256-byte pieces and writes each piece to the destination. -/
  | copy (q : Fin 4096)
  /-- COPY_2D (R267). COPY_2D copies rows between pitched source and destination. -/
  | copy2d (q : Fin 4096)
  /-- GATHER_ROWS (R268). GATHER_ROWS copies the table rows named by an index list to consecutive destination rows. -/
  | gatherRows (q : Fin 4096)
  /-- ATOMIC_ADD (R184). ATOMIC SUBOP 0x00 adds OP1 to the target at its home slice and returns the old value. -/
  | atomicAdd (q : Fin 4096)
  /-- ATOMIC_AND (R184). ATOMIC SUBOP 0x01 ANDs OP1 into the target at its home slice. -/
  | atomicAnd (q : Fin 4096)
  /-- ATOMIC_OR (R184). ATOMIC SUBOP 0x02 ORs OP1 into the target at its home slice. -/
  | atomicOr (q : Fin 4096)
  /-- ATOMIC_XOR (R184). ATOMIC SUBOP 0x03 XORs OP1 into the target at its home slice. -/
  | atomicXor (q : Fin 4096)
  /-- ATOMIC_MIN_SIGNED (R184). ATOMIC SUBOP 0x04 stores the signed minimum of the target and OP1. -/
  | atomicMinSigned (q : Fin 4096)
  /-- ATOMIC_MAX_SIGNED (R184). ATOMIC SUBOP 0x05 stores the signed maximum of the target and OP1. -/
  | atomicMaxSigned (q : Fin 4096)
  /-- ATOMIC_MIN_UNSIGNED (R184). ATOMIC SUBOP 0x06 stores the unsigned minimum of the target and OP1. -/
  | atomicMinUnsigned (q : Fin 4096)
  /-- ATOMIC_MAX_UNSIGNED (R184). ATOMIC SUBOP 0x07 stores the unsigned maximum of the target and OP1. -/
  | atomicMaxUnsigned (q : Fin 4096)
  /-- ATOMIC_SWAP (R184). ATOMIC SUBOP 0x08 swaps OP1 into the target. -/
  | atomicSwap (q : Fin 4096)
  /-- ATOMIC_COMPARE_SWAP (R187). ATOMIC SUBOP 0x09 writes OP1 only when the old value equals OP2. -/
  | atomicCompareSwap (q : Fin 4096)
  /-- ATOMIC_FADD (R187). ATOMIC SUBOP 0x0A adds an FP32 value to the target with round to nearest. -/
  | atomicFadd (q : Fin 4096)
  /-- COMBINE_ENTRY_EXPIRY (R188). A pending combining entry reaches 2 µs and is performed at its line. -/
  | combineEntryExpiry (slice : Fin 64) (k : Fin 32)
  /-- ATTN_DECODE_EXACT (R333). ATTN_DECODE SUBOP 0 fans one layer's exact decode attention out to the homes of the cache pages. -/
  | attnDecodeExact (q : Fin 4096)
  /-- ATTN_DECODE_BOUNDED (R343). ATTN_DECODE SUBOP 1 fans decode attention out with page skipping under the summary bound. -/
  | attnDecodeBounded (q : Fin 4096)
  /-- BLEND_MERGE (R341). BLEND_MERGE merges software-held partial records in list order and writes output or a record. -/
  | blendMerge (q : Fin 4096)
  /-- KV_APPEND (R324). KV_APPEND writes new tokens into the BF16 tail pages of each head. -/
  | kvAppend (q : Fin 4096)
  /-- KTL_RUN (R297). KTL_RUN loads and checks a customer program, clears the cluster and starts its Newt's access program. -/
  | ktlRun (q : Fin 4096)
  /-- GKO_SEARCH (R362). GKO_SEARCH sends every query to every listed shard's home and merges the results per query. -/
  | gkoSearch (q : Fin 4096)
  /-- GKO_QUERY_START (R363). A query takes a free query slot of a Gecko engine, reads the shard entry as its snapshot and runs its walk or scan. -/
  | gkoQueryStart (e : Fin 2)
  /-- GKO_INSERT (R374). GKO_INSERT inserts items into a shard under a new shard epoch. -/
  | gkoInsert (q : Fin 4096)
  /-- INSERT_SLOT_REUSE (R375). An insert waiting on a DELETED slot uses it once every query with a snapshot below its DEL_EPOCH has ended. -/
  | insertSlotReuse (tag : Nat)
  /-- GKO_DELETE (R376). GKO_DELETE marks LIVE slots DELETED under a new shard epoch. -/
  | gkoDelete (q : Fin 4096)
  /-- GKO_MERGE (R384). GKO_MERGE merges software-held result areas per query. -/
  | gkoMerge (q : Fin 4096)
  /-- EMB_GATHER (R397). EMB_GATHER combines duplicate occurrences and pools table rows into bags locally or at the rows' homes. -/
  | embGather (q : Fin 4096)
  /-- EMB_UPDATE (R408). EMB_UPDATE forwards update records to their rows' homes in batches. -/
  | embUpdate (q : Fin 4096)
  /-- ROW_UPDATE (R409). A home performs a row's update as a read-modify-write once it holds the row lock. -/
  | rowUpdate (k : Nat)
  /-- EMB_SWITCH_INSTALL (R406). EMB_SWITCH SUBOP 0 waits for the inactive record to drain, installs NEWVER and inverts CUR. -/
  | embSwitchInstall (q : Fin 4096)
  /-- EMB_SWITCH_AND_DRAIN (R406). EMB_SWITCH SUBOP 1 installs and switches, then waits for the old record to drain. -/
  | embSwitchAndDrain (q : Fin 4096)
  /-- EMB_SWITCH_WAIT (R407). EMB_SWITCH SUBOP 2 waits until the inactive record's drain count is 0. -/
  | embSwitchWait (q : Fin 4096)
  /-- DRAIN_COUNT_ZERO (R404). A version record's drain count reaches 0 and a waiting EMB_SWITCH proceeds. -/
  | drainCountZero (t : Fin 1024) (ver : Bool)
  /-- REHOME (R81). MOVE_TILE REHOME moves each page's home to DST_TIER chunk by chunk. -/
  | rehome (q : Fin 4096)
  /-- CHUNK_MOVE (R81). A slice arbiter holds a chunk, drains accepted requests, reads the old frame and writes the new one. -/
  | chunkMove (slot : Fin 128) (c : Fin 16) (rd : MediumOutcome)
  /-- CHUNK_WRITE_ACK (R81). The new frame acknowledges a chunk write, the mask bit is set and held requests are released. -/
  | chunkWriteAck (slot : Fin 128) (c : Fin 16) (rd : MediumOutcome)
  /-- BACK (R567). MOVE_TILE BACK gives UNBACKED pages a zero-filled frame and makes them RESIDENT. -/
  | back (q : Fin 4096)
  /-- UNBACK (R567). MOVE_TILE UNBACK holds each page, recalls host lines, zero-fills and frees the frame, and makes it UNBACKED. -/
  | unback (q : Fin 4096)
  /-- STAGE_IN (R88). MOVE_TILE STAGE_IN copies tiles from memory into scratchpad in format FMT. -/
  | stageIn (q : Fin 4096)
  /-- STAGE_OUT (R88). MOVE_TILE STAGE_OUT copies tiles from scratchpad to memory undoing FMT. -/
  | stageOut (q : Fin 4096)
  /-- SURVEY (R96). MOVE_TILE SURVEY scans pages and writes records for those whose decayed count is cold or hot. -/
  | survey (q : Fin 4096)
  /-- DECAY_SWEEP (R95). Movers apply decay to every page home table entry at least once every 32 768 intervals. -/
  | decaySweep
  /-- XLT_SHOOTDOWN (R57). XLT_SHOOTDOWN drops TLB and walk-cache entries of a context range and waits for accesses translated through them. -/
  | xltShootdown (q : Fin 4096)
  /-- XLT_SYNC (R58). XLT_SYNC re-reads the context entry, compares GEN and drops every translation of the context. -/
  | xltSync (q : Fin 4096)
  /-- PAGE_WALK (R53). A TLB miss walks the context entry and page tables, ending in a translation or a fault. -/
  | pageWalk (d : DescRef) (va : BitVec 57) (acc : AccessKind)
  /-- FAULT_RECORD_WAIT_END (R64). A replayable fault stalled on a full fault ring writes its record once room appears. -/
  | faultRecordWaitEnd (tok : BitVec 32)
  /-- FAULT_REPLAY (R67). A replay response walks every joined access again and resumes the descriptors or writes a new fault. -/
  | faultReplay (via : Via) (tok : BitVec 32)
  /-- FAULT_ABORT (R68). An abort response ends every descriptor joined to the token with its fault kind's status. -/
  | faultAbort (via : Via) (tok : BitVec 32)
  /-- FAULT_RESPONSE_TIMEOUT (R69). TMO elapses with a token outstanding, its descriptors end with ST_TIMEOUT and the token is retired. -/
  | faultResponseTimeout (tok : BitVec 32)
  /-- FAULT_RING_ENABLE (R71). A write that changes fault ring EN from 0 to 1 sets TAIL to HEAD and restarts the phase. -/
  | faultRingEnable (via : Via) (v : Word)
  /-- FAULT_RING_DISABLE (R71). A write of fault ring EN = 0 retires every outstanding token and ends its descriptors as under abort. -/
  | faultRingDisable (via : Via) (v : Word)
  /-- NEWT_SLOT_BEGIN (R252). A Newt begins the next ring slot when the ring and steep window allow, issuing its stream reads. -/
  | newtSlotBegin (n : Fin 32) (ring : Fin 8)
  /-- NEWT_READ_RETURN (R251). A stream read returns, its data is written to the ring and FILLED advances over complete leading slots. -/
  | newtReadReturn (n : Fin 32) (k : Nat)
  /-- KTL_NOP (R301). Kettle NOP does nothing for one cycle. -/
  | ktlNop (n : Fin 32)
  /-- KTL_END (R312). Kettle END ends the program, and the descriptor completes with PROGRESS S15 and RESULT S14. -/
  | ktlEnd (n : Fin 32)
  /-- KTL_SET (R301). Kettle SET writes IMM to a scalar register. -/
  | ktlSet (n : Fin 32)
  /-- KTL_ADDI (R301). Kettle ADDI adds IMM to a scalar register. -/
  | ktlAddi (n : Fin 32)
  /-- KTL_ADD (R301). Kettle ADD adds two scalar registers. -/
  | ktlAdd (n : Fin 32)
  /-- LOOP (R311). LOOP repeats the next instructions N + S[SC] times. -/
  | loop (n : Fin 32)
  /-- RWAIT (R309). RWAIT waits until a ring slot is filled, or ends the descriptor on a failed slot or run-time error. -/
  | rwait (n : Fin 32)
  /-- RREL (R310). RREL sets RELEASED of the masked rings once earlier ring readers have finished. -/
  | rrel (n : Fin 32)
  /-- LDS (R301). LDS loads stationary tiles from scratchpad into an array. -/
  | lds (n : Fin 32)
  /-- MMA (R302). MMA streams operand groups through an array and sums them into accumulator columns. -/
  | mma (n : Fin 32)
  /-- ACCRD (R304). ACCRD reads accumulator segments into vector registers. -/
  | accrd (n : Fin 32)
  /-- ACCCLR (R301). ACCCLR sets accumulator columns to +0. -/
  | accclr (n : Fin 32)
  /-- VLD (R305). VLD loads and decodes vector registers from store space, a ring or scratchpad. -/
  | vld (n : Fin 32)
  /-- VST (R305). VST encodes vector registers and stores them to store space or scratchpad. -/
  | vst (n : Fin 32)
  /-- VOP_ADD (R301). VOP with M 0 adds two vector registers lane by lane. -/
  | vopAdd (n : Fin 32)
  /-- VOP_SUB (R301). VOP with M 1 subtracts two vector registers. -/
  | vopSub (n : Fin 32)
  /-- VOP_MUL (R301). VOP with M 2 multiplies two vector registers. -/
  | vopMul (n : Fin 32)
  /-- VOP_MAX (R301). VOP with M 3 takes the lane maximum. -/
  | vopMax (n : Fin 32)
  /-- VOP_MIN (R301). VOP with M 4 takes the lane minimum. -/
  | vopMin (n : Fin 32)
  /-- VOPI_ADD (R301). VOPI with M 0 adds an FP32 immediate to every lane. -/
  | vopiAdd (n : Fin 32)
  /-- VOPI_SUB (R301). VOPI with M 1 subtracts an FP32 immediate. -/
  | vopiSub (n : Fin 32)
  /-- VOPI_MUL (R301). VOPI with M 2 multiplies by an FP32 immediate. -/
  | vopiMul (n : Fin 32)
  /-- VOPI_MAX (R301). VOPI with M 3 takes the maximum with an FP32 immediate. -/
  | vopiMax (n : Fin 32)
  /-- VOPI_MIN (R301). VOPI with M 4 takes the minimum with an FP32 immediate. -/
  | vopiMin (n : Fin 32)
  /-- KTL_FMA (R301). FMA computes Va × Vb + Vd with one rounding. -/
  | ktlFma (n : Fin 32)
  /-- VFN_EXP2 (R290). VFN with M 0 computes 2^x per lane. -/
  | vfnExp2 (n : Fin 32)
  /-- VFN_RCP (R290). VFN with M 1 computes the reciprocal per lane. -/
  | vfnRcp (n : Fin 32)
  /-- VFN_RSQRT (R290). VFN with M 2 computes the reciprocal square root per lane. -/
  | vfnRsqrt (n : Fin 32)
  /-- VFN_TANH (R290). VFN with M 3 computes tanh per lane. -/
  | vfnTanh (n : Fin 32)
  /-- VFN_SIGMOID (R290). VFN with M 4 computes the sigmoid per lane. -/
  | vfnSigmoid (n : Fin 32)
  /-- VFN_MOV (R301). VFN with M 5 copies vector registers. -/
  | vfnMov (n : Fin 32)
  /-- RED_SUM (R290). RED with M 0 writes the pairwise row sum to every lane. -/
  | redSum (n : Fin 32)
  /-- RED_MAX (R290). RED with M 1 writes the row maximum to every lane. -/
  | redMax (n : Fin 32)
  /-- CAST (R287). CAST rounds each lane to a format and returns it as FP32. -/
  | cast (n : Fin 32)
  /-- LSEM (R291). LSEM merges two softmax partials under LSE_MERGE. -/
  | lsem (n : Fin 32)
  /-- MASK (R306). MASK replaces lanes whose position lies outside the scalar limits with a constant. -/
  | mask (n : Fin 32)
  /-- SCAP (R301). SCAP applies the soft-cap IMM × tanh(Va × X). -/
  | scap (n : Fin 32)
  /-- TOPK (R307). TOPK merges lanes into a descending list of the k best values with indices. -/
  | topk (n : Fin 32)
  /-- ENGINE_WATCHDOG (R500). An engine makes no progress for ENG_WDT and is contained at engine scope. -/
  | engineWatchdog (e : Eng)
  /-- MEM_RD (R203). A host MemRd with MetaValue A, S or I is acted on by the directory, granting data or snooping. -/
  | memRd (r : HostMsg) (mv : MetaValue)
  /-- MEM_RD_DATA (R203). A host MemRdData acts as MemRd with MetaValue S. -/
  | memRdData (r : HostMsg)
  /-- MEM_INV (R203). A host MemInv or MemInvNT acquires ownership or invalidates copies at the directory. -/
  | memInv (r : HostMsg) (mv : MetaValue)
  /-- MEM_CLN_EVCT (R203). A host MemClnEvct removes the host from the line's holders and is answered with Cmp. -/
  | memClnEvct (r : HostMsg)
  /-- MEM_SPEC_RD (R203). A host MemSpecRd has no effect and no response. -/
  | memSpecRd (r : HostMsg)
  /-- MEM_WR (R203). A host MemWr is sunk and written, held, or snooped for according to the line's state. -/
  | memWr (r : HostMsg) (mv : MetaValue) (data : List Byte) (poison : Bool)
  /-- MEM_WR_PTL (R203). A host MemWrPtl with MetaValue I is written or snooped for; other MetaValues are protocol errors. -/
  | memWrPtl (r : HostMsg) (mv : MetaValue) (mask : Word) (data : List Byte)
  /-- BI_CONFLICT (R205). A host BIConflict is answered with BIConflictAck after earlier completions to that host. -/
  | biConflict (r : HostMsg)
  /-- BI_RSP_I (R204). A BIRspI clears an awaited host, and the last awaited answer performs the pending request. -/
  | biRspI (r : HostMsg)
  /-- BI_RSP_S (R204). A BIRspS from the owner in M_DATA answers the snoop keeping the owner as sharer. -/
  | biRspS (r : HostMsg)
  /-- ENGINE_READ (R212). An engine or accelerator read reaches its home slice and is served or snoops the owner. -/
  | engineRead (r : EngReq)
  /-- ENGINE_WRITE (R211). An engine or accelerator write reaches its home slice and is written after host copies are invalidated. -/
  | engineWrite (r : EngReq) (mask : List Bool) (data : List Byte)
  /-- SNOOP_TIMEOUT (R213). A snoop goes unanswered for TMO and the host is declared down with cause 2. -/
  | snoopTimeout (host : Fin 64)
  /-- HOST_DOWN_DECLARE (R213). A write of DOWN = 1 declares a host down and starts its recovery. -/
  | hostDownDeclare (via : Via) (host : Fin 64) (v : Word)
  /-- DOMAIN_DOWN (R215). When every slice has finished recovery each RECOVERING domain becomes DOWN and an event is recorded. -/
  | domainDown
  /-- HOST_RETURN (R221). A write of DOWN = 0 returns the host to service holding no line, if no listing domain is RECOVERING. -/
  | hostReturn (via : Via) (host : Fin 64) (v : Word)
  /-- HOST_INVALIDATE (R194). A write of VALID = 0 to HOME_HOST_n takes effect only while the host is down and not recovering. -/
  | hostInvalidate (via : Via) (host : Fin 64) (v : Word)
  /-- RESTART (R220). A write of RESTART = 1 makes a DOWN domain RUNNING when no listed host is down. -/
  | restart (via : Via) (dom : Fin 256)
  /-- POISON_LOG_ENABLE (R219). A write that sets the poison log EN clears LOST and restarts the ring. -/
  | poisonLogEnable (via : Via) (v : Word)
  /-- SET_DC_REGION_CONFIGURATION (R568). The FM API command sets a DC region's range while it holds no extent. -/
  | setDcRegionConfiguration (region : Fin 8) (base len : Nat)
  /-- ADD_DYNAMIC_CAPACITY (R568). The fabric manager's Add offers an extent to hosts if it fits a region and overlaps nothing. -/
  | addDynamicCapacity (base len tag : Nat) (hosts : Word)
  /-- ADD_DYNAMIC_CAPACITY_RESPONSE (R103). A host's response accepts or declines an offered extent. -/
  | addDynamicCapacityResponse (h : Fin 4) (host : Fin 64) (ext : Nat) (accept : Bool)
  /-- RELEASE_DYNAMIC_CAPACITY (R104). A host releases an extent, leaving the list or sending the extent to DRAINING. -/
  | releaseDynamicCapacity (h : Fin 4) (host : Fin 64) (ext : Nat)
  /-- FORCED_RELEASE (R105). The fabric manager forces release of an extent, which enters DRAINING. -/
  | forcedRelease (ext : Nat)
  /-- EXTENT_DRAIN_DONE (R105). A DRAINING extent's accepted requests have completed and lines recalled, and it enters SCRUBBING. -/
  | extentDrainDone (ext : Nat)
  /-- EXTENT_SCRUB_DONE (R106). Every backed chunk of a SCRUBBING extent is zero-filled; the release is reported and the extent removed. -/
  | extentScrubDone (ext : Nat)
  /-- GET_DYNAMIC_CAPACITY_CONFIGURATION (R456). The mailbox command returns the Dynamic Capacity configuration. -/
  | getDynamicCapacityConfiguration (h : Fin 4)
  /-- GET_DYNAMIC_CAPACITY_EXTENT_LIST (R456). The mailbox command returns the extent list. -/
  | getDynamicCapacityExtentList (h : Fin 4)
  /-- IDENTIFY (R456). The mailbox Identify command returns device identification. -/
  | identify (h : Fin 4)
  /-- GET_SUPPORTED_LOGS (R456). The mailbox command returns the supported logs. -/
  | getSupportedLogs (h : Fin 4)
  /-- GET_LOG (R456). The mailbox command returns the Command Effects Log. -/
  | getLog (h : Fin 4)
  /-- GET_EVENT_RECORDS (R456). The mailbox command returns event records. -/
  | getEventRecords (h : Fin 4)
  /-- CLEAR_EVENT_RECORDS (R456). The mailbox command clears event records. -/
  | clearEventRecords (h : Fin 4) (count : Nat)
  /-- GET_EVENT_INTERRUPT_POLICY (R456). The mailbox command returns the event interrupt policy. -/
  | getEventInterruptPolicy (h : Fin 4)
  /-- SET_EVENT_INTERRUPT_POLICY (R456). The mailbox command sets the event interrupt policy. -/
  | setEventInterruptPolicy (h : Fin 4) (policy : BitVec 40)
  /-- GET_TIMESTAMP (R456). The mailbox command returns the host-kept timestamp. -/
  | getTimestamp (h : Fin 4)
  /-- SET_TIMESTAMP (R456). The mailbox command stores a timestamp for the host that the module never uses. -/
  | setTimestamp (h : Fin 4) (v : Word)
  /-- IDENTIFY_MEMORY_DEVICE (R456). The mailbox command returns memory device identification. -/
  | identifyMemoryDevice (h : Fin 4)
  /-- GET_POISON_LIST (R456). The mailbox command returns the poison list. -/
  | getPoisonList (h : Fin 4)
  /-- UNSUPPORTED_MAILBOX_COMMAND (R456). Any other mailbox command completes with return code Unsupported. -/
  | unsupportedMailboxCommand (h : Fin 4) (op : BitVec 16)
  /-- HDM_DECODER_COMMIT (R457). A host commits an HDM decoder, which fails if its range exceeds 2^44 or WINDOW. -/
  | hdmDecoderCommit (h : Fin 4) (k : Fin 8) (dec : Decoder)
  /-- DOE_DISCOVERY (R461). A DOE Discovery object is answered by the head's DOE mailbox. -/
  | doeDiscovery (h : Fin 4) (index : Nat)
  /-- CDAT_TABLE_ACCESS (R461). A DOE CDAT request returns tier entries. -/
  | cdatTableAccess (h : Fin 4) (index : Nat)
  /-- GET_VERSION (R462). SPDM GET_VERSION offers version 1.3 only. -/
  | getVersion (t : Transport)
  /-- GET_CAPABILITIES (R462). SPDM GET_CAPABILITIES returns the responder capabilities. -/
  | getCapabilities (t : Transport)
  /-- NEGOTIATE_ALGORITHMS (R462). SPDM NEGOTIATE_ALGORITHMS selects P-521, SHA-512, secp521r1 and AES-256-GCM. -/
  | negotiateAlgorithms (t : Transport) (offer : SpdmOffer)
  /-- GET_DIGESTS (R493). SPDM GET_DIGESTS returns the digest of slot 0's chain. -/
  | getDigests (t : Transport)
  /-- GET_CERTIFICATE (R493). SPDM GET_CERTIFICATE returns the device CA, DeviceID and Alias chain. -/
  | getCertificate (t : Transport) (slot : Fin 8)
  /-- CHALLENGE (R493). SPDM CHALLENGE is answered signed with the Alias key. -/
  | challenge (t : Transport) (slot : Fin 8) (nonce : List Byte)
  /-- GET_MEASUREMENTS (R494). SPDM GET_MEASUREMENTS returns the measurement blocks, signed if asked. -/
  | getMeasurements (t : Transport) (index : BitVec 8) (nonce : List Byte) (sign : Bool)
  /-- KEY_EXCHANGE (R462). SPDM KEY_EXCHANGE starts a secure session. -/
  | keyExchange (t : Transport) (peer : List Byte)
  /-- FINISH (R462). SPDM FINISH completes a secure session handshake. -/
  | finish (t : Transport)
  /-- KEY_UPDATE (R462). SPDM KEY_UPDATE refreshes session keys. -/
  | keyUpdate (t : Transport)
  /-- HEARTBEAT (R462). SPDM HEARTBEAT keeps a session alive. -/
  | heartbeat (t : Transport)
  /-- END_SESSION (R462). SPDM END_SESSION ends a secure session. -/
  | endSession (t : Transport)
  /-- IDE_KM (R463). An IDE_KM message inside a secure session programs or refreshes IDE keys. -/
  | ideKm (h : Fin 4) (mem : Bool) (go : Bool)
  /-- IDE_FAILURE (R465). An IDE integrity or sequence failure takes the stream insecure and declares the head's hosts down. -/
  | ideFailure (h : Fin 4) (mem : Bool)
  /-- MCTP_MESSAGE (R466). An MCTP message arriving on a transport is accepted by type or discarded with an event. -/
  | mctpMessage (t : Transport) (kind : MctpType)
  /-- FIRMWARE_UPDATE (R496). Firmware commands deliver an image that the steward verifies, writes to the slot and marks STAGED. -/
  | firmwareUpdate (t : Transport) (img : Image)
  /-- COMMIT_SVN (R495). A secure write of COMMIT_SVN blows anti-rollback fuses until SVN_MIN equals the running SVN. -/
  | commitSvn (via : Via)
  /-- FUNCTION_LEVEL_RESET (R469). An FLR clears Bus Master Enable, MSI-X state and the DOE mailbox of the head. -/
  | functionLevelReset (h : Fin 4)
  /-- CONFIG_REQUEST (R541). A configuration request before READY is answered with Configuration Request Retry Status;
  `bme` is the value that a served request writes to Bus Master Enable, if it writes it (R471). -/
  | configRequest (h : Fin 4) (bme : Option Bool)
  /-- HEAD_RESET (R467). PERST_N, a hot reset or link down puts a head in reset, resetting its own state and declaring its hosts down. -/
  | headReset (h : Fin 4) (cause : HeadResetCause)
  /-- HEAD_RESET_EXIT (R468). PERST_N deasserted and the link trained take the head out of reset. -/
  | headResetExit (h : Fin 4) (speed : Fin 8) (width : Fin 32) (flit : Bool)
  /-- HEAD_REFUSAL_INTERVAL (R460). At the end of a 2^30-tick interval with refusals the steward raises a HEAD_REFUSALS event. -/
  | headRefusalInterval (h : Fin 4)
  /-- HOST_DMA_COMPLETION (R472). A host-memory read completion returns, with poison or error ending its request. -/
  | hostDmaCompletion (id : Nat) (r : DmaOutcome)
  /-- HOST_DMA_TIMEOUT (R100). A host-memory DMA misses TIER_TMO.HOST and ends its request with ST_TIER_ERR. -/
  | hostDmaTimeout (id : Nat)
  /-- TIER_ACCESS_COMPLETE (R97). An HBM4 or LPDDR6 access completes, with an uncorrectable error ending the request and poisoning the line. -/
  | tierAccessComplete (id : Nat) (r : MediumOutcome)
  /-- TIER_DEADLINE (R98). A tier access misses its deadline and ends its request with ST_TIMEOUT. -/
  | tierDeadline (id : Nat)
  /-- CHANNEL_RETRAIN (R542). A channel whose device temperature has moved more than 10 °C retrains while its requests wait. -/
  | channelRetrain (tier : Tier) (ch : Fin 256) (byErrors : Bool)
  /-- RETIREMENT_RESUME (R101). A retirement paused for an empty LPDDR6 pool resumes when frames are free. -/
  | retirementResume (part : PartId)
  /-- RETIREMENT_DONE (R521). A part's retirement ends, the part becomes RETIRED and capability registers change. -/
  | retirementDone (part : PartId)
  /-- WINDOW_WRITE (R79). A write to WINDOW resizes the page home table area while every page is UNBACKED, or is ignored. -/
  | windowWrite (via : Via) (v : Word)
  /-- MAP_EPOCH_COMMIT (R108). A write of NEXT = CUR + 1 commits the staged set tables and increments CUR. -/
  | mapEpochCommit (via : Via) (v : Word)
  /-- CMTR_SNAPSHOT (R113). A write to TIER_CMTR_SEL snapshots the composition meters. -/
  | cmtrSnapshot (via : Via) (v : Word)
  /-- PTICK_PERIOD (R113). Every 2^20 ticks each composition's resident page count is added to PTICK. -/
  | ptickPeriod
  /-- PARTITION_COMMIT (R23). A write to GLB_PART_CTL takes effect together with staged membership in one step. -/
  | partitionCommit (via : Via) (v : Word)
  /-- GRANT_GO (R484). A SEC_GRANT GO writes a grant code for a range of contexts in a region. -/
  | grantGo (via : Via) (v : Word)
  /-- GRANT_ACKNOWLEDGED (R47). Once every slice has dropped cached grant bits the steward acknowledges the change and BUSY clears. -/
  | grantAcknowledged (secure : Bool)
  /-- REGION_LOAD (R480). A SEC_RGN_SEL write with COMMIT = 0 loads the staged registers from the named region. -/
  | regionLoad (via : Via) (v : Word)
  /-- REGION_COMMIT (R481). A SEC_RGN_SEL write with COMMIT = 1 commits the staged region fields or is refused. -/
  | regionCommit (via : Via) (v : Word)
  /-- REGION_COMMIT_ACK (R482). The steward acknowledges a region commit at every slice and BUSY clears. -/
  | regionCommitAck (secure : Bool)
  /-- KEY_SLOT_SELECT (R489). A write of SLOT loads LOADED, SWORLD and USERS of the key slot. -/
  | keySlotSelect (via : Via) (v : Word)
  /-- GENERATE (R489). GENERATE fills an empty key slot from the DRBG in the writer's world. -/
  | generate (via : Via) (v : Word)
  /-- ERASE (R489). ERASE zeroes a key slot that no region uses. -/
  | erase (via : Via) (v : Word)
  /-- ENGINE_WORLD_CHANGE (R478). A change to an engine's world bit takes effect when it is idle and owns no bank, flushing its steep cache. -/
  | engineWorldChange (via : Via) (misc : Bool) (v : Word)
  /-- WLOCK_SET (R563). A secure write of WLOCK locks the world registers until module reset. -/
  | wlockSet (via : Via) (v : Word)
  /-- BANK_HANDOVER (R227). A CADDY_OWN GO hands a bank to the next owner, stopping old grants and scrubbing if asked. -/
  | bankHandover (via : Via) (b : Fin 2048) (v : Word)
  /-- BANK_HANDOVER_DONE (R227). The handover's scrub ends, the new owner is installed and its waiting requests are granted. -/
  | bankHandoverDone (b : Fin 2048)
  /-- BANK_WORLD_WRITE (R492). A write to a bank's WORLD takes effect in state UNOWNED and scrubs the bank. -/
  | bankWorldWrite (via : Via) (b : Fin 2048) (v : Word)
  /-- SCRATCHPAD_UE (R235). An uncorrectable scratchpad read marks the word poisoned. -/
  | scratchpadUe (off : BitVec 32)
  /-- FIELD_REPAIR (R236). A column reaching THRESH corrected errors has a field-repair fuse blown by the steward. -/
  | fieldRepair (b : Fin 2048) (subarray : Fin 16) (column : Nat)
  /-- BANK_RETIRE (R237). A bank is retired, its accesses refused, and a directory or table bank replaced. -/
  | bankRetire (b : Fin 2048)
  /-- CADDY_CLEAR_DONE (R240). Caddy finishes zeroing every bank and sets READY. -/
  | caddyClearDone
  /-- CONTAIN (R502). A RAS_CONTAIN GO with ACTION 1 contains an object at its scope. -/
  | contain (via : Via) (v : Word)
  /-- RELEASE (R503). A RAS_CONTAIN GO with ACTION 2 releases a contained object when no action is in progress. -/
  | release (via : Via) (v : Word)
  /-- MODULE_CONTAINMENT (R505). Module containment halts engines, asserts ALERT_N, applies fail-safe states and stops every queue. -/
  | moduleContainment (cause : BitVec 32)
  /-- STEWARD_WATCHDOG (R501). The steward watchdog expires, hardware contains the module and restarts the steward in boot ROM. -/
  | stewardWatchdog
  /-- HEALTH_EVENT (R521). A scored event raises a part's score and may change it to ADVISED or RETIRING. -/
  | healthEvent (part : PartId) (ev : PartEvent)
  /-- HEALTH_DECAY (R519). Once every operating second each score decays and a part may return to GOOD. -/
  | healthDecay
  /-- LASER_SCORE_UPDATE (R523). Every operating second a laser cartridge's score is recomputed from its bias drift. -/
  | laserScoreUpdate (c : Fin 8) (bias : BitVec 16)
  /-- HEALTH_SNAPSHOT (R521). A write to RAS_HEALTH_SEL snapshots the named part's health. -/
  | healthSnapshot (via : Via) (v : Word)
  /-- ADVISORY_RING_ENABLE (R524). A write that sets the advisory ring EN clears LOST and restarts the ring. -/
  | advisoryRingEnable (via : Via) (v : Word)
  /-- RECORD_WINDOW_CLOSE (R529). An open record's 2^30-tick window closes and it is programmed into flash. -/
  | recordWindowClose (seq : Nat)
  /-- COUNTER_ENTRY_WRITE (R527). Every 16 operating seconds the steward writes a counter entry to the counter area. -/
  | counterEntryWrite
  /-- EVR_LOAD (R528). A write to EVR_RD loads a record into EVR_DATA and sets BAD if it cannot be read. -/
  | evrLoad (via : Via) (v : Word)
  /-- EMB_DRAIN_SNAPSHOT (R404). A write to EMB_DRAIN_SEL snapshots both drain counts of a table. -/
  | embDrainSnapshot (via : Via) (v : Word)
  /-- FLIT_RECEIVED (R421). A received flit is taken in order, or discarded with NAK when uncorrectable, failing CRC or duplicated. -/
  | flitReceived (n : Fin 50) (f : Flit)
  /-- RD (R429). An RD message is checked at the home, or forwarded as transit, and answered with RD_DATA or REFUSE. -/
  | rd (p : Fin 50) (m : MsgHdr) (addr : BitVec 56) (len : Nat)
  /-- WR (R429). A WR message is accepted in stream SEQ order, or held, discarded as duplicate, or refused. -/
  | wr (p : Fin 50) (m : MsgHdr) (addr : BitVec 56) (data : List Byte)
  /-- ATOM (R570). An ATOM message is performed in SEQ order and answered with ATOM_RESULT, or marks poison for SUBOP 0xFE. -/
  | atom (p : Fin 50) (m : MsgHdr) (addr : BitVec 56) (subop width : BitVec 8) (op1 op2 : Word)
  /-- WR_MASKED (R571). A WR_MASKED message writes its enabled bytes of one line as one write. -/
  | wrMasked (p : Fin 50) (m : MsgHdr) (addr : BitVec 56) (mask : Word) (data : List Byte)
  /-- STREAM_RESET (R432). A STREAM_RESET discards held messages below its number and is answered with ACK. -/
  | streamReset (p : Fin 50) (m : MsgHdr) (first : BitVec 24)
  /-- SUBREQ (R362). A SUBREQ batch is checked at the home and run on its engines. -/
  | subreq (p : Fin 50) (m : MsgHdr) (w : Work)
  /-- CANCEL (R348). A CANCEL message stops the named subrequest at the home. -/
  | cancel (p : Fin 50) (m : MsgHdr) (tag : BitVec 32)
  /-- RD_DATA (R431). RD_DATA answers a read at its source, duplicates being discarded. -/
  | rdData (p : Fin 50) (m : MsgHdr) (data : List Byte)
  /-- ACK (R430). A cumulative ACK releases every stored message of the stream up to its number. -/
  | ack (p : Fin 50) (m : MsgHdr)
  /-- REPORT (R337). A REPORT delivers a home's result to the coordinator, which merges it and writes output when all homes are in. -/
  | report (p : Fin 50) (m : MsgHdr) (r : Report)
  /-- REFUSE (R430). A REFUSE ends the refused store or request at its source with the given status. -/
  | refuse (p : Fin 50) (m : MsgHdr) (st : Status)
  /-- ATOM_RESULT (R570). An ATOM_RESULT returns the old value and completes the atomic access at its source. -/
  | atomResult (p : Fin 50) (m : MsgHdr) (old : Word)
  /-- CREDIT (R421). A CREDIT link control message updates the sender's credits per virtual channel. -/
  | credit (n : Fin 50) (counts : List (BitVec 16))
  /-- MESSAGE_SEND (R447). An egress port sends the next eligible message by virtual channel order, credits, shaper and gate. -/
  | messageSend (n : Fin 50)
  /-- RESEND_TIMEOUT (R431). An unanswered store or read reaches RESEND and is sent again on the next path. -/
  | resendTimeout (store : Bool) (dst : Fin 32) (stream : Fin 64) (seq : BitVec 24)
  /-- STREAM_GIVEUP (R432). The oldest unanswered message reaches GIVEUP, the stream's messages time out and STREAM_RESET is sent. -/
  | streamGiveup (dst : Fin 32) (stream : Fin 64)
  /-- HOME_TMO_EXPIRY (R348). HOME_TMO elapses, the coordinator cancels the missing homes and proceeds without them. -/
  | homeTmoExpiry (d : DescRef)
  /-- PORT_ENABLE (R416). A change of port EN from 0 to 1 clears FAILED and starts training. -/
  | portEnable (via : Via) (n : Fin 50) (v : Word)
  /-- PORT_DISABLE (R416). A write of port EN = 0 takes the port DOWN. -/
  | portDisable (via : Via) (n : Fin 50) (v : Word)
  /-- SIGNAL_DETECT (R546). A port DOWN with no signal detects signal and starts training. -/
  | signalDetect (n : Fin 50)
  /-- SIGNAL_LOSS (R422). A port loses signal, goes DOWN with cause 2 and discards its replay buffer. -/
  | signalLoss (n : Fin 50)
  /-- IDENTITY_EXCHANGE (R414). Training completes lock and exchanges identities, keeping a miswired port DOWN. -/
  | identityExchange (n : Fin 50) (far : FarIdent) (temp : BitVec 8)
  /-- LOAD_MARGIN_CHECK (R417). The load-margin check ends after LM_TIME and the port becomes UP or DOWN with cause MARGIN. -/
  | loadMarginCheck (n : Fin 50) (worst : BitVec 8) (uncorr : Bool) (farPass : Bool)
  /-- MARGIN_RETRY (R417). One second after a failed margin check the port retries training. -/
  | marginRetry (n : Fin 50)
  /-- RETRAIN_TRIGGER (R418). WATCH_MAX high-correction codewords in 1 ms, an uncorrectable codeword or a temperature drift starts a fast retrain. -/
  | retrainTrigger (n : Fin 50) (why : RetrainCause)
  /-- RETRAIN (R420). A write of RETRAIN = 1 to an UP port forces a fast retrain. -/
  | retrain (via : Via) (n : Fin 50)
  /-- PORT_FENCE (R435). A write of FENCE sets or clears a port's fence, withholding or returning credits. -/
  | portFence (via : Via) (n : Fin 50) (v : Word)
  /-- IDENT_SET (R14). A write of ZL_IDENT with SET = 1 fixes rack and module and lets ports and CXL.mem start. -/
  | identSet (via : Via) (v : Word)
  /-- LASER_SERVICE (R436). A write of SERVICE = 1 moves a cartridge's engines to their other feed and brings it to STANDBY. -/
  | laserService (via : Via) (c : Fin 8)
  /-- LASER_SERVICE_END (R436). A write of SERVICE = 0 returns the engines to both feeds and retrains laser-caused ports. -/
  | laserServiceEnd (via : Via) (c : Fin 8)
  /-- LASER_INSERTED (R436). A cartridge is inserted and ramps to ACTIVE in about 200 ms. -/
  | laserInserted (c : Fin 8)
  /-- LASER_LOSS (R436). A cartridge removed without SERVICE or failed switches its engines to the other feed within 2 µs. -/
  | laserLoss (c : Fin 8) (failed : Bool)
  /-- METER_MAP_WRITE (R437). A QOS_CTX_MAP write with GO sets a context's meter mapping. -/
  | meterMapWrite (via : Via) (v : Word)
  /-- METER_MAP_READ (R437). A QOS_CTX_MAP write with READ loads a context's meter mapping. -/
  | meterMapRead (via : Via) (v : Word)
  /-- APPLY (R446). A write of APPLY commits staged rates and bursts and sets the buckets in one step. -/
  | apply (via : Via) (m : Fin 4096) (v : Word)
  /-- METER_SNAPSHOT (R440). A write to QOS_MTR_SEL snapshots a meter's counters. -/
  | meterSnapshot (via : Via) (v : Word)
  /-- DELAY_QUEUE_RECOLOUR (R442). At each refill the head of a meter's delay queue is coloured again and leaves, is refused or stays. -/
  | delayQueueRecolour (m : Fin 4096)
  /-- SHAPER_WRITE (R450). A write to QOS_SHP takes effect at the next message boundary and sets the credit per FILL. -/
  | shaperWrite (via : Via) (n : Fin 50) (vc : Fin 8) (v : Word)
  /-- GATE_ENABLE (R451). A change of gate EN from 0 to 1 starts the active list at entry 0. -/
  | gateEnable (via : Via) (n : Fin 50) (v : Word)
  /-- SWITCH (R451). A write of SWITCH makes the other gate list active at the end of the cycle. -/
  | switch (via : Via) (n : Fin 50) (v : Word)
  /-- GATE_ENTRY_END (R452). A gate list entry's DUR expires and the next entry opens its gates. -/
  | gateEntryEnd (n : Fin 50)
  /-- UNIT_DISABLE (R562). A secure write to GLB_UNIT_DIS disables or re-enables idle units and updates capability registers. -/
  | unitDisable (via : Via) (v : Word)
  /-- UNITS_LOCK (R563). A secure write of GLB_LOCK.UNITS locks GLB_UNIT_DIS until module reset. -/
  | unitsLock (via : Via) (v : Word)
  /-- POWER_UP (R540). 48 V reaches the connector and the module boots, trains and clears to READY or RECOVERY. -/
  | powerUp (img : Image)
  /-- MODULE_RESET (R539). A keyed RESET write or the MCTP reset command resets the module domain. -/
  | moduleReset (mctp : Bool) (via : Via) (v : Word)
  /-- OFFLINE (R547). A keyed OFFLINE write stops queues, darkens ports and turns rails off to state OFF. -/
  | offline (via : Via) (v : Word)
  /-- INPUT_POWER_LOSS (R549). 48 V below 40 V for 2 µs halts engines, darkens lasers and finishes only a running flash program. -/
  | inputPowerLoss
  /-- FABRIC_REFERENCE_LOSS (R552). The fabric reference is lost for 1 µs and the PLLs hold over with REF_HOLD set. -/
  | fabricReferenceLoss
  /-- FABRIC_REFERENCE_RETURN (R552). The fabric reference returns and the PLLs relock, clearing REF_HOLD. -/
  | fabricReferenceReturn
  /-- REF_HOLD_TIMEOUT (R552). The reference stays lost for 100 ms and the module is contained. -/
  | refHoldTimeout
  /-- HEAD_REFERENCE_LOSS (R550). A head's 100 MHz reference is lost for 1 µs and its link goes down. -/
  | headReferenceLoss (h : Fin 4)
  /-- FENCE_N_ASSERT (R31). FENCE_N asserted after debounce closes the hall uplinks. -/
  | fenceNAssert
  /-- FENCE_N_RELEASE (R550). FENCE_N released for 10 ms reopens the hall uplinks. -/
  | fenceNRelease
  /-- HP_REQ_N (R550). A debounced HP_REQ_N assertion reports a removal request in HP_REQ and HP_SEEN. -/
  | hpReqN
  /-- GLITCH (R551). An input pulse shorter than its debounce is ignored and counted. -/
  | glitch (pin : Pin)
  /-- POWER_CONTROL_TICK (R554). Every 100 µs the steward updates the power and thermal demands, the Kettle level and the issue throttle. -/
  | powerControlTick (pin tdie thbm tin : Nat)
  /-- DROOP (R543). A supply droop below threshold halves the Kettle clock for 64 cycles and counts DROOP. -/
  | droop
  /-- DROOP_WINDOW (R543). More than 1 000 droop stretches in 1 ms raise the thermal demand by one level. -/
  | droopWindow
  /-- THERMAL_TRIP (R555). A die at 110 °C or a stack at 105 °C contains the module and sets TRIPPED. -/
  | thermalTrip
  /-- THERMAL_SHUTDOWN (R555). A die at 115 °C or a stack at 110 °C shuts the module down with wake cause 3. -/
  | thermalShutdown
  /-- HP_REQ_N_RELEASE (R550). HP_REQ_N released for its 50 ms debounce clears HP_REQ and re-arms the input for a new removal request. -/
  | hpReqNRelease
  /-- LASER_CARTRIDGE_REMOVAL (R436). A cartridge in STANDBY is pulled out, and its ZL_LSR_c STATE becomes ABSENT. -/
  | laserCartridgeRemoval (c : Fin 8)
  /-- MEM_RD_FWD (R198). A received MemRdFwd or MemWrFwd is a protocol error that declares its host down with cause 4 and has no other effect. -/
  | memRdFwd (r : HostMsg) (wr : Bool)
  /-- BI_RSP_E (R203). A received BIRspE or Blk-form BIRsp is a protocol error that declares its host down with cause 4. -/
  | biRspE (r : HostMsg) (blk : Bool)
  deriving DecidableEq, Repr

end Sys2Proof
end

