-- ==== Sys2Proof/Config.lean ====
section
/-! DEFINITION. What the spec leaves open: free values. Each is a constant without a body, so nothing in Lean
can evaluate it or prove a value of it; State's counter `free` gives each use an argument of its own (log 10). -/

namespace Sys2Proof.Config

/-- A byte the spec leaves undefined (R33, R85, R91, R98, R256, R266). Log 10. -/
opaque freeByte : Nat → Byte

/-- A choice or number the spec leaves open; users reduce it to the permitted range. Log 10. -/
opaque freeNat : Nat → Nat

/-- 512 bits drawn from the steward's DRBG (R488, R489). Log 17. -/
opaque freeKey : Nat → BitVec 512

/-- The set of its slice's directory that a line falls in: the spec gives 16 384 sets and no mapping (R202). Log 13. -/
opaque dirSet : Nat → Nat

/-- The set of a steep cache that a virtual line falls in: the spec gives 512 sets and no mapping (R273). Log 15. -/
opaque steepSet : Nat → Nat

/-- The set of a die's L2 TLB that a context's page of a size falls in: the spec gives 32 768 entries, eight-way, and no
mapping (R56). Log 14. -/
opaque tlbSet : Nat → Nat → Nat → Nat

/-- XTS-AES-256 on one 64-byte line under a key and a tweak (R486): some permutation of the line for each key and tweak. Log 17. -/
opaque xts : BitVec 512 → Nat → (BitVec 512 ≃ BitVec 512)

/-- The code of a lane of a row whose offset and scale are both infinite, where the quantise rule gives no number (R289).
Log 107. -/
opaque rsCode : List Nat → Nat → Nat

/-- SHA-512 of a byte string (R494); the spec cites it and does not give it. Log 18. -/
opaque sha512 : List Byte → BitVec 512

/-- The bytes of a response whose layout an outside standard gives (R456, R461, R462, R493). Log 18. -/
opaque payload : Nat → Nat → List Byte

end Sys2Proof.Config
end

