-- ==== Sys2Proof/Machine/Bits.lean ====
section
/-! DEFINITION. Bit fields, byte order and sign conversion: the helpers every layout of the spec uses (R7). -/

namespace Sys2Proof.Machine

/-- Bits [hi:lo] of a number (00, "Bit ranges"). -/
def bits (n hi lo : Nat) : Nat := n / 2 ^ lo % 2 ^ (hi + 1 - lo)

/-- Bit i of a number. -/
def bit (n i : Nat) : Bool := n / 2 ^ i % 2 = 1

/-- A number with bits [hi:lo] replaced by the low bits of v. -/
def putBits (n hi lo v : Nat) : Nat :=
  n / 2 ^ (hi + 1) * 2 ^ (hi + 1) + v % 2 ^ (hi + 1 - lo) * 2 ^ lo + n % 2 ^ lo

/-- A number with bit i set to b. -/
def putBit (n i : Nat) (b : Bool) : Nat := putBits n i i b.toNat

/-- The number of set bits among the low k. -/
def popcount : Nat → Nat → Nat
  | 0, _ => 0
  | k + 1, n => (bit n k).toNat + popcount k n

/-- The positions of the set bits among the low k, ascending. -/
def setBits (k n : Nat) : List Nat := (List.range k).filter (bit n)

/-- A mask with the listed bits set. -/
def maskOf (l : List Nat) : Nat := l.foldl (fun m i => if bit m i then m else m + 2 ^ i) 0

/-- The exclusive or of the bits of n at the listed positions. -/
def xorBits (n : Nat) (l : List Nat) : Bool := l.foldl (fun a i => a != bit n i) false

/-- The number whose bit i is f i, for i below k. -/
def ofBits (k : Nat) (f : Nat → Bool) : Nat :=
  (List.range k).foldl (fun a i => a + (f i).toNat * 2 ^ i) 0

/-- The two's complement value of the low w bits. -/
def signed (w n : Nat) : Int :=
  let m := n % 2 ^ w
  if m < 2 ^ (w - 1) then (m : Int) else (m : Int) - (2 ^ w : Nat)

/-- An integer modulo 2^w. -/
def wrap (w : Nat) (i : Int) : Nat := (i % ((2 ^ w : Nat) : Int)).toNat

/-- The number that a byte list spells, least significant byte first (R7). -/
def leNat : List Byte → Nat
  | [] => 0
  | b :: bs => b.toNat + 256 * leNat bs

/-- A number as k bytes, least significant first (R7). -/
def natLE : Nat → Nat → List Byte
  | 0, _ => []
  | k + 1, n => BitVec.ofNat 8 n :: natLE k (n / 256)

/-- Bytes off to off + k - 1 of a structure, as a number (R7). -/
def fieldLE (l : List Byte) (off k : Nat) : Nat := leNat ((l.drop off).take k)

/-- A list of bytes cut or zero-extended to k bytes. -/
def fitBytes (k : Nat) (l : List Byte) : List Byte := l.take k ++ List.replicate (k - l.length) 0

/-- A byte list with bytes from off on replaced. -/
def spliceBytes (l : List Byte) (off : Nat) (d : List Byte) : List Byte :=
  l.take off ++ d ++ l.drop (off + d.length)

/-- 2^k bytes, or any quantity, rounded down to a multiple of m. -/
def alignDown (n m : Nat) : Nat := n / m * m

/-- The least e with 2^e at least n. -/
def clog2 (n : Nat) : Nat := if n ≤ 1 then 0 else Nat.log2 (n - 1) + 1

/-- The list cut into pieces of k, the last one shorter. -/
def chunks {α : Type} (k : Nat) : Nat → List α → List (List α)
  | 0, _ => []
  | _ + 1, [] => []
  | f + 1, l => l.take k :: chunks k f (l.drop k)

/-- The bytes of a range [addr, addr + len) cut at multiples of g: (start, length) pairs in ascending order. -/
def pieces (g : Nat) : Nat → Nat → Nat → List (Nat × Nat)
  | 0, _, _ => []
  | f + 1, addr, len =>
    if len = 0 then [] else
      let n := min len (g - addr % g)
      (addr, n) :: pieces g f (addr + n) (len - n)

/-- The pieces of a range, cut at multiples of g. -/
def cut (g addr len : Nat) : List (Nat × Nat) := pieces g (len / g + 2) addr len

/-- A pair put into a list that rises by first component. -/
def insertPair (x : Nat × Nat) : List (Nat × Nat) → List (Nat × Nat)
  | [] => [x]
  | y :: l => if x.1 ≤ y.1 then x :: y :: l else y :: insertPair x l

/-- Pairs in the order of their first components. -/
def sortPairs (l : List (Nat × Nat)) : List (Nat × Nat) := l.foldr insertPair []

/-- Byte mask of a range inside a 64-byte line. -/
def rangeMask (off len : Nat) : Nat := (2 ^ len - 1) * 2 ^ off

/-- A line with the bytes that the mask enables taken from d. -/
def mergeLine (mask : Nat) (old d : List Byte) : List Byte :=
  (List.range 64).map fun i => if bit mask i then d.getD i 0 else old.getD i 0

end Sys2Proof.Machine
end

