-- ==== Sys2Proof/Machine/Regs.lean ====
section
/-! DEFINITION. The registers of BAR0 and their fields: offsets, access types and reset values as the register tables
of spec/ give them (R8 to R10, R556, R558, R566). A field whose reset column holds a dash is computed when it is read. -/

namespace Sys2Proof.Machine

/-- Access types of register fields (R10). -/
inductive Acc where
  | ro | rw | rw1c | wo | rwl | srw
  deriving DecidableEq, Repr

/-- A register field: its bits and its access type. -/
structure Fld where
  hi : Nat
  lo : Nat
  acc : Acc
  deriving DecidableEq, Repr

/-- A register: its offset in BAR0 and its reset value. -/
structure RegId where
  off : Nat
  rst : Nat
  deriving DecidableEq, Repr

/-- A row of the register map: name, offset of the first one, (stride, count) per index, and fields. -/
structure RegRow where
  name : String
  base : Nat
  dims : List (Nat × Nat)
  at_ : Nat → Nat → Nat → RegId
  flds : List Fld

/-- The value of a field in a register word. -/
def Fld.get (f : Fld) (w : Nat) : Nat := bits w f.hi f.lo

/-- A register word with a field replaced. -/
def Fld.put (f : Fld) (w v : Nat) : Nat := putBits w f.hi f.lo v

/-- Reset value of `CADDY_OWN_b`: no owner for a general bank, the fixed owner for the others (R223). -/
def caddyRst (b : Nat) : Nat :=
  let j := b % 1024
  let next := 7 * 2 ^ 16 + 2 ^ 24
  if j < 952 then 7 + next
  else if j < 958 then 5 + 2 ^ 8 + next
  else if j < 960 then 6 + 2 ^ 8 + next
  else 4 + (j - 960) / 2 * 2 ^ 3 + 2 ^ 8 + next

/-- Reset value of `QOS_SHP_n_v`: EN is 1 for v = 3, 5, 7 (R449). -/
def shpRst (v : Nat) : Nat :=
  (if v = 3 ∨ v = 5 ∨ v = 7 then 1 else 0) + 256 * 2 + 16384 * 2 ^ 16 + 16384 * 2 ^ 32

/-- Reset value of `RAS_HCFG_k`, by kind (R520). -/
def hcfgRst (k : Nat) : Nat :=
  let w := fun (h a r u : Nat) => h + a * 2 ^ 8 + r * 2 ^ 24 + u * 2 ^ 40
  if k = 1 ∨ k = 2 then w 16 2000 8000 1
  else if k = 3 then w 16 256 1024 1
  else if 4 ≤ k ∧ k ≤ 8 then w 20 256 512 1
  else if k = 9 then w 12 256 1024 1
  else if k = 10 then w 0 150 300 0
  else if k = 11 then w 16 256 1024 0
  else 0


/-- `GLB_PART_MEMBERS` (R22). -/
def Reg.GLB_PART_MEMBERS : RegId := ⟨0x100, 0⟩
/-- `GLB_PART_MEMBERS`.MODULES [31:0], SRW (R22). -/
def Reg.GLB_PART_MEMBERS_MODULES : Fld := ⟨31, 0, .srw⟩
/-- `GLB_PART_MEMBERS`.ACCEL [63:32], SRW (R22). -/
def Reg.GLB_PART_MEMBERS_ACCEL : Fld := ⟨63, 32, .srw⟩
/-- `GLB_PART_CTL` (R22). -/
def Reg.GLB_PART_CTL : RegId := ⟨0x108, 15⟩
/-- `GLB_PART_CTL`.HEADS [3:0], SRW (R22). -/
def Reg.GLB_PART_CTL_HEADS : Fld := ⟨3, 0, .srw⟩
/-- `GLB_PART_CTL`.PART_ID [12:8], SRW (R22). -/
def Reg.GLB_PART_CTL_PART_ID : Fld := ⟨12, 8, .srw⟩
/-- `GLB_PART_CTL`.GEN [31:16], SRW (R22). -/
def Reg.GLB_PART_CTL_GEN : Fld := ⟨31, 16, .srw⟩
/-- `GLB_PART_CTL`.HALL [32:32], SRW (R22). -/
def Reg.GLB_PART_CTL_HALL : Fld := ⟨32, 32, .srw⟩
/-- `XLT_ISET_BASE_n` (R35). -/
def Reg.XLT_ISET_BASE (i : Nat) : RegId := ⟨0x300000+0x20*i, 0⟩
/-- `XLT_ISET_BASE_n`.VALID [0:0], SRW (R35). -/
def Reg.XLT_ISET_BASE_VALID : Fld := ⟨0, 0, .srw⟩
/-- `XLT_ISET_BASE_n`.BASE [49:12], SRW (R35). -/
def Reg.XLT_ISET_BASE_BASE : Fld := ⟨49, 12, .srw⟩
/-- `XLT_ISET_SIZE_n` (R35). -/
def Reg.XLT_ISET_SIZE (i : Nat) : RegId := ⟨0x300008+0x20*i, 0⟩
/-- `XLT_ISET_SIZE_n`.SIZE [49:12], SRW (R35). -/
def Reg.XLT_ISET_SIZE_SIZE : Fld := ⟨49, 12, .srw⟩
/-- `XLT_ISET_CFG_n` (R35). -/
def Reg.XLT_ISET_CFG (i : Nat) : RegId := ⟨0x300010+0x20*i, 0⟩
/-- `XLT_ISET_CFG_n`.MEMBERS [31:0], SRW (R35). -/
def Reg.XLT_ISET_CFG_MEMBERS : Fld := ⟨31, 0, .srw⟩
/-- `XLT_ISET_CFG_n`.GRAN [36:32], SRW (R35). -/
def Reg.XLT_ISET_CFG_GRAN : Fld := ⟨36, 32, .srw⟩
/-- `XLT_ISET_LOCAL_n` (R35). -/
def Reg.XLT_ISET_LOCAL (i : Nat) : RegId := ⟨0x300018+0x20*i, 0⟩
/-- `XLT_ISET_LOCAL_n`.LOCAL_BASE [43:12], SRW (R35). -/
def Reg.XLT_ISET_LOCAL_LOCAL_BASE : Fld := ⟨43, 12, .srw⟩
/-- `XLT_CTX_BASE` (R50). -/
def Reg.XLT_CTX_BASE : RegId := ⟨0x302000, 0⟩
/-- `XLT_CTX_BASE`.EN [0:0], RW (R50). -/
def Reg.XLT_CTX_BASE_EN : Fld := ⟨0, 0, .rw⟩
/-- `XLT_CTX_BASE`.BASE [55:21], RW (R50). -/
def Reg.XLT_CTX_BASE_BASE : Fld := ⟨55, 21, .rw⟩
/-- `XLT_FQ_BASE` (R63). -/
def Reg.XLT_FQ_BASE : RegId := ⟨0x302008, 0⟩
/-- `XLT_FQ_BASE`.EN [0:0], RW (R63). -/
def Reg.XLT_FQ_BASE_EN : Fld := ⟨0, 0, .rw⟩
/-- `XLT_FQ_BASE`.HOSTMEM [1:1], RW (R63). -/
def Reg.XLT_FQ_BASE_HOSTMEM : Fld := ⟨1, 1, .rw⟩
/-- `XLT_FQ_BASE`.HEAD [3:2], RW (R63). -/
def Reg.XLT_FQ_BASE_HEAD : Fld := ⟨3, 2, .rw⟩
/-- `XLT_FQ_BASE`.SIZE [6:4], RW (R63). -/
def Reg.XLT_FQ_BASE_SIZE : Fld := ⟨6, 4, .rw⟩
/-- `XLT_FQ_BASE`.ADDR [63:12], RW (R63). -/
def Reg.XLT_FQ_BASE_ADDR : Fld := ⟨63, 12, .rw⟩
/-- `XLT_FQ_PTRS` (R63). -/
def Reg.XLT_FQ_PTRS : RegId := ⟨0x302010, 0⟩
/-- `XLT_FQ_PTRS`.HEAD [15:0], RW (R63). -/
def Reg.XLT_FQ_PTRS_HEAD : Fld := ⟨15, 0, .rw⟩
/-- `XLT_FQ_PTRS`.TAIL [47:32], RO (R63). -/
def Reg.XLT_FQ_PTRS_TAIL : Fld := ⟨47, 32, .ro⟩
/-- `XLT_FQ_CFG` (R64). -/
def Reg.XLT_FQ_CFG : RegId := ⟨0x302018, 4294967296000000⟩
/-- `XLT_FQ_CFG`.VECTOR [10:0], RW (R64). -/
def Reg.XLT_FQ_CFG_VECTOR : Fld := ⟨10, 0, .rw⟩
/-- `XLT_FQ_CFG`.VEC_HEAD [12:11], RW (R64). -/
def Reg.XLT_FQ_CFG_VEC_HEAD : Fld := ⟨12, 11, .rw⟩
/-- `XLT_FQ_CFG`.FULL_WAIT [16:16], RW1C (R64). -/
def Reg.XLT_FQ_CFG_FULL_WAIT : Fld := ⟨16, 16, .rw1c⟩
/-- `XLT_FQ_CFG`.BADRESP [17:17], RW1C (R64). -/
def Reg.XLT_FQ_CFG_BADRESP : Fld := ⟨17, 17, .rw1c⟩
/-- `XLT_FQ_CFG`.DROPPED [18:18], RW1C (R64). -/
def Reg.XLT_FQ_CFG_DROPPED : Fld := ⟨18, 18, .rw1c⟩
/-- `XLT_FQ_CFG`.TMO [63:32], RW (R64). -/
def Reg.XLT_FQ_CFG_TMO : Fld := ⟨63, 32, .rw⟩
/-- `XLT_FAULT_RESP` (R67). -/
def Reg.XLT_FAULT_RESP : RegId := ⟨0x302020, 0⟩
/-- `XLT_FAULT_RESP`.TOKEN [31:0], WO (R67). -/
def Reg.XLT_FAULT_RESP_TOKEN : Fld := ⟨31, 0, .wo⟩
/-- `XLT_FAULT_RESP`.ACTION [33:32], WO (R67). -/
def Reg.XLT_FAULT_RESP_ACTION : Fld := ⟨33, 32, .wo⟩
/-- `TIER_PHT_CFG` (R77). -/
def Reg.TIER_PHT_CFG : RegId := ⟨0x500000, 2359296⟩
/-- `TIER_PHT_CFG`.WINDOW [23:0], SRW (R77). -/
def Reg.TIER_PHT_CFG_WINDOW : Fld := ⟨23, 0, .srw⟩
/-- `TIER_FREE_d` (R79). -/
def Reg.TIER_FREE (i : Nat) : RegId := ⟨0x500008+0x8*i, 0⟩
/-- `TIER_FREE_d`.HBM [31:0], RO (R79). -/
def Reg.TIER_FREE_HBM : Fld := ⟨31, 0, .ro⟩
/-- `TIER_FREE_d`.LPDDR [63:32], RO (R79). -/
def Reg.TIER_FREE_LPDDR : Fld := ⟨63, 32, .ro⟩
/-- `TIER_DECAY` (R94). -/
def Reg.TIER_DECAY : RegId := ⟨0x500018, 30⟩
/-- `TIER_DECAY`.SHIFT [5:0], RW (R94). -/
def Reg.TIER_DECAY_SHIFT : Fld := ⟨5, 0, .rw⟩
/-- `TIER_TMO` (R97). -/
def Reg.TIER_TMO : RegId := ⟨0x500020, 65537026⟩
/-- `TIER_TMO`.HBM [7:0], RW (R97). -/
def Reg.TIER_TMO_HBM : Fld := ⟨7, 0, .rw⟩
/-- `TIER_TMO`.LPDDR [15:8], RW (R97). -/
def Reg.TIER_TMO_LPDDR : Fld := ⟨15, 8, .rw⟩
/-- `TIER_TMO`.HOST [31:16], RW (R97). -/
def Reg.TIER_TMO_HOST : Fld := ⟨31, 16, .rw⟩
/-- `TIER_ISET_COMP_n` (R108). -/
def Reg.TIER_ISET_COMP (i : Nat) : RegId := ⟨0x500800+0x8*i, 0⟩
/-- `TIER_ISET_COMP_n`.COMP [7:0], SRW (R108). -/
def Reg.TIER_ISET_COMP_COMP : Fld := ⟨7, 0, .srw⟩
/-- `TIER_MAP_EPOCH` (R108). -/
def Reg.TIER_MAP_EPOCH : RegId := ⟨0x500028, 0⟩
/-- `TIER_MAP_EPOCH`.CUR [31:0], RO (R108). -/
def Reg.TIER_MAP_EPOCH_CUR : Fld := ⟨31, 0, .ro⟩
/-- `TIER_MAP_EPOCH`.NEXT [63:32], SRW (R108). -/
def Reg.TIER_MAP_EPOCH_NEXT : Fld := ⟨63, 32, .srw⟩
/-- `TIER_CMTR_SEL` (R113). -/
def Reg.TIER_CMTR_SEL : RegId := ⟨0x500030, 0⟩
/-- `TIER_CMTR_SEL`.COMP [7:0], RW (R113). -/
def Reg.TIER_CMTR_SEL_COMP : Fld := ⟨7, 0, .rw⟩
/-- `TIER_CMTR_PAGES` (R113). -/
def Reg.TIER_CMTR_PAGES : RegId := ⟨0x500038, 0⟩
/-- `TIER_CMTR_PAGES`.HBM [31:0], RO (R113). -/
def Reg.TIER_CMTR_PAGES_HBM : Fld := ⟨31, 0, .ro⟩
/-- `TIER_CMTR_PAGES`.LPDDR [63:32], RO (R113). -/
def Reg.TIER_CMTR_PAGES_LPDDR : Fld := ⟨63, 32, .ro⟩
/-- `TIER_CMTR_PTICK` (R113). -/
def Reg.TIER_CMTR_PTICK : RegId := ⟨0x500040, 0⟩
/-- `TIER_CMTR_PTICK`.PTICK [63:0], RO (R113). -/
def Reg.TIER_CMTR_PTICK_PTICK : Fld := ⟨63, 0, .ro⟩
/-- `TIER_CMTR_RD` (R113). -/
def Reg.TIER_CMTR_RD : RegId := ⟨0x500048, 0⟩
/-- `TIER_CMTR_RD`.RD [63:0], RO (R113). -/
def Reg.TIER_CMTR_RD_RD : Fld := ⟨63, 0, .ro⟩
/-- `TIER_CMTR_WR` (R113). -/
def Reg.TIER_CMTR_WR : RegId := ⟨0x500050, 0⟩
/-- `TIER_CMTR_WR`.WR [63:0], RO (R113). -/
def Reg.TIER_CMTR_WR_WR : Fld := ⟨63, 0, .ro⟩
/-- `Q_SQ_BASE_q` (R114). -/
def Reg.Q_SQ_BASE (i : Nat) : RegId := ⟨0x200000+0x40*i, 0⟩
/-- `Q_SQ_BASE_q`.HOSTMEM [0:0], RW (R114). -/
def Reg.Q_SQ_BASE_HOSTMEM : Fld := ⟨0, 0, .rw⟩
/-- `Q_SQ_BASE_q`.HEAD [2:1], RW (R114). -/
def Reg.Q_SQ_BASE_HEAD : Fld := ⟨2, 1, .rw⟩
/-- `Q_SQ_BASE_q`.SIZE [6:3], RW (R114). -/
def Reg.Q_SQ_BASE_SIZE : Fld := ⟨6, 3, .rw⟩
/-- `Q_SQ_BASE_q`.ADDR [63:12], RW (R114). -/
def Reg.Q_SQ_BASE_ADDR : Fld := ⟨63, 12, .rw⟩
/-- `Q_CQ_BASE_q` (R114). -/
def Reg.Q_CQ_BASE (i : Nat) : RegId := ⟨0x200008+0x40*i, 0⟩
/-- `Q_CQ_BASE_q`.HOSTMEM [0:0], RW (R114). -/
def Reg.Q_CQ_BASE_HOSTMEM : Fld := ⟨0, 0, .rw⟩
/-- `Q_CQ_BASE_q`.HEAD [2:1], RW (R114). -/
def Reg.Q_CQ_BASE_HEAD : Fld := ⟨2, 1, .rw⟩
/-- `Q_CQ_BASE_q`.SIZE [6:3], RW (R114). -/
def Reg.Q_CQ_BASE_SIZE : Fld := ⟨6, 3, .rw⟩
/-- `Q_CQ_BASE_q`.ADDR [63:12], RW (R114). -/
def Reg.Q_CQ_BASE_ADDR : Fld := ⟨63, 12, .rw⟩
/-- `Q_CFG_q` (R114). -/
def Reg.Q_CFG (i : Nat) : RegId := ⟨0x200010+0x40*i, 8589869300⟩
/-- `Q_CFG_q`.EN [0:0], RW (R114). -/
def Reg.Q_CFG_EN : Fld := ⟨0, 0, .rw⟩
/-- `Q_CFG_q`.MAINT [1:1], RW (R114). -/
def Reg.Q_CFG_MAINT : Fld := ⟨1, 1, .rw⟩
/-- `Q_CFG_q`.STOP_ON_ERR [2:2], RW (R114). -/
def Reg.Q_CFG_STOP_ON_ERR : Fld := ⟨2, 2, .rw⟩
/-- `Q_CFG_q`.WORLD [3:3], SRW (R114). -/
def Reg.Q_CFG_WORLD : Fld := ⟨3, 3, .srw⟩
/-- `Q_CFG_q`.DB_HEADS [7:4], RW (R114). -/
def Reg.Q_CFG_DB_HEADS : Fld := ⟨7, 4, .rw⟩
/-- `Q_CFG_q`.FAB_DB [8:8], RW (R114). -/
def Reg.Q_CFG_FAB_DB : Fld := ⟨8, 8, .rw⟩
/-- `Q_CFG_q`.DB_POS [13:9], RW (R114). -/
def Reg.Q_CFG_DB_POS : Fld := ⟨13, 9, .rw⟩
/-- `Q_CFG_q`.CTX [31:16], RW (R114). -/
def Reg.Q_CFG_CTX : Fld := ⟨31, 16, .rw⟩
/-- `Q_CFG_q`.WEIGHT [35:32], RW (R114). -/
def Reg.Q_CFG_WEIGHT : Fld := ⟨35, 32, .rw⟩
/-- `Q_STATE_q` (R115). -/
def Reg.Q_STATE (i : Nat) : RegId := ⟨0x200018+0x40*i, 0⟩
/-- `Q_STATE_q`.SQ_HEAD [15:0], RO (R115). -/
def Reg.Q_STATE_SQ_HEAD : Fld := ⟨15, 0, .ro⟩
/-- `Q_STATE_q`.CQ_TAIL [31:16], RO (R115). -/
def Reg.Q_STATE_CQ_TAIL : Fld := ⟨31, 16, .ro⟩
/-- `Q_STATE_q`.STATE [34:32], RO (R115). -/
def Reg.Q_STATE_STATE : Fld := ⟨34, 32, .ro⟩
/-- `Q_STATE_q`.STOP_CAUSE [39:36], RO (R115). -/
def Reg.Q_STATE_STOP_CAUSE : Fld := ⟨39, 36, .ro⟩
/-- `Q_STATE_q`.STOP_STATUS [47:40], RO (R115). -/
def Reg.Q_STATE_STOP_STATUS : Fld := ⟨47, 40, .ro⟩
/-- `Q_STATE_q`.DB_DROP [48:48], RW1C (R115). -/
def Reg.Q_STATE_DB_DROP : Fld := ⟨48, 48, .rw1c⟩
/-- `Q_STATE_q`.DB_RANGE [49:49], RW1C (R115). -/
def Reg.Q_STATE_DB_RANGE : Fld := ⟨49, 49, .rw1c⟩
/-- `Q_STATE_q`.CQ_STALL [50:50], RW1C (R115). -/
def Reg.Q_STATE_CQ_STALL : Fld := ⟨50, 50, .rw1c⟩
/-- `Q_CTL_q` (R146). -/
def Reg.Q_CTL (i : Nat) : RegId := ⟨0x200020+0x40*i, 0⟩
/-- `Q_CTL_q`.ABORT [0:0], WO (R146). -/
def Reg.Q_CTL_ABORT : Fld := ⟨0, 0, .wo⟩
/-- `Q_CTL_q`.RESUME [1:1], WO (R146). -/
def Reg.Q_CTL_RESUME : Fld := ⟨1, 1, .wo⟩
/-- `Q_IRQ_q` (R149). -/
def Reg.Q_IRQ (i : Nat) : RegId := ⟨0x200028+0x40*i, 114688⟩
/-- `Q_IRQ_q`.VECTOR [10:0], RW (R149). -/
def Reg.Q_IRQ_VECTOR : Fld := ⟨10, 0, .rw⟩
/-- `Q_IRQ_q`.VEC_HEAD [12:11], RW (R149). -/
def Reg.Q_IRQ_VEC_HEAD : Fld := ⟨12, 11, .rw⟩
/-- `Q_IRQ_q`.EN [13:13], RW (R149). -/
def Reg.Q_IRQ_EN : Fld := ⟨13, 13, .rw⟩
/-- `Q_IRQ_q`.ON_ERR [14:14], RW (R149). -/
def Reg.Q_IRQ_ON_ERR : Fld := ⟨14, 14, .rw⟩
/-- `Q_IRQ_q`.ON_STOP [15:15], RW (R149). -/
def Reg.Q_IRQ_ON_STOP : Fld := ⟨15, 15, .rw⟩
/-- `Q_IRQ_q`.COUNT [23:16], RW (R149). -/
def Reg.Q_IRQ_COUNT : Fld := ⟨23, 16, .rw⟩
/-- `Q_IRQ_q`.TIME [39:24], RW (R149). -/
def Reg.Q_IRQ_TIME : Fld := ⟨39, 24, .rw⟩
/-- `GLB_TICK` (R158). -/
def Reg.GLB_TICK : RegId := ⟨0x110, 0⟩
/-- `GLB_TICK`.MODULE_TICK [63:0], RO (R158). -/
def Reg.GLB_TICK_MODULE_TICK : Fld := ⟨63, 0, .ro⟩
/-- `GLB_ACQ_POLL` (R178). -/
def Reg.GLB_ACQ_POLL : RegId := ⟨0x118, 128⟩
/-- `GLB_ACQ_POLL`.INTERVAL [15:0], RW (R178). -/
def Reg.GLB_ACQ_POLL_INTERVAL : Fld := ⟨15, 0, .rw⟩
/-- `HOME_HOST_n` (R192). -/
def Reg.HOME_HOST (i : Nat) : RegId := ⟨0x400000+0x8*i, 0⟩
/-- `HOME_HOST_n`.VALID [0:0], SRW (R192). -/
def Reg.HOME_HOST_VALID : Fld := ⟨0, 0, .srw⟩
/-- `HOME_HOST_n`.HEAD [2:1], SRW (R192). -/
def Reg.HOME_HOST_HEAD : Fld := ⟨2, 1, .srw⟩
/-- `HOME_HOST_n`.BI_ID [15:4], SRW (R192). -/
def Reg.HOME_HOST_BI_ID : Fld := ⟨15, 4, .srw⟩
/-- `HOME_HOST_n`.DOWN [16:16], SRW (R192). -/
def Reg.HOME_HOST_DOWN : Fld := ⟨16, 16, .srw⟩
/-- `HOME_HOST_n`.DOWN_CAUSE [19:17], RO (R192). -/
def Reg.HOME_HOST_DOWN_CAUSE : Fld := ⟨19, 17, .ro⟩
/-- `HOME_CDOM_HOSTS_d` (R194). -/
def Reg.HOME_CDOM_HOSTS (i : Nat) : RegId := ⟨0x400800+0x8*i, 0⟩
/-- `HOME_CDOM_HOSTS_d`.HOSTS [63:0], SRW (R194). -/
def Reg.HOME_CDOM_HOSTS_HOSTS : Fld := ⟨63, 0, .srw⟩
/-- `HOME_CDOM_STATE_d` (R194). -/
def Reg.HOME_CDOM_STATE (i : Nat) : RegId := ⟨0x401000+0x8*i, 0⟩
/-- `HOME_CDOM_STATE_d`.STATE [1:0], RO (R194). -/
def Reg.HOME_CDOM_STATE_STATE : Fld := ⟨1, 0, .ro⟩
/-- `HOME_CDOM_STATE_d`.RESTART [2:2], SRW (R194). -/
def Reg.HOME_CDOM_STATE_RESTART : Fld := ⟨2, 2, .srw⟩
/-- `HOME_CDOM_STATE_d`.POISONED [47:16], RO (R194). -/
def Reg.HOME_CDOM_STATE_POISONED : Fld := ⟨47, 16, .ro⟩
/-- `HOME_BI_CFG` (R209). -/
def Reg.HOME_BI_CFG : RegId := ⟨0x401800, 137438954472⟩
/-- `HOME_BI_CFG`.TMO [31:0], RW (R209). -/
def Reg.HOME_BI_CFG_TMO : Fld := ⟨31, 0, .rw⟩
/-- `HOME_BI_CFG`.MAX [39:32], RW (R209). -/
def Reg.HOME_BI_CFG_MAX : Fld := ⟨39, 32, .rw⟩
/-- `HOME_DIR_CNT` (R209). -/
def Reg.HOME_DIR_CNT : RegId := ⟨0x401808, 0⟩
/-- `HOME_DIR_CNT`.EVICT [31:0], RO (R209). -/
def Reg.HOME_DIR_CNT_EVICT : Fld := ⟨31, 0, .ro⟩
/-- `HOME_DIR_CNT`.SNOOPS [63:32], RO (R209). -/
def Reg.HOME_DIR_CNT_SNOOPS : Fld := ⟨63, 32, .ro⟩
/-- `HOME_PLOG_CFG` (R217). -/
def Reg.HOME_PLOG_CFG : RegId := ⟨0x401820, 0⟩
/-- `HOME_PLOG_CFG`.VECTOR [10:0], RW (R217). -/
def Reg.HOME_PLOG_CFG_VECTOR : Fld := ⟨10, 0, .rw⟩
/-- `HOME_PLOG_CFG`.VEC_HEAD [12:11], RW (R217). -/
def Reg.HOME_PLOG_CFG_VEC_HEAD : Fld := ⟨12, 11, .rw⟩
/-- `HOME_PLOG_CFG`.OVF [16:16], RW1C (R217). -/
def Reg.HOME_PLOG_CFG_OVF : Fld := ⟨16, 16, .rw1c⟩
/-- `HOME_PLOG_CFG`.LOST [63:32], RO (R217). -/
def Reg.HOME_PLOG_CFG_LOST : Fld := ⟨63, 32, .ro⟩
/-- `CADDY_OWN_b` (R225). -/
def Reg.CADDY_OWN (i : Nat) : RegId := ⟨0x600000+0x8*i, caddyRst i⟩
/-- `CADDY_OWN_b`.KIND [2:0], RO (R225). -/
def Reg.CADDY_OWN_KIND : Fld := ⟨2, 0, .ro⟩
/-- `CADDY_OWN_b`.IDX [7:3], RO (R225). -/
def Reg.CADDY_OWN_IDX : Fld := ⟨7, 3, .ro⟩
/-- `CADDY_OWN_b`.STATE [9:8], RO (R225). -/
def Reg.CADDY_OWN_STATE : Fld := ⟨9, 8, .ro⟩
/-- `CADDY_OWN_b`.WORLD [10:10], SRW (R225). -/
def Reg.CADDY_OWN_WORLD : Fld := ⟨10, 10, .srw⟩
/-- `CADDY_OWN_b`.NEXT_KIND [18:16], RW (R225). -/
def Reg.CADDY_OWN_NEXT_KIND : Fld := ⟨18, 16, .rw⟩
/-- `CADDY_OWN_b`.NEXT_IDX [23:19], RW (R225). -/
def Reg.CADDY_OWN_NEXT_IDX : Fld := ⟨23, 19, .rw⟩
/-- `CADDY_OWN_b`.SCRUB [24:24], RW (R225). -/
def Reg.CADDY_OWN_SCRUB : Fld := ⟨24, 24, .rw⟩
/-- `CADDY_OWN_b`.GO [25:25], WO (R225). -/
def Reg.CADDY_OWN_GO : Fld := ⟨25, 25, .wo⟩
/-- `CADDY_OWN_b`.REFUSED [26:26], RW1C (R225). -/
def Reg.CADDY_OWN_REFUSED : Fld := ⟨26, 26, .rw1c⟩
/-- `CADDY_OWN_b`.CE [47:32], RO (R225). -/
def Reg.CADDY_OWN_CE : Fld := ⟨47, 32, .ro⟩
/-- `CADDY_OWN_b`.POISONED [48:48], RO (R225). -/
def Reg.CADDY_OWN_POISONED : Fld := ⟨48, 48, .ro⟩
/-- `CADDY_REPAIR_CFG` (R235). -/
def Reg.CADDY_REPAIR_CFG : RegId := ⟨0x604000, 65552⟩
/-- `CADDY_REPAIR_CFG`.THRESH [15:0], SRW (R235). -/
def Reg.CADDY_REPAIR_CFG_THRESH : Fld := ⟨15, 0, .srw⟩
/-- `CADDY_REPAIR_CFG`.AUTO [16:16], SRW (R235). -/
def Reg.CADDY_REPAIR_CFG_AUTO : Fld := ⟨16, 16, .srw⟩
/-- `CADDY_STATUS` (R236). -/
def Reg.CADDY_STATUS : RegId := ⟨0x604008, 0⟩
/-- `CADDY_STATUS`.READY [0:0], RO (R236). -/
def Reg.CADDY_STATUS_READY : Fld := ⟨0, 0, .ro⟩
/-- `CADDY_STATUS`.RETIRED0 [26:16], RO (R236). -/
def Reg.CADDY_STATUS_RETIRED0 : Fld := ⟨26, 16, .ro⟩
/-- `CADDY_STATUS`.RETIRED1 [42:32], RO (R236). -/
def Reg.CADDY_STATUS_RETIRED1 : Fld := ⟨42, 32, .ro⟩
/-- `CADDY_STATUS`.FUSES0 [54:48], RO (R236). -/
def Reg.CADDY_STATUS_FUSES0 : Fld := ⟨54, 48, .ro⟩
/-- `CADDY_STATUS`.FUSES1 [62:56], RO (R236). -/
def Reg.CADDY_STATUS_FUSES1 : Fld := ⟨62, 56, .ro⟩
/-- `NEWT_CFG_n` (R258). -/
def Reg.NEWT_CFG (i : Nat) : RegId := ⟨0x700000+0x20*i, 58720320⟩
/-- `NEWT_CFG_n`.STEEP [9:0], RW (R258). -/
def Reg.NEWT_CFG_STEEP : Fld := ⟨9, 0, .rw⟩
/-- `NEWT_CFG_n`.MAX_RD [23:12], RW (R258). -/
def Reg.NEWT_CFG_MAX_RD : Fld := ⟨23, 12, .rw⟩
/-- `NEWT_CFG_n`.RESERVE [24:24], RW (R258). -/
def Reg.NEWT_CFG_RESERVE : Fld := ⟨24, 24, .rw⟩
/-- `NEWT_CFG_n`.SC_EN [25:25], RW (R258). -/
def Reg.NEWT_CFG_SC_EN : Fld := ⟨25, 25, .rw⟩
/-- `NEWT_STAT_n` (R259). -/
def Reg.NEWT_STAT (i : Nat) : RegId := ⟨0x700008+0x20*i, 0⟩
/-- `NEWT_STAT_n`.OUT_RD [11:0], RO (R259). -/
def Reg.NEWT_STAT_OUT_RD : Fld := ⟨11, 0, .ro⟩
/-- `NEWT_STAT_n`.STALLED [14:12], RO (R259). -/
def Reg.NEWT_STAT_STALLED : Fld := ⟨14, 12, .ro⟩
/-- `NEWT_STAT_n`.PROG [15:15], RO (R259). -/
def Reg.NEWT_STAT_PROG : Fld := ⟨15, 15, .ro⟩
/-- `NEWT_STAT_n`.AHEAD [63:32], RO (R259). -/
def Reg.NEWT_STAT_AHEAD : Fld := ⟨63, 32, .ro⟩
/-- `NEWT_CNT_n` (R259). -/
def Reg.NEWT_CNT (i : Nat) : RegId := ⟨0x700010+0x20*i, 0⟩
/-- `NEWT_CNT_n`.HITS [31:0], RO (R259). -/
def Reg.NEWT_CNT_HITS : Fld := ⟨31, 0, .ro⟩
/-- `NEWT_CNT_n`.MISSES [63:32], RO (R259). -/
def Reg.NEWT_CNT_MISSES : Fld := ⟨63, 32, .ro⟩
/-- `KTL_FLAGS_n` (R291). -/
def Reg.KTL_FLAGS (i : Nat) : RegId := ⟨0x800000+0x40*i, 0⟩
/-- `KTL_FLAGS_n`.NAN_IN [0:0], RW1C (R291). -/
def Reg.KTL_FLAGS_NAN_IN : Fld := ⟨0, 0, .rw1c⟩
/-- `KTL_FLAGS_n`.INF_IN [1:1], RW1C (R291). -/
def Reg.KTL_FLAGS_INF_IN : Fld := ⟨1, 1, .rw1c⟩
/-- `KTL_FLAGS_n`.OVF [2:2], RW1C (R291). -/
def Reg.KTL_FLAGS_OVF : Fld := ⟨2, 2, .rw1c⟩
/-- `KTL_FLAGS_n`.SAT [3:3], RW1C (R291). -/
def Reg.KTL_FLAGS_SAT : Fld := ⟨3, 3, .rw1c⟩
/-- `KTL_FLAGS_n`.CONV_INVALID [4:4], RW1C (R291). -/
def Reg.KTL_FLAGS_CONV_INVALID : Fld := ⟨4, 4, .rw1c⟩
/-- `KTL_FLAGS_n`.ISAT [5:5], RW1C (R291). -/
def Reg.KTL_FLAGS_ISAT : Fld := ⟨5, 5, .rw1c⟩
/-- `KTL_FLAGS_n`.NAN_BLOCK [6:6], RW1C (R291). -/
def Reg.KTL_FLAGS_NAN_BLOCK : Fld := ⟨6, 6, .rw1c⟩
/-- `KTL_ACT_n` (R292). -/
def Reg.KTL_ACT (i : Nat) : RegId := ⟨0x800008+0x40*i, 0⟩
/-- `KTL_ACT_n`.ACTIVE [63:0], RO (R292). -/
def Reg.KTL_ACT_ACTIVE : Fld := ⟨63, 0, .ro⟩
/-- `KTL_WAIT_n` (R292). -/
def Reg.KTL_WAIT (i : Nat) : RegId := ⟨0x800010+0x40*i, 0⟩
/-- `KTL_WAIT_n`.WAIT [63:0], RO (R292). -/
def Reg.KTL_WAIT_WAIT : Fld := ⟨63, 0, .ro⟩
/-- `KTL_ERR_n` (R312). -/
def Reg.KTL_ERR (i : Nat) : RegId := ⟨0x800018+0x40*i, 0⟩
/-- `KTL_ERR_n`.PC [8:0], RO (R312). -/
def Reg.KTL_ERR_PC : Fld := ⟨8, 0, .ro⟩
/-- `KTL_ERR_n`.STATUS [23:16], RO (R312). -/
def Reg.KTL_ERR_STATUS : Fld := ⟨23, 16, .ro⟩
/-- `KTL_ERR_n`.CAUSE [27:24], RO (R312). -/
def Reg.KTL_ERR_CAUSE : Fld := ⟨27, 24, .ro⟩
/-- `KTL_ERR_n`.TAG [63:32], RO (R312). -/
def Reg.KTL_ERR_TAG : Fld := ⟨63, 32, .ro⟩
/-- `KTL_STAT_n` (R312). -/
def Reg.KTL_STAT (i : Nat) : RegId := ⟨0x800020+0x40*i, 0⟩
/-- `KTL_STAT_n`.PROG_ID [7:0], RO (R312). -/
def Reg.KTL_STAT_PROG_ID : Fld := ⟨7, 0, .ro⟩
/-- `KTL_STAT_n`.BUSY [8:8], RO (R312). -/
def Reg.KTL_STAT_BUSY : Fld := ⟨8, 8, .ro⟩
/-- `KTL_STAT_n`.RWAIT [9:9], RO (R312). -/
def Reg.KTL_STAT_RWAIT : Fld := ⟨9, 9, .ro⟩
/-- `KTL_STAT_n`.FSTALL [10:10], RO (R312). -/
def Reg.KTL_STAT_FSTALL : Fld := ⟨10, 10, .ro⟩
/-- `KTL_STAT_n`.PC [24:16], RO (R312). -/
def Reg.KTL_STAT_PC : Fld := ⟨24, 16, .ro⟩
/-- `GKO_STAB` (R352). -/
def Reg.GKO_STAB : RegId := ⟨0x900000, 0⟩
/-- `GKO_STAB`.EN [0:0], RW (R352). -/
def Reg.GKO_STAB_EN : Fld := ⟨0, 0, .rw⟩
/-- `GKO_STAB`.BASE [55:18], RW (R352). -/
def Reg.GKO_STAB_BASE : Fld := ⟨55, 18, .rw⟩
/-- `GKO_CFG_n` (R363). -/
def Reg.GKO_CFG (i : Nat) : RegId := ⟨0x900100+0x20*i, 2305843009213693952⟩
/-- `GKO_CFG_n`.SLOTS [7:0], RW (R363). -/
def Reg.GKO_CFG_SLOTS : Fld := ⟨7, 0, .rw⟩
/-- `GKO_CFG_n`.WORK [47:16], RW (R363). -/
def Reg.GKO_CFG_WORK : Fld := ⟨47, 16, .rw⟩
/-- `GKO_CFG_n`.MAX_RD [61:48], RW (R363). -/
def Reg.GKO_CFG_MAX_RD : Fld := ⟨61, 48, .rw⟩
/-- `GKO_STAT_n` (R385). -/
def Reg.GKO_STAT (i : Nat) : RegId := ⟨0x900108+0x20*i, 0⟩
/-- `GKO_STAT_n`.ACTIVE [7:0], RO (R385). -/
def Reg.GKO_STAT_ACTIVE : Fld := ⟨7, 0, .ro⟩
/-- `GKO_STAT_n`.OUT_RD [29:16], RO (R385). -/
def Reg.GKO_STAT_OUT_RD : Fld := ⟨29, 16, .ro⟩
/-- `GKO_STAT_n`.WAITING [47:32], RO (R385). -/
def Reg.GKO_STAT_WAITING : Fld := ⟨47, 32, .ro⟩
/-- `GKO_CNT_n` (R385). -/
def Reg.GKO_CNT (i : Nat) : RegId := ⟨0x900110+0x20*i, 0⟩
/-- `GKO_CNT_n`.EVALS [63:0], RO (R385). -/
def Reg.GKO_CNT_EVALS : Fld := ⟨63, 0, .ro⟩
/-- `EMB_CFG_n` (R386). -/
def Reg.EMB_CFG (i : Nat) : RegId := ⟨0xa00100+0x20*i, 35184372088832⟩
/-- `EMB_CFG_n`.WORK [31:0], RW (R386). -/
def Reg.EMB_CFG_WORK : Fld := ⟨31, 0, .rw⟩
/-- `EMB_CFG_n`.MAX_RD [45:32], RW (R386). -/
def Reg.EMB_CFG_MAX_RD : Fld := ⟨45, 32, .rw⟩
/-- `EMB_CNT_n` (R387). -/
def Reg.EMB_CNT (i : Nat) : RegId := ⟨0xa00108+0x20*i, 0⟩
/-- `EMB_CNT_n`.READS [31:0], RO (R387). -/
def Reg.EMB_CNT_READS : Fld := ⟨31, 0, .ro⟩
/-- `EMB_CNT_n`.JOINS [63:32], RO (R387). -/
def Reg.EMB_CNT_JOINS : Fld := ⟨63, 32, .ro⟩
/-- `EMB_TDIR` (R387). -/
def Reg.EMB_TDIR : RegId := ⟨0xa00000, 0⟩
/-- `EMB_TDIR`.EN [0:0], RW (R387). -/
def Reg.EMB_TDIR_EN : Fld := ⟨0, 0, .rw⟩
/-- `EMB_TDIR`.BASE [55:16], RW (R387). -/
def Reg.EMB_TDIR_BASE : Fld := ⟨55, 16, .rw⟩
/-- `EMB_DRAIN_SEL` (R404). -/
def Reg.EMB_DRAIN_SEL : RegId := ⟨0xa00008, 0⟩
/-- `EMB_DRAIN_SEL`.TABLE [9:0], RW (R404). -/
def Reg.EMB_DRAIN_SEL_TABLE : Fld := ⟨9, 0, .rw⟩
/-- `EMB_DRAIN` (R404). -/
def Reg.EMB_DRAIN : RegId := ⟨0xa00010, 0⟩
/-- `EMB_DRAIN`.VER0 [31:0], RO (R404). -/
def Reg.EMB_DRAIN_VER0 : Fld := ⟨31, 0, .ro⟩
/-- `EMB_DRAIN`.VER1 [63:32], RO (R404). -/
def Reg.EMB_DRAIN_VER1 : Fld := ⟨63, 32, .ro⟩
/-- `ZL_IDENT` (R413). -/
def Reg.ZL_IDENT : RegId := ⟨0xb00000, 0⟩
/-- `ZL_IDENT`.RACK [5:0], SRW (R413). -/
def Reg.ZL_IDENT_RACK : Fld := ⟨5, 0, .srw⟩
/-- `ZL_IDENT`.MODULE [12:8], SRW (R413). -/
def Reg.ZL_IDENT_MODULE : Fld := ⟨12, 8, .srw⟩
/-- `ZL_IDENT`.SET [16:16], SRW (R413). -/
def Reg.ZL_IDENT_SET : Fld := ⟨16, 16, .srw⟩
/-- `ZL_HALL_EXP_u` (R413). -/
def Reg.ZL_HALL_EXP (i : Nat) : RegId := ⟨0xb00080+0x8*i, 4294967296⟩
/-- `ZL_HALL_EXP_u`.FAR_ID [31:0], SRW (R413). -/
def Reg.ZL_HALL_EXP_FAR_ID : Fld := ⟨31, 0, .srw⟩
/-- `ZL_HALL_EXP_u`.CHECK [32:32], SRW (R413). -/
def Reg.ZL_HALL_EXP_CHECK : Fld := ⟨32, 32, .srw⟩
/-- `ZL_LM_CFG` (R420). -/
def Reg.ZL_LM_CFG : RegId := ⟨0xb00008, 1059972175642246⟩
/-- `ZL_LM_CFG`.CE_TH [3:0], RW (R420). -/
def Reg.ZL_LM_CFG_CE_TH : Fld := ⟨3, 0, .rw⟩
/-- `ZL_LM_CFG`.LM_TIME [19:4], RW (R420). -/
def Reg.ZL_LM_CFG_LM_TIME : Fld := ⟨19, 4, .rw⟩
/-- `ZL_LM_CFG`.WATCH_MAX [31:20], RW (R420). -/
def Reg.ZL_LM_CFG_WATCH_MAX : Fld := ⟨31, 20, .rw⟩
/-- `ZL_LM_CFG`.TDELTA [39:32], RW (R420). -/
def Reg.ZL_LM_CFG_TDELTA : Fld := ⟨39, 32, .rw⟩
/-- `ZL_LM_CFG`.RETRAIN_MAX [43:40], RW (R420). -/
def Reg.ZL_LM_CFG_RETRAIN_MAX : Fld := ⟨43, 40, .rw⟩
/-- `ZL_LM_CFG`.RETRAIN_WIN [55:44], RW (R420). -/
def Reg.ZL_LM_CFG_RETRAIN_WIN : Fld := ⟨55, 44, .rw⟩
/-- `ZL_PORT_CTL_n` (R420). -/
def Reg.ZL_PORT_CTL (i : Nat) : RegId := ⟨0xb01000+0x20*i, 1⟩
/-- `ZL_PORT_CTL_n`.EN [0:0], RW (R420). -/
def Reg.ZL_PORT_CTL_EN : Fld := ⟨0, 0, .rw⟩
/-- `ZL_PORT_CTL_n`.FENCE [1:1], RW (R420). -/
def Reg.ZL_PORT_CTL_FENCE : Fld := ⟨1, 1, .rw⟩
/-- `ZL_PORT_CTL_n`.RETRAIN [2:2], WO (R420). -/
def Reg.ZL_PORT_CTL_RETRAIN : Fld := ⟨2, 2, .wo⟩
/-- `ZL_PORT_STAT_n` (R420). -/
def Reg.ZL_PORT_STAT (i : Nat) : RegId := ⟨0xb01008+0x20*i, 0⟩
/-- `ZL_PORT_STAT_n`.STATE [2:0], RO (R420). -/
def Reg.ZL_PORT_STAT_STATE : Fld := ⟨2, 0, .ro⟩
/-- `ZL_PORT_STAT_n`.CAUSE [6:3], RO (R420). -/
def Reg.ZL_PORT_STAT_CAUSE : Fld := ⟨6, 3, .ro⟩
/-- `ZL_PORT_STAT_n`.FAR_RACK [13:8], RO (R420). -/
def Reg.ZL_PORT_STAT_FAR_RACK : Fld := ⟨13, 8, .ro⟩
/-- `ZL_PORT_STAT_n`.FAR_IDX [18:14], RO (R420). -/
def Reg.ZL_PORT_STAT_FAR_IDX : Fld := ⟨18, 14, .ro⟩
/-- `ZL_PORT_STAT_n`.FAR_PORT [24:19], RO (R420). -/
def Reg.ZL_PORT_STAT_FAR_PORT : Fld := ⟨24, 19, .ro⟩
/-- `ZL_PORT_STAT_n`.FAR_KIND [26:25], RO (R420). -/
def Reg.ZL_PORT_STAT_FAR_KIND : Fld := ⟨26, 25, .ro⟩
/-- `ZL_PORT_STAT_n`.MARGIN [39:32], RO (R420). -/
def Reg.ZL_PORT_STAT_MARGIN : Fld := ⟨39, 32, .ro⟩
/-- `ZL_PORT_STAT_n`.TTRAIN [47:40], RO (R420). -/
def Reg.ZL_PORT_STAT_TTRAIN : Fld := ⟨47, 40, .ro⟩
/-- `ZL_PORT_ERR_n` (R420). -/
def Reg.ZL_PORT_ERR (i : Nat) : RegId := ⟨0xb01010+0x20*i, 0⟩
/-- `ZL_PORT_ERR_n`.HIGH_CW [31:0], RO (R420). -/
def Reg.ZL_PORT_ERR_HIGH_CW : Fld := ⟨31, 0, .ro⟩
/-- `ZL_PORT_ERR_n`.UNCORR [47:32], RO (R420). -/
def Reg.ZL_PORT_ERR_UNCORR : Fld := ⟨47, 32, .ro⟩
/-- `ZL_PORT_ERR_n`.RETRAINS [63:48], RO (R420). -/
def Reg.ZL_PORT_ERR_RETRAINS : Fld := ⟨63, 48, .ro⟩
/-- `ZL_HIPRI_k` (R425). -/
def Reg.ZL_HIPRI (i : Nat) : RegId := ⟨0xb00040+0x8*i, 0⟩
/-- `ZL_HIPRI_k`.COMP [63:0], RW (R425). -/
def Reg.ZL_HIPRI_COMP : Fld := ⟨63, 0, .rw⟩
/-- `ZL_ACC_CTX_j` (R428). -/
def Reg.ZL_ACC_CTX (i : Nat) : RegId := ⟨0xb00100+0x8*i, 65535⟩
/-- `ZL_ACC_CTX_j`.LO [15:0], SRW (R428). -/
def Reg.ZL_ACC_CTX_LO : Fld := ⟨15, 0, .srw⟩
/-- `ZL_ACC_CTX_j`.HI [31:16], SRW (R428). -/
def Reg.ZL_ACC_CTX_HI : Fld := ⟨31, 16, .srw⟩
/-- `ZL_ROUTE_CFG` (R428). -/
def Reg.ZL_ROUTE_CFG : RegId := ⟨0xb00010, 10027072⟩
/-- `ZL_ROUTE_CFG`.DETOUR_TH [15:0], RW (R428). -/
def Reg.ZL_ROUTE_CFG_DETOUR_TH : Fld := ⟨15, 0, .rw⟩
/-- `ZL_ROUTE_CFG`.TRANSIT_PCT [22:16], RW (R428). -/
def Reg.ZL_ROUTE_CFG_TRANSIT_PCT : Fld := ⟨22, 16, .rw⟩
/-- `ZL_ROUTE_CFG`.DETOUR_EN [23:23], RW (R428). -/
def Reg.ZL_ROUTE_CFG_DETOUR_EN : Fld := ⟨23, 23, .rw⟩
/-- `ZL_E2E_CFG` (R432). -/
def Reg.ZL_E2E_CFG : RegId := ⟨0xb00018, 131072020⟩
/-- `ZL_E2E_CFG`.RESEND [15:0], RW (R432). -/
def Reg.ZL_E2E_CFG_RESEND : Fld := ⟨15, 0, .rw⟩
/-- `ZL_E2E_CFG`.GIVEUP [47:16], RW (R432). -/
def Reg.ZL_E2E_CFG_GIVEUP : Fld := ⟨47, 16, .rw⟩
/-- `ZL_HALL_ROUTE_r` (R432). -/
def Reg.ZL_HALL_ROUTE (i : Nat) : RegId := ⟨0xb00200+0x8*i, 0⟩
/-- `ZL_HALL_ROUTE_r`.VALID [0:0], SRW (R432). -/
def Reg.ZL_HALL_ROUTE_VALID : Fld := ⟨0, 0, .srw⟩
/-- `ZL_HALL_ROUTE_r`.GW [5:1], SRW (R432). -/
def Reg.ZL_HALL_ROUTE_GW : Fld := ⟨5, 1, .srw⟩
/-- `ZL_HALL_ROUTE_r`.UPLINKS [11:8], SRW (R432). -/
def Reg.ZL_HALL_ROUTE_UPLINKS : Fld := ⟨11, 8, .srw⟩
/-- `ZL_HALL_ROUTE_r`.EPOCH [47:32], SRW (R432). -/
def Reg.ZL_HALL_ROUTE_EPOCH : Fld := ⟨47, 32, .srw⟩
/-- `ZL_LSR_c` (R435). -/
def Reg.ZL_LSR (i : Nat) : RegId := ⟨0xb000c0+0x8*i, 0⟩
/-- `ZL_LSR_c`.STATE [2:0], RO (R435). -/
def Reg.ZL_LSR_STATE : Fld := ⟨2, 0, .ro⟩
/-- `ZL_LSR_c`.SERVICE [3:3], RW (R435). -/
def Reg.ZL_LSR_SERVICE : Fld := ⟨3, 3, .rw⟩
/-- `ZL_LSR_c`.BIAS [31:16], RO (R435). -/
def Reg.ZL_LSR_BIAS : Fld := ⟨31, 16, .ro⟩
/-- `ZL_LSR_c`.POWER [47:32], RO (R435). -/
def Reg.ZL_LSR_POWER : Fld := ⟨47, 32, .ro⟩
/-- `ZL_LSR_c`.TEMP [55:48], RO (R435). -/
def Reg.ZL_LSR_TEMP : Fld := ⟨55, 48, .ro⟩
/-- `QOS_CTX_MAP` (R445). -/
def Reg.QOS_CTX_MAP : RegId := ⟨0xc00000, 0⟩
/-- `QOS_CTX_MAP`.CTX [15:0], RW (R445). -/
def Reg.QOS_CTX_MAP_CTX : Fld := ⟨15, 0, .rw⟩
/-- `QOS_CTX_MAP`.METER [27:16], RW (R445). -/
def Reg.QOS_CTX_MAP_METER : Fld := ⟨27, 16, .rw⟩
/-- `QOS_CTX_MAP`.MAPPED [28:28], RW (R445). -/
def Reg.QOS_CTX_MAP_MAPPED : Fld := ⟨28, 28, .rw⟩
/-- `QOS_CTX_MAP`.GO [29:29], WO (R445). -/
def Reg.QOS_CTX_MAP_GO : Fld := ⟨29, 29, .wo⟩
/-- `QOS_CTX_MAP`.READ [30:30], WO (R445). -/
def Reg.QOS_CTX_MAP_READ : Fld := ⟨30, 30, .wo⟩
/-- `QOS_MTR_CFG_m` (R445). -/
def Reg.QOS_MTR_CFG (i : Nat) : RegId := ⟨0xc20000+0x20*i, 16777332⟩
/-- `QOS_MTR_CFG_m`.EN [0:0], RW (R445). -/
def Reg.QOS_MTR_CFG_EN : Fld := ⟨0, 0, .rw⟩
/-- `QOS_MTR_CFG_m`.MODE [1:1], RW (R445). -/
def Reg.QOS_MTR_CFG_MODE : Fld := ⟨1, 1, .rw⟩
/-- `QOS_MTR_CFG_m`.ACT_Y [3:2], RW (R445). -/
def Reg.QOS_MTR_CFG_ACT_Y : Fld := ⟨3, 2, .rw⟩
/-- `QOS_MTR_CFG_m`.ACT_R [5:4], RW (R445). -/
def Reg.QOS_MTR_CFG_ACT_R : Fld := ⟨5, 4, .rw⟩
/-- `QOS_MTR_CFG_m`.FILL [6:6], RW (R445). -/
def Reg.QOS_MTR_CFG_FILL : Fld := ⟨6, 6, .rw⟩
/-- `QOS_MTR_CFG_m`.APPLY [7:7], WO (R445). -/
def Reg.QOS_MTR_CFG_APPLY : Fld := ⟨7, 7, .wo⟩
/-- `QOS_MTR_CFG_m`.DQ_MAX [25:16], RW (R445). -/
def Reg.QOS_MTR_CFG_DQ_MAX : Fld := ⟨25, 16, .rw⟩
/-- `QOS_MTR_RATE_m` (R445). -/
def Reg.QOS_MTR_RATE (i : Nat) : RegId := ⟨0xc20008+0x20*i, 0⟩
/-- `QOS_MTR_RATE_m`.CIR [31:0], RW (R445). -/
def Reg.QOS_MTR_RATE_CIR : Fld := ⟨31, 0, .rw⟩
/-- `QOS_MTR_RATE_m`.XIR [63:32], RW (R445). -/
def Reg.QOS_MTR_RATE_XIR : Fld := ⟨63, 32, .rw⟩
/-- `QOS_MTR_BURST_m` (R445). -/
def Reg.QOS_MTR_BURST (i : Nat) : RegId := ⟨0xc20010+0x20*i, 0⟩
/-- `QOS_MTR_BURST_m`.CBS [31:0], RW (R445). -/
def Reg.QOS_MTR_BURST_CBS : Fld := ⟨31, 0, .rw⟩
/-- `QOS_MTR_BURST_m`.XBS [63:32], RW (R445). -/
def Reg.QOS_MTR_BURST_XBS : Fld := ⟨63, 32, .rw⟩
/-- `QOS_MTR_SEL` (R446). -/
def Reg.QOS_MTR_SEL : RegId := ⟨0xc00008, 0⟩
/-- `QOS_MTR_SEL`.METER [11:0], RW (R446). -/
def Reg.QOS_MTR_SEL_METER : Fld := ⟨11, 0, .rw⟩
/-- `QOS_MTR_GREEN` (R440). -/
def Reg.QOS_MTR_GREEN : RegId := ⟨0xc00010, 0⟩
/-- `QOS_MTR_GREEN`.BYTES [63:0], RO (R440). -/
def Reg.QOS_MTR_GREEN_BYTES : Fld := ⟨63, 0, .ro⟩
/-- `QOS_MTR_YELLOW` (R440). -/
def Reg.QOS_MTR_YELLOW : RegId := ⟨0xc00018, 0⟩
/-- `QOS_MTR_YELLOW`.BYTES [63:0], RO (R440). -/
def Reg.QOS_MTR_YELLOW_BYTES : Fld := ⟨63, 0, .ro⟩
/-- `QOS_MTR_RED` (R440). -/
def Reg.QOS_MTR_RED : RegId := ⟨0xc00020, 0⟩
/-- `QOS_MTR_RED`.BYTES [63:0], RO (R440). -/
def Reg.QOS_MTR_RED_BYTES : Fld := ⟨63, 0, .ro⟩
/-- `QOS_MTR_STAT` (R440). -/
def Reg.QOS_MTR_STAT : RegId := ⟨0xc00028, 0⟩
/-- `QOS_MTR_STAT`.REFUSED [31:0], RO (R440). -/
def Reg.QOS_MTR_STAT_REFUSED : Fld := ⟨31, 0, .ro⟩
/-- `QOS_MTR_STAT`.DQ [41:32], RO (R440). -/
def Reg.QOS_MTR_STAT_DQ : Fld := ⟨41, 32, .ro⟩
/-- `QOS_SHP_n_v` (R449). -/
def Reg.QOS_SHP (i j : Nat) : RegId := ⟨0xc40000+0x40*i+0x8*j, shpRst j⟩
/-- `QOS_SHP_n_v`.EN [0:0], RW (R449). -/
def Reg.QOS_SHP_EN : Fld := ⟨0, 0, .rw⟩
/-- `QOS_SHP_n_v`.IDLE [10:1], RW (R449). -/
def Reg.QOS_SHP_IDLE : Fld := ⟨10, 1, .rw⟩
/-- `QOS_SHP_n_v`.FILL [11:11], RW (R449). -/
def Reg.QOS_SHP_FILL : Fld := ⟨11, 11, .rw⟩
/-- `QOS_SHP_n_v`.HI [31:16], RW (R449). -/
def Reg.QOS_SHP_HI : Fld := ⟨31, 16, .rw⟩
/-- `QOS_SHP_n_v`.LO [47:32], RW (R449). -/
def Reg.QOS_SHP_LO : Fld := ⟨47, 32, .rw⟩
/-- `QOS_GATE_CTL_n` (R450). -/
def Reg.QOS_GATE_CTL (i : Nat) : RegId := ⟨0xc50000+0x8*i, 65792⟩
/-- `QOS_GATE_CTL_n`.EN [0:0], RW (R450). -/
def Reg.QOS_GATE_CTL_EN : Fld := ⟨0, 0, .rw⟩
/-- `QOS_GATE_CTL_n`.ACTIVE [1:1], RO (R450). -/
def Reg.QOS_GATE_CTL_ACTIVE : Fld := ⟨1, 1, .ro⟩
/-- `QOS_GATE_CTL_n`.SWITCH [2:2], WO (R450). -/
def Reg.QOS_GATE_CTL_SWITCH : Fld := ⟨2, 2, .wo⟩
/-- `QOS_GATE_CTL_n`.LEN0 [14:8], RW (R450). -/
def Reg.QOS_GATE_CTL_LEN0 : Fld := ⟨14, 8, .rw⟩
/-- `QOS_GATE_CTL_n`.LEN1 [22:16], RW (R450). -/
def Reg.QOS_GATE_CTL_LEN1 : Fld := ⟨22, 16, .rw⟩
/-- `QOS_GATE_CTL_n`.OVERRUN [23:23], RW1C (R450). -/
def Reg.QOS_GATE_CTL_OVERRUN : Fld := ⟨23, 23, .rw1c⟩
/-- `QOS_GCL_n_l_e` (R450). -/
def Reg.QOS_GCL (i j k : Nat) : RegId := ⟨0xc60000+0x400*i+0x200*j+0x8*k, 4294967296255⟩
/-- `QOS_GCL_n_l_e`.OPEN [7:0], RW (R450). -/
def Reg.QOS_GCL_OPEN : Fld := ⟨7, 0, .rw⟩
/-- `QOS_GCL_n_l_e`.DUR [63:32], RW (R450). -/
def Reg.QOS_GCL_DUR : Fld := ⟨63, 32, .rw⟩
/-- `HEAD_HDM_CTX_h_k` (R458). -/
def Reg.HEAD_HDM_CTX (i j : Nat) : RegId := ⟨0x100040+0x100*i+0x8*j, 65535⟩
/-- `HEAD_HDM_CTX_h_k`.CTX [15:0], SRW (R458). -/
def Reg.HEAD_HDM_CTX_CTX : Fld := ⟨15, 0, .srw⟩
/-- `HEAD_CFG_h` (R466). -/
def Reg.HEAD_CFG (i : Nat) : RegId := ⟨0x100000+0x100*i, 2⟩
/-- `HEAD_CFG_h`.IDE_REQ [0:0], SRW (R466). -/
def Reg.HEAD_CFG_IDE_REQ : Fld := ⟨0, 0, .srw⟩
/-- `HEAD_CFG_h`.VDM_MCTP [1:1], SRW (R466). -/
def Reg.HEAD_CFG_VDM_MCTP : Fld := ⟨1, 1, .srw⟩
/-- `HEAD_STAT_h` (R466). -/
def Reg.HEAD_STAT (i : Nat) : RegId := ⟨0x100008+0x100*i, 4096⟩
/-- `HEAD_STAT_h`.SPEED [2:0], RO (R466). -/
def Reg.HEAD_STAT_SPEED : Fld := ⟨2, 0, .ro⟩
/-- `HEAD_STAT_h`.WIDTH [7:3], RO (R466). -/
def Reg.HEAD_STAT_WIDTH : Fld := ⟨7, 3, .ro⟩
/-- `HEAD_STAT_h`.FLIT [8:8], RO (R466). -/
def Reg.HEAD_STAT_FLIT : Fld := ⟨8, 8, .ro⟩
/-- `HEAD_STAT_h`.CXLMEM [9:9], RO (R466). -/
def Reg.HEAD_STAT_CXLMEM : Fld := ⟨9, 9, .ro⟩
/-- `HEAD_STAT_h`.IDE_IO [10:10], RO (R466). -/
def Reg.HEAD_STAT_IDE_IO : Fld := ⟨10, 10, .ro⟩
/-- `HEAD_STAT_h`.IDE_MEM [11:11], RO (R466). -/
def Reg.HEAD_STAT_IDE_MEM : Fld := ⟨11, 11, .ro⟩
/-- `HEAD_STAT_h`.IN_RESET [12:12], RO (R466). -/
def Reg.HEAD_STAT_IN_RESET : Fld := ⟨12, 12, .ro⟩
/-- `HEAD_CNT_h` (R466). -/
def Reg.HEAD_CNT (i : Nat) : RegId := ⟨0x100010+0x100*i, 0⟩
/-- `HEAD_CNT_h`.REFUSED [31:0], RO (R466). -/
def Reg.HEAD_CNT_REFUSED : Fld := ⟨31, 0, .ro⟩
/-- `HEAD_CNT_h`.IDE_FAIL [47:32], RO (R466). -/
def Reg.HEAD_CNT_IDE_FAIL : Fld := ⟨47, 32, .ro⟩
/-- `SEC_CTX_SECURE` (R474). -/
def Reg.SEC_CTX_SECURE : RegId := ⟨0xd00000, 65535⟩
/-- `SEC_CTX_SECURE`.LO [15:0], SRW (R474). -/
def Reg.SEC_CTX_SECURE_LO : Fld := ⟨15, 0, .srw⟩
/-- `SEC_CTX_SECURE`.HI [31:16], SRW (R474). -/
def Reg.SEC_CTX_SECURE_HI : Fld := ⟨31, 16, .srw⟩
/-- `SEC_WORLD_ENG` (R476). -/
def Reg.SEC_WORLD_ENG : RegId := ⟨0xd00008, 0⟩
/-- `SEC_WORLD_ENG`.NEWT [31:0], SRW (R476). -/
def Reg.SEC_WORLD_ENG_NEWT : Fld := ⟨31, 0, .srw⟩
/-- `SEC_WORLD_ENG`.KTL [63:32], SRW (R476). -/
def Reg.SEC_WORLD_ENG_KTL : Fld := ⟨63, 32, .srw⟩
/-- `SEC_WORLD_MISC` (R476). -/
def Reg.SEC_WORLD_MISC : RegId := ⟨0xd00010, 0⟩
/-- `SEC_WORLD_MISC`.GKO [1:0], SRW (R476). -/
def Reg.SEC_WORLD_MISC_GKO : Fld := ⟨1, 0, .srw⟩
/-- `SEC_WORLD_MISC`.EMB [3:2], SRW (R476). -/
def Reg.SEC_WORLD_MISC_EMB : Fld := ⟨3, 2, .srw⟩
/-- `SEC_WORLD_MISC`.HEAD [7:4], SRW (R476). -/
def Reg.SEC_WORLD_MISC_HEAD : Fld := ⟨7, 4, .srw⟩
/-- `SEC_CFG` (R476). -/
def Reg.SEC_CFG : RegId := ⟨0xd00018, 1⟩
/-- `SEC_CFG`.FORCE_SCRUB [0:0], SRW (R476). -/
def Reg.SEC_CFG_FORCE_SCRUB : Fld := ⟨0, 0, .srw⟩
/-- `SEC_CFG`.WLOCK [1:1], SRW (R476). -/
def Reg.SEC_CFG_WLOCK : Fld := ⟨1, 1, .srw⟩
/-- `SEC_RGN_SEL` (R480). -/
def Reg.SEC_RGN_SEL : RegId := ⟨0xd00020, 0⟩
/-- `SEC_RGN_SEL`.REGION [11:0], RW (R480). -/
def Reg.SEC_RGN_SEL_REGION : Fld := ⟨11, 0, .rw⟩
/-- `SEC_RGN_SEL`.COMMIT [12:12], WO (R480). -/
def Reg.SEC_RGN_SEL_COMMIT : Fld := ⟨12, 12, .wo⟩
/-- `SEC_RGN_SEL`.BUSY [13:13], RO (R480). -/
def Reg.SEC_RGN_SEL_BUSY : Fld := ⟨13, 13, .ro⟩
/-- `SEC_RGN_SEL`.REFUSED [14:14], RW1C (R480). -/
def Reg.SEC_RGN_SEL_REFUSED : Fld := ⟨14, 14, .rw1c⟩
/-- `SEC_RGN_CFG` (R480). -/
def Reg.SEC_RGN_CFG : RegId := ⟨0xd00028, 0⟩
/-- `SEC_RGN_CFG`.VALID [0:0], RW (R480). -/
def Reg.SEC_RGN_CFG_VALID : Fld := ⟨0, 0, .rw⟩
/-- `SEC_RGN_CFG`.WORLD [1:1], SRW (R480). -/
def Reg.SEC_RGN_CFG_WORLD : Fld := ⟨1, 1, .srw⟩
/-- `SEC_RGN_CFG`.ATOMIC_MODE [2:2], RW (R480). -/
def Reg.SEC_RGN_CFG_ATOMIC_MODE : Fld := ⟨2, 2, .rw⟩
/-- `SEC_RGN_CFG`.ENC [3:3], RW (R480). -/
def Reg.SEC_RGN_CFG_ENC : Fld := ⟨3, 3, .rw⟩
/-- `SEC_RGN_CFG`.KEY [15:4], RW (R480). -/
def Reg.SEC_RGN_CFG_KEY : Fld := ⟨15, 4, .rw⟩
/-- `SEC_RGN_CFG`.COH_DOMAIN [23:16], RW (R480). -/
def Reg.SEC_RGN_CFG_COH_DOMAIN : Fld := ⟨23, 16, .rw⟩
/-- `SEC_RGN_RANGE` (R480). -/
def Reg.SEC_RGN_RANGE : RegId := ⟨0xd00030, 0⟩
/-- `SEC_RGN_RANGE`.BASE [22:0], RW (R480). -/
def Reg.SEC_RGN_RANGE_BASE : Fld := ⟨22, 0, .rw⟩
/-- `SEC_RGN_RANGE`.SIZE [55:32], RW (R480). -/
def Reg.SEC_RGN_RANGE_SIZE : Fld := ⟨55, 32, .rw⟩
/-- `SEC_GRANT` (R483). -/
def Reg.SEC_GRANT : RegId := ⟨0xd00038, 0⟩
/-- `SEC_GRANT`.REGION [11:0], RW (R483). -/
def Reg.SEC_GRANT_REGION : Fld := ⟨11, 0, .rw⟩
/-- `SEC_GRANT`.CODE [13:12], RW (R483). -/
def Reg.SEC_GRANT_CODE : Fld := ⟨13, 12, .rw⟩
/-- `SEC_GRANT`.GO [14:14], WO (R483). -/
def Reg.SEC_GRANT_GO : Fld := ⟨14, 14, .wo⟩
/-- `SEC_GRANT`.BUSY [15:15], RO (R483). -/
def Reg.SEC_GRANT_BUSY : Fld := ⟨15, 15, .ro⟩
/-- `SEC_GRANT`.CTX_LO [31:16], RW (R483). -/
def Reg.SEC_GRANT_CTX_LO : Fld := ⟨31, 16, .rw⟩
/-- `SEC_GRANT`.CTX_HI [47:32], RW (R483). -/
def Reg.SEC_GRANT_CTX_HI : Fld := ⟨47, 32, .rw⟩
/-- `SEC_GRANT`.REFUSED [48:48], RW1C (R483). -/
def Reg.SEC_GRANT_REFUSED : Fld := ⟨48, 48, .rw1c⟩
/-- `SEC_KEY_CTL` (R488). -/
def Reg.SEC_KEY_CTL : RegId := ⟨0xd00040, 0⟩
/-- `SEC_KEY_CTL`.SLOT [11:0], RW (R488). -/
def Reg.SEC_KEY_CTL_SLOT : Fld := ⟨11, 0, .rw⟩
/-- `SEC_KEY_CTL`.OP [13:12], RW (R488). -/
def Reg.SEC_KEY_CTL_OP : Fld := ⟨13, 12, .rw⟩
/-- `SEC_KEY_CTL`.GO [14:14], WO (R488). -/
def Reg.SEC_KEY_CTL_GO : Fld := ⟨14, 14, .wo⟩
/-- `SEC_KEY_CTL`.BUSY [15:15], RO (R488). -/
def Reg.SEC_KEY_CTL_BUSY : Fld := ⟨15, 15, .ro⟩
/-- `SEC_KEY_CTL`.LOADED [16:16], RO (R488). -/
def Reg.SEC_KEY_CTL_LOADED : Fld := ⟨16, 16, .ro⟩
/-- `SEC_KEY_CTL`.SWORLD [17:17], RO (R488). -/
def Reg.SEC_KEY_CTL_SWORLD : Fld := ⟨17, 17, .ro⟩
/-- `SEC_KEY_CTL`.REFUSED [18:18], RW1C (R488). -/
def Reg.SEC_KEY_CTL_REFUSED : Fld := ⟨18, 18, .rw1c⟩
/-- `SEC_KEY_CTL`.USERS [44:32], RO (R488). -/
def Reg.SEC_KEY_CTL_USERS : Fld := ⟨44, 32, .ro⟩
/-- `SEC_FW_STAT` (R496). -/
def Reg.SEC_FW_STAT : RegId := ⟨0xd00048, 0⟩
/-- `SEC_FW_STAT`.RECOVERY [0:0], RO (R496). -/
def Reg.SEC_FW_STAT_RECOVERY : Fld := ⟨0, 0, .ro⟩
/-- `SEC_FW_STAT`.CAUSE [3:1], RO (R496). -/
def Reg.SEC_FW_STAT_CAUSE : Fld := ⟨3, 1, .ro⟩
/-- `SEC_FW_STAT`.SVN [15:8], RO (R496). -/
def Reg.SEC_FW_STAT_SVN : Fld := ⟨15, 8, .ro⟩
/-- `SEC_FW_STAT`.SVN_MIN [23:16], RO (R496). -/
def Reg.SEC_FW_STAT_SVN_MIN : Fld := ⟨23, 16, .ro⟩
/-- `SEC_FW_STAT`.REVOKED [27:24], RO (R496). -/
def Reg.SEC_FW_STAT_REVOKED : Fld := ⟨27, 24, .ro⟩
/-- `SEC_FW_STAT`.STAGED [28:28], RO (R496). -/
def Reg.SEC_FW_STAT_STAGED : Fld := ⟨28, 28, .ro⟩
/-- `SEC_FW_CTL` (R496). -/
def Reg.SEC_FW_CTL : RegId := ⟨0xd00050, 0⟩
/-- `SEC_FW_CTL`.COMMIT_SVN [0:0], WO (R496). -/
def Reg.SEC_FW_CTL_COMMIT_SVN : Fld := ⟨0, 0, .wo⟩
/-- `RAS_CFG` (R500). -/
def Reg.RAS_CFG : RegId := ⟨0xe00000, 3276900⟩
/-- `RAS_CFG`.ENG_WDT [15:0], RW (R500). -/
def Reg.RAS_CFG_ENG_WDT : Fld := ⟨15, 0, .rw⟩
/-- `RAS_CFG`.STW_WDT [31:16], SRW (R500). -/
def Reg.RAS_CFG_STW_WDT : Fld := ⟨31, 16, .srw⟩
/-- `RAS_CFG`.DM_EID [39:32], SRW (R500). -/
def Reg.RAS_CFG_DM_EID : Fld := ⟨39, 32, .srw⟩
/-- `RAS_CONTAIN` (R501). -/
def Reg.RAS_CONTAIN : RegId := ⟨0xe00008, 0⟩
/-- `RAS_CONTAIN`.SCOPE [3:0], RW (R501). -/
def Reg.RAS_CONTAIN_SCOPE : Fld := ⟨3, 0, .rw⟩
/-- `RAS_CONTAIN`.ACTION [7:4], RW (R501). -/
def Reg.RAS_CONTAIN_ACTION : Fld := ⟨7, 4, .rw⟩
/-- `RAS_CONTAIN`.OBJECT [39:8], RW (R501). -/
def Reg.RAS_CONTAIN_OBJECT : Fld := ⟨39, 8, .rw⟩
/-- `RAS_CONTAIN`.GO [40:40], WO (R501). -/
def Reg.RAS_CONTAIN_GO : Fld := ⟨40, 40, .wo⟩
/-- `RAS_CONTAIN`.REFUSED [41:41], RW1C (R501). -/
def Reg.RAS_CONTAIN_REFUSED : Fld := ⟨41, 41, .rw1c⟩
/-- `RAS_JRNL` (R518). -/
def Reg.RAS_JRNL : RegId := ⟨0xe00010, 0⟩
/-- `RAS_JRNL`.USED [13:0], RO (R518). -/
def Reg.RAS_JRNL_USED : Fld := ⟨13, 0, .ro⟩
/-- `RAS_JRNL`.PEAK [29:16], RO (R518). -/
def Reg.RAS_JRNL_PEAK : Fld := ⟨29, 16, .ro⟩
/-- `RAS_JRNL`.LOST [63:32], RO (R518). -/
def Reg.RAS_JRNL_LOST : Fld := ⟨63, 32, .ro⟩
/-- `RAS_HCFG_k` (R523). -/
def Reg.RAS_HCFG (i : Nat) : RegId := ⟨0xe00100+0x8*i, hcfgRst i⟩
/-- `RAS_HCFG_k`.H [4:0], SRW (R523). -/
def Reg.RAS_HCFG_H : Fld := ⟨4, 0, .srw⟩
/-- `RAS_HCFG_k`.ADVISE [23:8], SRW (R523). -/
def Reg.RAS_HCFG_ADVISE : Fld := ⟨23, 8, .srw⟩
/-- `RAS_HCFG_k`.RETIRE [39:24], SRW (R523). -/
def Reg.RAS_HCFG_RETIRE : Fld := ⟨39, 24, .srw⟩
/-- `RAS_HCFG_k`.AUTO [40:40], SRW (R523). -/
def Reg.RAS_HCFG_AUTO : Fld := ⟨40, 40, .srw⟩
/-- `RAS_HEALTH_SEL` (R523). -/
def Reg.RAS_HEALTH_SEL : RegId := ⟨0xe00018, 0⟩
/-- `RAS_HEALTH_SEL`.PART [31:0], RW (R523). -/
def Reg.RAS_HEALTH_SEL_PART : Fld := ⟨31, 0, .rw⟩
/-- `RAS_HEALTH` (R523). -/
def Reg.RAS_HEALTH : RegId := ⟨0xe00020, 0⟩
/-- `RAS_HEALTH`.SCORE [31:0], RO (R523). -/
def Reg.RAS_HEALTH_SCORE : Fld := ⟨31, 0, .ro⟩
/-- `RAS_HEALTH`.STATE [33:32], RO (R523). -/
def Reg.RAS_HEALTH_STATE : Fld := ⟨33, 32, .ro⟩
/-- `RAS_HEALTH`.EVENTS [63:40], RO (R523). -/
def Reg.RAS_HEALTH_EVENTS : Fld := ⟨63, 40, .ro⟩
/-- `RAS_WORST` (R523). -/
def Reg.RAS_WORST : RegId := ⟨0xe00028, 0⟩
/-- `RAS_WORST`.PART [31:0], RO (R523). -/
def Reg.RAS_WORST_PART : Fld := ⟨31, 0, .ro⟩
/-- `RAS_WORST`.RATIO [47:32], RO (R523). -/
def Reg.RAS_WORST_RATIO : Fld := ⟨47, 32, .ro⟩
/-- `EVR_STAT` (R531). -/
def Reg.EVR_STAT : RegId := ⟨0xf00000, 0⟩
/-- `EVR_STAT`.NEXT [17:0], RO (R531). -/
def Reg.EVR_STAT_NEXT : Fld := ⟨17, 0, .ro⟩
/-- `EVR_STAT`.RESERVE [18:18], RO (R531). -/
def Reg.EVR_STAT_RESERVE : Fld := ⟨18, 18, .ro⟩
/-- `EVR_STAT`.FULL [19:19], RO (R531). -/
def Reg.EVR_STAT_FULL : Fld := ⟨19, 19, .ro⟩
/-- `EVR_STAT`.DROPPED [63:32], RO (R531). -/
def Reg.EVR_STAT_DROPPED : Fld := ⟨63, 32, .ro⟩
/-- `EVR_COUNT` (R531). -/
def Reg.EVR_COUNT : RegId := ⟨0xf00008, 0⟩
/-- `EVR_COUNT`.OP_SEC [31:0], RO (R531). -/
def Reg.EVR_COUNT_OP_SEC : Fld := ⟨31, 0, .ro⟩
/-- `EVR_COUNT`.PCYCLE [63:32], RO (R531). -/
def Reg.EVR_COUNT_PCYCLE : Fld := ⟨63, 32, .ro⟩
/-- `EVR_RD` (R531). -/
def Reg.EVR_RD : RegId := ⟨0xf00010, 0⟩
/-- `EVR_RD`.INDEX [17:0], RW (R531). -/
def Reg.EVR_RD_INDEX : Fld := ⟨17, 0, .rw⟩
/-- `EVR_RD`.BAD [18:18], RO (R531). -/
def Reg.EVR_RD_BAD : Fld := ⟨18, 18, .ro⟩
/-- `PWR_STAT` (R555). -/
def Reg.PWR_STAT : RegId := ⟨0x1000000, 7680⟩
/-- `PWR_STAT`.STATE [2:0], RO (R555). -/
def Reg.PWR_STAT_STATE : Fld := ⟨2, 0, .ro⟩
/-- `PWR_STAT`.WAKE [5:3], RO (R555). -/
def Reg.PWR_STAT_WAKE : Fld := ⟨5, 3, .ro⟩
/-- `PWR_STAT`.HP_REQ [6:6], RO (R555). -/
def Reg.PWR_STAT_HP_REQ : Fld := ⟨6, 6, .ro⟩
/-- `PWR_STAT`.HP_SEEN [7:7], RW1C (R555). -/
def Reg.PWR_STAT_HP_SEEN : Fld := ⟨7, 7, .rw1c⟩
/-- `PWR_STAT`.FENCE [8:8], RO (R555). -/
def Reg.PWR_STAT_FENCE : Fld := ⟨8, 8, .ro⟩
/-- `PWR_STAT`.PERST [12:9], RO (R555). -/
def Reg.PWR_STAT_PERST : Fld := ⟨12, 9, .ro⟩
/-- `PWR_STAT`.REF_HOLD [13:13], RO (R555). -/
def Reg.PWR_STAT_REF_HOLD : Fld := ⟨13, 13, .ro⟩
/-- `PWR_STAT`.THR_T [14:14], RO (R555). -/
def Reg.PWR_STAT_THR_T : Fld := ⟨14, 14, .ro⟩
/-- `PWR_STAT`.THR_P [15:15], RO (R555). -/
def Reg.PWR_STAT_THR_P : Fld := ⟨15, 15, .ro⟩
/-- `PWR_STAT`.KTL_LVL [19:16], RO (R555). -/
def Reg.PWR_STAT_KTL_LVL : Fld := ⟨19, 16, .ro⟩
/-- `PWR_STAT`.TDIE [31:24], RO (R555). -/
def Reg.PWR_STAT_TDIE : Fld := ⟨31, 24, .ro⟩
/-- `PWR_STAT`.THBM [39:32], RO (R555). -/
def Reg.PWR_STAT_THBM : Fld := ⟨39, 32, .ro⟩
/-- `PWR_STAT`.TIN [47:40], RO (R555). -/
def Reg.PWR_STAT_TIN : Fld := ⟨47, 40, .ro⟩
/-- `PWR_STAT`.PIN [63:48], RO (R555). -/
def Reg.PWR_STAT_PIN : Fld := ⟨63, 48, .ro⟩
/-- `PWR_CTL` (R555). -/
def Reg.PWR_CTL : RegId := ⟨0x1000008, 0⟩
/-- `PWR_CTL`.KEY [7:0], WO (R555). -/
def Reg.PWR_CTL_KEY : Fld := ⟨7, 0, .wo⟩
/-- `PWR_CTL`.RESET [8:8], WO (R555). -/
def Reg.PWR_CTL_RESET : Fld := ⟨8, 8, .wo⟩
/-- `PWR_CTL`.OFFLINE [9:9], WO (R555). -/
def Reg.PWR_CTL_OFFLINE : Fld := ⟨9, 9, .wo⟩
/-- `PWR_LIMIT` (R555). -/
def Reg.PWR_LIMIT : RegId := ⟨0x1000010, 1600390920⟩
/-- `PWR_LIMIT`.LIMIT [15:0], SRW (R555). -/
def Reg.PWR_LIMIT_LIMIT : Fld := ⟨15, 0, .srw⟩
/-- `PWR_LIMIT`.TTHR [23:16], SRW (R555). -/
def Reg.PWR_LIMIT_TTHR : Fld := ⟨23, 16, .srw⟩
/-- `PWR_LIMIT`.HTHR [31:24], SRW (R555). -/
def Reg.PWR_LIMIT_HTHR : Fld := ⟨31, 24, .srw⟩
/-- `PWR_CNT` (R555). -/
def Reg.PWR_CNT : RegId := ⟨0x1000018, 0⟩
/-- `PWR_CNT`.THR_MS [31:0], RO (R555). -/
def Reg.PWR_CNT_THR_MS : Fld := ⟨31, 0, .ro⟩
/-- `PWR_CNT`.GLITCH [47:32], RO (R555). -/
def Reg.PWR_CNT_GLITCH : Fld := ⟨47, 32, .ro⟩
/-- `PWR_CNT`.DROOP [63:48], RO (R555). -/
def Reg.PWR_CNT_DROOP : Fld := ⟨63, 48, .ro⟩
/-- `GLB_ID` (R558). -/
def Reg.GLB_ID : RegId := ⟨0x0, 268435456⟩
/-- `GLB_ID`.DEVICE [15:0], RO (R558). -/
def Reg.GLB_ID_DEVICE : Fld := ⟨15, 0, .ro⟩
/-- `GLB_ID`.VARIANT [19:16], RO (R558). -/
def Reg.GLB_ID_VARIANT : Fld := ⟨19, 16, .ro⟩
/-- `GLB_ID`.STEPPING [27:20], RO (R558). -/
def Reg.GLB_ID_STEPPING : Fld := ⟨27, 20, .ro⟩
/-- `GLB_ID`.CAP_VER [31:28], RO (R558). -/
def Reg.GLB_ID_CAP_VER : Fld := ⟨31, 28, .ro⟩
/-- `GLB_CAP_CORE` (R558). -/
def Reg.GLB_CAP_CORE : RegId := ⟨0x8, 18446744069414584320⟩
/-- `GLB_CAP_CORE`.KTL [31:0], RO (R558). -/
def Reg.GLB_CAP_CORE_KTL : Fld := ⟨31, 0, .ro⟩
/-- `GLB_CAP_CORE`.NEWT [63:32], RO (R558). -/
def Reg.GLB_CAP_CORE_NEWT : Fld := ⟨63, 32, .ro⟩
/-- `GLB_CAP_ENG` (R558). -/
def Reg.GLB_CAP_ENG : RegId := ⟨0x10, 4080⟩
/-- `GLB_CAP_ENG`.GKO [1:0], RO (R558). -/
def Reg.GLB_CAP_ENG_GKO : Fld := ⟨1, 0, .ro⟩
/-- `GLB_CAP_ENG`.EMB [3:2], RO (R558). -/
def Reg.GLB_CAP_ENG_EMB : Fld := ⟨3, 2, .ro⟩
/-- `GLB_CAP_ENG`.MOVER [11:4], RO (R558). -/
def Reg.GLB_CAP_ENG_MOVER : Fld := ⟨11, 4, .ro⟩
/-- `GLB_CAP_ENG`.FLT_NEWT [18:16], RO (R558). -/
def Reg.GLB_CAP_ENG_FLT_NEWT : Fld := ⟨18, 16, .ro⟩
/-- `GLB_CAP_ENG`.FLT_KTL [21:19], RO (R558). -/
def Reg.GLB_CAP_ENG_FLT_KTL : Fld := ⟨21, 19, .ro⟩
/-- `GLB_CAP_ENG`.FLT_GKO [24:22], RO (R558). -/
def Reg.GLB_CAP_ENG_FLT_GKO : Fld := ⟨24, 22, .ro⟩
/-- `GLB_CAP_ENG`.FLT_EMB [27:25], RO (R558). -/
def Reg.GLB_CAP_ENG_FLT_EMB : Fld := ⟨27, 25, .ro⟩
/-- `GLB_CAP_MEM` (R559). -/
def Reg.GLB_CAP_MEM : RegId := ⟨0x18, 1099511627775⟩
/-- `GLB_CAP_MEM`.HBM [7:0], RO (R559). -/
def Reg.GLB_CAP_MEM_HBM : Fld := ⟨7, 0, .ro⟩
/-- `GLB_CAP_MEM`.LPDDR [39:8], RO (R559). -/
def Reg.GLB_CAP_MEM_LPDDR : Fld := ⟨39, 8, .ro⟩
/-- `GLB_CAP_SIZE` (R559). -/
def Reg.GLB_CAP_SIZE : RegId := ⟨0x20, 18014398510006272⟩
/-- `GLB_CAP_SIZE`.HBM_MIB [31:0], RO (R559). -/
def Reg.GLB_CAP_SIZE_HBM_MIB : Fld := ⟨31, 0, .ro⟩
/-- `GLB_CAP_SIZE`.LPDDR_MIB [63:32], RO (R559). -/
def Reg.GLB_CAP_SIZE_LPDDR_MIB : Fld := ⟨63, 32, .ro⟩
/-- `GLB_CAP_SRAM` (R559). -/
def Reg.GLB_CAP_SRAM : RegId := ⟨0x28, 62391224⟩
/-- `GLB_CAP_SRAM`.GEN0 [10:0], RO (R559). -/
def Reg.GLB_CAP_SRAM_GEN0 : Fld := ⟨10, 0, .ro⟩
/-- `GLB_CAP_SRAM`.GEN1 [26:16], RO (R559). -/
def Reg.GLB_CAP_SRAM_GEN1 : Fld := ⟨26, 16, .ro⟩
/-- `GLB_CAP_LIMITS` (R559). -/
def Reg.GLB_CAP_LIMITS : RegId := ⟨0x30, 1152939097061330944⟩
/-- `GLB_CAP_LIMITS`.QUEUES [15:0], RO (R559). -/
def Reg.GLB_CAP_LIMITS_QUEUES : Fld := ⟨15, 0, .ro⟩
/-- `GLB_CAP_LIMITS`.REGIONS [31:16], RO (R559). -/
def Reg.GLB_CAP_LIMITS_REGIONS : Fld := ⟨31, 16, .ro⟩
/-- `GLB_CAP_LIMITS`.KEYS [47:32], RO (R559). -/
def Reg.GLB_CAP_LIMITS_KEYS : Fld := ⟨47, 32, .ro⟩
/-- `GLB_CAP_LIMITS`.METERS [63:48], RO (R559). -/
def Reg.GLB_CAP_LIMITS_METERS : Fld := ⟨63, 48, .ro⟩
/-- `GLB_CAP_TABLES` (R559). -/
def Reg.GLB_CAP_TABLES : RegId := ⟨0x38, 2305844108742099200⟩
/-- `GLB_CAP_TABLES`.ISETS [15:0], RO (R559). -/
def Reg.GLB_CAP_TABLES_ISETS : Fld := ⟨15, 0, .ro⟩
/-- `GLB_CAP_TABLES`.COMPS [31:16], RO (R559). -/
def Reg.GLB_CAP_TABLES_COMPS : Fld := ⟨31, 16, .ro⟩
/-- `GLB_CAP_TABLES`.CDOMS [47:32], RO (R559). -/
def Reg.GLB_CAP_TABLES_CDOMS : Fld := ⟨47, 32, .ro⟩
/-- `GLB_CAP_TABLES`.JOURNAL [63:48], RO (R559). -/
def Reg.GLB_CAP_TABLES_JOURNAL : Fld := ⟨63, 48, .ro⟩
/-- `GLB_CAP_GEN` (R559). -/
def Reg.GLB_CAP_GEN : RegId := ⟨0x40, 0⟩
/-- `GLB_CAP_GEN`.GEN [31:0], RO (R559). -/
def Reg.GLB_CAP_GEN_GEN : Fld := ⟨31, 0, .ro⟩
/-- `GLB_UNIT_DIS` (R561). -/
def Reg.GLB_UNIT_DIS : RegId := ⟨0x48, 0⟩
/-- `GLB_UNIT_DIS`.KTL [31:0], RWL (R561). -/
def Reg.GLB_UNIT_DIS_KTL : Fld := ⟨31, 0, .rwl⟩
/-- `GLB_UNIT_DIS`.GKO [33:32], RWL (R561). -/
def Reg.GLB_UNIT_DIS_GKO : Fld := ⟨33, 32, .rwl⟩
/-- `GLB_UNIT_DIS`.EMB [35:34], RWL (R561). -/
def Reg.GLB_UNIT_DIS_EMB : Fld := ⟨35, 34, .rwl⟩
/-- `GLB_LOCK` (R561). -/
def Reg.GLB_LOCK : RegId := ⟨0x50, 0⟩
/-- `GLB_LOCK`.UNITS [0:0], SRW (R561). -/
def Reg.GLB_LOCK_UNITS : Fld := ⟨0, 0, .srw⟩
/-- `HOME_PLOG_BASE` (R218). -/
def Reg.HOME_PLOG_BASE : RegId := ⟨0x401810, 0⟩
/-- `HOME_PLOG_BASE`.EN [0:0], RW (R218). -/
def Reg.HOME_PLOG_BASE_EN : Fld := ⟨0, 0, .rw⟩
/-- `HOME_PLOG_BASE`.HOSTMEM [1:1], RW (R218). -/
def Reg.HOME_PLOG_BASE_HOSTMEM : Fld := ⟨1, 1, .rw⟩
/-- `HOME_PLOG_BASE`.HEAD [3:2], RW (R218). -/
def Reg.HOME_PLOG_BASE_HEAD : Fld := ⟨3, 2, .rw⟩
/-- `HOME_PLOG_BASE`.SIZE [6:4], RW (R218). -/
def Reg.HOME_PLOG_BASE_SIZE : Fld := ⟨6, 4, .rw⟩
/-- `HOME_PLOG_BASE`.ADDR [63:12], RW (R218). -/
def Reg.HOME_PLOG_BASE_ADDR : Fld := ⟨63, 12, .rw⟩
/-- `HOME_PLOG_PTRS` (R218). -/
def Reg.HOME_PLOG_PTRS : RegId := ⟨0x401818, 0⟩
/-- `HOME_PLOG_PTRS`.HEAD [15:0], RW (R218). -/
def Reg.HOME_PLOG_PTRS_HEAD : Fld := ⟨15, 0, .rw⟩
/-- `HOME_PLOG_PTRS`.TAIL [47:32], RO (R218). -/
def Reg.HOME_PLOG_PTRS_TAIL : Fld := ⟨47, 32, .ro⟩
/-- `RAS_ADV_BASE` (R524). -/
def Reg.RAS_ADV_BASE : RegId := ⟨0xe00030, 0⟩
/-- `RAS_ADV_BASE`.EN [0:0], RW (R524). -/
def Reg.RAS_ADV_BASE_EN : Fld := ⟨0, 0, .rw⟩
/-- `RAS_ADV_BASE`.HOSTMEM [1:1], RW (R524). -/
def Reg.RAS_ADV_BASE_HOSTMEM : Fld := ⟨1, 1, .rw⟩
/-- `RAS_ADV_BASE`.HEAD [3:2], RW (R524). -/
def Reg.RAS_ADV_BASE_HEAD : Fld := ⟨3, 2, .rw⟩
/-- `RAS_ADV_BASE`.SIZE [6:4], RW (R524). -/
def Reg.RAS_ADV_BASE_SIZE : Fld := ⟨6, 4, .rw⟩
/-- `RAS_ADV_BASE`.ADDR [63:12], RW (R524). -/
def Reg.RAS_ADV_BASE_ADDR : Fld := ⟨63, 12, .rw⟩
/-- `RAS_ADV_PTRS` (R524). -/
def Reg.RAS_ADV_PTRS : RegId := ⟨0xe00038, 0⟩
/-- `RAS_ADV_PTRS`.HEAD [15:0], RW (R524). -/
def Reg.RAS_ADV_PTRS_HEAD : Fld := ⟨15, 0, .rw⟩
/-- `RAS_ADV_PTRS`.TAIL [47:32], RO (R524). -/
def Reg.RAS_ADV_PTRS_TAIL : Fld := ⟨47, 32, .ro⟩
/-- `RAS_ADV_CFG` (R524). -/
def Reg.RAS_ADV_CFG : RegId := ⟨0xe00040, 0⟩
/-- `RAS_ADV_CFG`.VECTOR [10:0], RW (R524). -/
def Reg.RAS_ADV_CFG_VECTOR : Fld := ⟨10, 0, .rw⟩
/-- `RAS_ADV_CFG`.VEC_HEAD [12:11], RW (R524). -/
def Reg.RAS_ADV_CFG_VEC_HEAD : Fld := ⟨12, 11, .rw⟩
/-- `RAS_ADV_CFG`.OVF [16:16], RW1C (R524). -/
def Reg.RAS_ADV_CFG_OVF : Fld := ⟨16, 16, .rw1c⟩
/-- `RAS_ADV_CFG`.LOST [63:32], RO (R524). -/
def Reg.RAS_ADV_CFG_LOST : Fld := ⟨63, 32, .ro⟩
/-- `EVR_DATA_k` (R528). -/
def Reg.EVR_DATA (i : Nat) : RegId := ⟨0xf00040+0x8*i, 0⟩
/-- `EVR_DATA_k`.DATA [63:0], RO (R528). -/
def Reg.EVR_DATA_DATA : Fld := ⟨63, 0, .ro⟩

/-- Rows 1 to 21 of the register map. -/
def regTable1 : List RegRow := [
  ⟨"GLB_PART_MEMBERS", 0x100, [], fun _ _ _ => Reg.GLB_PART_MEMBERS, [Reg.GLB_PART_MEMBERS_MODULES, Reg.GLB_PART_MEMBERS_ACCEL]⟩,
  ⟨"GLB_PART_CTL", 0x108, [], fun _ _ _ => Reg.GLB_PART_CTL, [Reg.GLB_PART_CTL_HEADS, Reg.GLB_PART_CTL_PART_ID, Reg.GLB_PART_CTL_GEN, Reg.GLB_PART_CTL_HALL]⟩,
  ⟨"XLT_ISET_BASE_n", 0x300000, [(0x20, 256)], fun i _ _ => Reg.XLT_ISET_BASE i, [Reg.XLT_ISET_BASE_VALID, Reg.XLT_ISET_BASE_BASE]⟩,
  ⟨"XLT_ISET_SIZE_n", 0x300008, [(0x20, 256)], fun i _ _ => Reg.XLT_ISET_SIZE i, [Reg.XLT_ISET_SIZE_SIZE]⟩,
  ⟨"XLT_ISET_CFG_n", 0x300010, [(0x20, 256)], fun i _ _ => Reg.XLT_ISET_CFG i, [Reg.XLT_ISET_CFG_MEMBERS, Reg.XLT_ISET_CFG_GRAN]⟩,
  ⟨"XLT_ISET_LOCAL_n", 0x300018, [(0x20, 256)], fun i _ _ => Reg.XLT_ISET_LOCAL i, [Reg.XLT_ISET_LOCAL_LOCAL_BASE]⟩,
  ⟨"XLT_CTX_BASE", 0x302000, [], fun _ _ _ => Reg.XLT_CTX_BASE, [Reg.XLT_CTX_BASE_EN, Reg.XLT_CTX_BASE_BASE]⟩,
  ⟨"XLT_FQ_BASE", 0x302008, [], fun _ _ _ => Reg.XLT_FQ_BASE, [Reg.XLT_FQ_BASE_EN, Reg.XLT_FQ_BASE_HOSTMEM, Reg.XLT_FQ_BASE_HEAD, Reg.XLT_FQ_BASE_SIZE, Reg.XLT_FQ_BASE_ADDR]⟩,
  ⟨"XLT_FQ_PTRS", 0x302010, [], fun _ _ _ => Reg.XLT_FQ_PTRS, [Reg.XLT_FQ_PTRS_HEAD, Reg.XLT_FQ_PTRS_TAIL]⟩,
  ⟨"XLT_FQ_CFG", 0x302018, [], fun _ _ _ => Reg.XLT_FQ_CFG, [Reg.XLT_FQ_CFG_VECTOR, Reg.XLT_FQ_CFG_VEC_HEAD, Reg.XLT_FQ_CFG_FULL_WAIT, Reg.XLT_FQ_CFG_BADRESP, Reg.XLT_FQ_CFG_DROPPED, Reg.XLT_FQ_CFG_TMO]⟩,
  ⟨"XLT_FAULT_RESP", 0x302020, [], fun _ _ _ => Reg.XLT_FAULT_RESP, [Reg.XLT_FAULT_RESP_TOKEN, Reg.XLT_FAULT_RESP_ACTION]⟩,
  ⟨"TIER_PHT_CFG", 0x500000, [], fun _ _ _ => Reg.TIER_PHT_CFG, [Reg.TIER_PHT_CFG_WINDOW]⟩,
  ⟨"TIER_FREE_d", 0x500008, [(0x8, 2)], fun i _ _ => Reg.TIER_FREE i, [Reg.TIER_FREE_HBM, Reg.TIER_FREE_LPDDR]⟩,
  ⟨"TIER_DECAY", 0x500018, [], fun _ _ _ => Reg.TIER_DECAY, [Reg.TIER_DECAY_SHIFT]⟩,
  ⟨"TIER_TMO", 0x500020, [], fun _ _ _ => Reg.TIER_TMO, [Reg.TIER_TMO_HBM, Reg.TIER_TMO_LPDDR, Reg.TIER_TMO_HOST]⟩,
  ⟨"TIER_ISET_COMP_n", 0x500800, [(0x8, 256)], fun i _ _ => Reg.TIER_ISET_COMP i, [Reg.TIER_ISET_COMP_COMP]⟩,
  ⟨"TIER_MAP_EPOCH", 0x500028, [], fun _ _ _ => Reg.TIER_MAP_EPOCH, [Reg.TIER_MAP_EPOCH_CUR, Reg.TIER_MAP_EPOCH_NEXT]⟩,
  ⟨"TIER_CMTR_SEL", 0x500030, [], fun _ _ _ => Reg.TIER_CMTR_SEL, [Reg.TIER_CMTR_SEL_COMP]⟩,
  ⟨"TIER_CMTR_PAGES", 0x500038, [], fun _ _ _ => Reg.TIER_CMTR_PAGES, [Reg.TIER_CMTR_PAGES_HBM, Reg.TIER_CMTR_PAGES_LPDDR]⟩,
  ⟨"TIER_CMTR_PTICK", 0x500040, [], fun _ _ _ => Reg.TIER_CMTR_PTICK, [Reg.TIER_CMTR_PTICK_PTICK]⟩,
  ⟨"TIER_CMTR_RD", 0x500048, [], fun _ _ _ => Reg.TIER_CMTR_RD, [Reg.TIER_CMTR_RD_RD]⟩]

/-- Rows 22 to 42 of the register map. -/
def regTable2 : List RegRow := [
  ⟨"TIER_CMTR_WR", 0x500050, [], fun _ _ _ => Reg.TIER_CMTR_WR, [Reg.TIER_CMTR_WR_WR]⟩,
  ⟨"Q_SQ_BASE_q", 0x200000, [(0x40, 4096)], fun i _ _ => Reg.Q_SQ_BASE i, [Reg.Q_SQ_BASE_HOSTMEM, Reg.Q_SQ_BASE_HEAD, Reg.Q_SQ_BASE_SIZE, Reg.Q_SQ_BASE_ADDR]⟩,
  ⟨"Q_CQ_BASE_q", 0x200008, [(0x40, 4096)], fun i _ _ => Reg.Q_CQ_BASE i, [Reg.Q_CQ_BASE_HOSTMEM, Reg.Q_CQ_BASE_HEAD, Reg.Q_CQ_BASE_SIZE, Reg.Q_CQ_BASE_ADDR]⟩,
  ⟨"Q_CFG_q", 0x200010, [(0x40, 4096)], fun i _ _ => Reg.Q_CFG i, [Reg.Q_CFG_EN, Reg.Q_CFG_MAINT, Reg.Q_CFG_STOP_ON_ERR, Reg.Q_CFG_WORLD, Reg.Q_CFG_DB_HEADS, Reg.Q_CFG_FAB_DB, Reg.Q_CFG_DB_POS, Reg.Q_CFG_CTX, Reg.Q_CFG_WEIGHT]⟩,
  ⟨"Q_STATE_q", 0x200018, [(0x40, 4096)], fun i _ _ => Reg.Q_STATE i, [Reg.Q_STATE_SQ_HEAD, Reg.Q_STATE_CQ_TAIL, Reg.Q_STATE_STATE, Reg.Q_STATE_STOP_CAUSE, Reg.Q_STATE_STOP_STATUS, Reg.Q_STATE_DB_DROP, Reg.Q_STATE_DB_RANGE, Reg.Q_STATE_CQ_STALL]⟩,
  ⟨"Q_CTL_q", 0x200020, [(0x40, 4096)], fun i _ _ => Reg.Q_CTL i, [Reg.Q_CTL_ABORT, Reg.Q_CTL_RESUME]⟩,
  ⟨"Q_IRQ_q", 0x200028, [(0x40, 4096)], fun i _ _ => Reg.Q_IRQ i, [Reg.Q_IRQ_VECTOR, Reg.Q_IRQ_VEC_HEAD, Reg.Q_IRQ_EN, Reg.Q_IRQ_ON_ERR, Reg.Q_IRQ_ON_STOP, Reg.Q_IRQ_COUNT, Reg.Q_IRQ_TIME]⟩,
  ⟨"GLB_TICK", 0x110, [], fun _ _ _ => Reg.GLB_TICK, [Reg.GLB_TICK_MODULE_TICK]⟩,
  ⟨"GLB_ACQ_POLL", 0x118, [], fun _ _ _ => Reg.GLB_ACQ_POLL, [Reg.GLB_ACQ_POLL_INTERVAL]⟩,
  ⟨"HOME_HOST_n", 0x400000, [(0x8, 64)], fun i _ _ => Reg.HOME_HOST i, [Reg.HOME_HOST_VALID, Reg.HOME_HOST_HEAD, Reg.HOME_HOST_BI_ID, Reg.HOME_HOST_DOWN, Reg.HOME_HOST_DOWN_CAUSE]⟩,
  ⟨"HOME_CDOM_HOSTS_d", 0x400800, [(0x8, 256)], fun i _ _ => Reg.HOME_CDOM_HOSTS i, [Reg.HOME_CDOM_HOSTS_HOSTS]⟩,
  ⟨"HOME_CDOM_STATE_d", 0x401000, [(0x8, 256)], fun i _ _ => Reg.HOME_CDOM_STATE i, [Reg.HOME_CDOM_STATE_STATE, Reg.HOME_CDOM_STATE_RESTART, Reg.HOME_CDOM_STATE_POISONED]⟩,
  ⟨"HOME_BI_CFG", 0x401800, [], fun _ _ _ => Reg.HOME_BI_CFG, [Reg.HOME_BI_CFG_TMO, Reg.HOME_BI_CFG_MAX]⟩,
  ⟨"HOME_DIR_CNT", 0x401808, [], fun _ _ _ => Reg.HOME_DIR_CNT, [Reg.HOME_DIR_CNT_EVICT, Reg.HOME_DIR_CNT_SNOOPS]⟩,
  ⟨"HOME_PLOG_CFG", 0x401820, [], fun _ _ _ => Reg.HOME_PLOG_CFG, [Reg.HOME_PLOG_CFG_VECTOR, Reg.HOME_PLOG_CFG_VEC_HEAD, Reg.HOME_PLOG_CFG_OVF, Reg.HOME_PLOG_CFG_LOST]⟩,
  ⟨"CADDY_OWN_b", 0x600000, [(0x8, 2048)], fun i _ _ => Reg.CADDY_OWN i, [Reg.CADDY_OWN_KIND, Reg.CADDY_OWN_IDX, Reg.CADDY_OWN_STATE, Reg.CADDY_OWN_WORLD, Reg.CADDY_OWN_NEXT_KIND, Reg.CADDY_OWN_NEXT_IDX, Reg.CADDY_OWN_SCRUB, Reg.CADDY_OWN_GO, Reg.CADDY_OWN_REFUSED, Reg.CADDY_OWN_CE, Reg.CADDY_OWN_POISONED]⟩,
  ⟨"CADDY_REPAIR_CFG", 0x604000, [], fun _ _ _ => Reg.CADDY_REPAIR_CFG, [Reg.CADDY_REPAIR_CFG_THRESH, Reg.CADDY_REPAIR_CFG_AUTO]⟩,
  ⟨"CADDY_STATUS", 0x604008, [], fun _ _ _ => Reg.CADDY_STATUS, [Reg.CADDY_STATUS_READY, Reg.CADDY_STATUS_RETIRED0, Reg.CADDY_STATUS_RETIRED1, Reg.CADDY_STATUS_FUSES0, Reg.CADDY_STATUS_FUSES1]⟩,
  ⟨"NEWT_CFG_n", 0x700000, [(0x20, 32)], fun i _ _ => Reg.NEWT_CFG i, [Reg.NEWT_CFG_STEEP, Reg.NEWT_CFG_MAX_RD, Reg.NEWT_CFG_RESERVE, Reg.NEWT_CFG_SC_EN]⟩,
  ⟨"NEWT_STAT_n", 0x700008, [(0x20, 32)], fun i _ _ => Reg.NEWT_STAT i, [Reg.NEWT_STAT_OUT_RD, Reg.NEWT_STAT_STALLED, Reg.NEWT_STAT_PROG, Reg.NEWT_STAT_AHEAD]⟩,
  ⟨"NEWT_CNT_n", 0x700010, [(0x20, 32)], fun i _ _ => Reg.NEWT_CNT i, [Reg.NEWT_CNT_HITS, Reg.NEWT_CNT_MISSES]⟩]

/-- Rows 43 to 63 of the register map. -/
def regTable3 : List RegRow := [
  ⟨"KTL_FLAGS_n", 0x800000, [(0x40, 32)], fun i _ _ => Reg.KTL_FLAGS i, [Reg.KTL_FLAGS_NAN_IN, Reg.KTL_FLAGS_INF_IN, Reg.KTL_FLAGS_OVF, Reg.KTL_FLAGS_SAT, Reg.KTL_FLAGS_CONV_INVALID, Reg.KTL_FLAGS_ISAT, Reg.KTL_FLAGS_NAN_BLOCK]⟩,
  ⟨"KTL_ACT_n", 0x800008, [(0x40, 32)], fun i _ _ => Reg.KTL_ACT i, [Reg.KTL_ACT_ACTIVE]⟩,
  ⟨"KTL_WAIT_n", 0x800010, [(0x40, 32)], fun i _ _ => Reg.KTL_WAIT i, [Reg.KTL_WAIT_WAIT]⟩,
  ⟨"KTL_ERR_n", 0x800018, [(0x40, 32)], fun i _ _ => Reg.KTL_ERR i, [Reg.KTL_ERR_PC, Reg.KTL_ERR_STATUS, Reg.KTL_ERR_CAUSE, Reg.KTL_ERR_TAG]⟩,
  ⟨"KTL_STAT_n", 0x800020, [(0x40, 32)], fun i _ _ => Reg.KTL_STAT i, [Reg.KTL_STAT_PROG_ID, Reg.KTL_STAT_BUSY, Reg.KTL_STAT_RWAIT, Reg.KTL_STAT_FSTALL, Reg.KTL_STAT_PC]⟩,
  ⟨"GKO_STAB", 0x900000, [], fun _ _ _ => Reg.GKO_STAB, [Reg.GKO_STAB_EN, Reg.GKO_STAB_BASE]⟩,
  ⟨"GKO_CFG_n", 0x900100, [(0x20, 2)], fun i _ _ => Reg.GKO_CFG i, [Reg.GKO_CFG_SLOTS, Reg.GKO_CFG_WORK, Reg.GKO_CFG_MAX_RD]⟩,
  ⟨"GKO_STAT_n", 0x900108, [(0x20, 2)], fun i _ _ => Reg.GKO_STAT i, [Reg.GKO_STAT_ACTIVE, Reg.GKO_STAT_OUT_RD, Reg.GKO_STAT_WAITING]⟩,
  ⟨"GKO_CNT_n", 0x900110, [(0x20, 2)], fun i _ _ => Reg.GKO_CNT i, [Reg.GKO_CNT_EVALS]⟩,
  ⟨"EMB_CFG_n", 0xa00100, [(0x20, 2)], fun i _ _ => Reg.EMB_CFG i, [Reg.EMB_CFG_WORK, Reg.EMB_CFG_MAX_RD]⟩,
  ⟨"EMB_CNT_n", 0xa00108, [(0x20, 2)], fun i _ _ => Reg.EMB_CNT i, [Reg.EMB_CNT_READS, Reg.EMB_CNT_JOINS]⟩,
  ⟨"EMB_TDIR", 0xa00000, [], fun _ _ _ => Reg.EMB_TDIR, [Reg.EMB_TDIR_EN, Reg.EMB_TDIR_BASE]⟩,
  ⟨"EMB_DRAIN_SEL", 0xa00008, [], fun _ _ _ => Reg.EMB_DRAIN_SEL, [Reg.EMB_DRAIN_SEL_TABLE]⟩,
  ⟨"EMB_DRAIN", 0xa00010, [], fun _ _ _ => Reg.EMB_DRAIN, [Reg.EMB_DRAIN_VER0, Reg.EMB_DRAIN_VER1]⟩,
  ⟨"ZL_IDENT", 0xb00000, [], fun _ _ _ => Reg.ZL_IDENT, [Reg.ZL_IDENT_RACK, Reg.ZL_IDENT_MODULE, Reg.ZL_IDENT_SET]⟩,
  ⟨"ZL_HALL_EXP_u", 0xb00080, [(0x8, 4)], fun i _ _ => Reg.ZL_HALL_EXP i, [Reg.ZL_HALL_EXP_FAR_ID, Reg.ZL_HALL_EXP_CHECK]⟩,
  ⟨"ZL_LM_CFG", 0xb00008, [], fun _ _ _ => Reg.ZL_LM_CFG, [Reg.ZL_LM_CFG_CE_TH, Reg.ZL_LM_CFG_LM_TIME, Reg.ZL_LM_CFG_WATCH_MAX, Reg.ZL_LM_CFG_TDELTA, Reg.ZL_LM_CFG_RETRAIN_MAX, Reg.ZL_LM_CFG_RETRAIN_WIN]⟩,
  ⟨"ZL_PORT_CTL_n", 0xb01000, [(0x20, 50)], fun i _ _ => Reg.ZL_PORT_CTL i, [Reg.ZL_PORT_CTL_EN, Reg.ZL_PORT_CTL_FENCE, Reg.ZL_PORT_CTL_RETRAIN]⟩,
  ⟨"ZL_PORT_STAT_n", 0xb01008, [(0x20, 50)], fun i _ _ => Reg.ZL_PORT_STAT i, [Reg.ZL_PORT_STAT_STATE, Reg.ZL_PORT_STAT_CAUSE, Reg.ZL_PORT_STAT_FAR_RACK, Reg.ZL_PORT_STAT_FAR_IDX, Reg.ZL_PORT_STAT_FAR_PORT, Reg.ZL_PORT_STAT_FAR_KIND, Reg.ZL_PORT_STAT_MARGIN, Reg.ZL_PORT_STAT_TTRAIN]⟩,
  ⟨"ZL_PORT_ERR_n", 0xb01010, [(0x20, 50)], fun i _ _ => Reg.ZL_PORT_ERR i, [Reg.ZL_PORT_ERR_HIGH_CW, Reg.ZL_PORT_ERR_UNCORR, Reg.ZL_PORT_ERR_RETRAINS]⟩,
  ⟨"ZL_HIPRI_k", 0xb00040, [(0x8, 4)], fun i _ _ => Reg.ZL_HIPRI i, [Reg.ZL_HIPRI_COMP]⟩]

/-- Rows 64 to 84 of the register map. -/
def regTable4 : List RegRow := [
  ⟨"ZL_ACC_CTX_j", 0xb00100, [(0x8, 14)], fun i _ _ => Reg.ZL_ACC_CTX i, [Reg.ZL_ACC_CTX_LO, Reg.ZL_ACC_CTX_HI]⟩,
  ⟨"ZL_ROUTE_CFG", 0xb00010, [], fun _ _ _ => Reg.ZL_ROUTE_CFG, [Reg.ZL_ROUTE_CFG_DETOUR_TH, Reg.ZL_ROUTE_CFG_TRANSIT_PCT, Reg.ZL_ROUTE_CFG_DETOUR_EN]⟩,
  ⟨"ZL_E2E_CFG", 0xb00018, [], fun _ _ _ => Reg.ZL_E2E_CFG, [Reg.ZL_E2E_CFG_RESEND, Reg.ZL_E2E_CFG_GIVEUP]⟩,
  ⟨"ZL_HALL_ROUTE_r", 0xb00200, [(0x8, 64)], fun i _ _ => Reg.ZL_HALL_ROUTE i, [Reg.ZL_HALL_ROUTE_VALID, Reg.ZL_HALL_ROUTE_GW, Reg.ZL_HALL_ROUTE_UPLINKS, Reg.ZL_HALL_ROUTE_EPOCH]⟩,
  ⟨"ZL_LSR_c", 0xb000c0, [(0x8, 8)], fun i _ _ => Reg.ZL_LSR i, [Reg.ZL_LSR_STATE, Reg.ZL_LSR_SERVICE, Reg.ZL_LSR_BIAS, Reg.ZL_LSR_POWER, Reg.ZL_LSR_TEMP]⟩,
  ⟨"QOS_CTX_MAP", 0xc00000, [], fun _ _ _ => Reg.QOS_CTX_MAP, [Reg.QOS_CTX_MAP_CTX, Reg.QOS_CTX_MAP_METER, Reg.QOS_CTX_MAP_MAPPED, Reg.QOS_CTX_MAP_GO, Reg.QOS_CTX_MAP_READ]⟩,
  ⟨"QOS_MTR_CFG_m", 0xc20000, [(0x20, 4096)], fun i _ _ => Reg.QOS_MTR_CFG i, [Reg.QOS_MTR_CFG_EN, Reg.QOS_MTR_CFG_MODE, Reg.QOS_MTR_CFG_ACT_Y, Reg.QOS_MTR_CFG_ACT_R, Reg.QOS_MTR_CFG_FILL, Reg.QOS_MTR_CFG_APPLY, Reg.QOS_MTR_CFG_DQ_MAX]⟩,
  ⟨"QOS_MTR_RATE_m", 0xc20008, [(0x20, 4096)], fun i _ _ => Reg.QOS_MTR_RATE i, [Reg.QOS_MTR_RATE_CIR, Reg.QOS_MTR_RATE_XIR]⟩,
  ⟨"QOS_MTR_BURST_m", 0xc20010, [(0x20, 4096)], fun i _ _ => Reg.QOS_MTR_BURST i, [Reg.QOS_MTR_BURST_CBS, Reg.QOS_MTR_BURST_XBS]⟩,
  ⟨"QOS_MTR_SEL", 0xc00008, [], fun _ _ _ => Reg.QOS_MTR_SEL, [Reg.QOS_MTR_SEL_METER]⟩,
  ⟨"QOS_MTR_GREEN", 0xc00010, [], fun _ _ _ => Reg.QOS_MTR_GREEN, [Reg.QOS_MTR_GREEN_BYTES]⟩,
  ⟨"QOS_MTR_YELLOW", 0xc00018, [], fun _ _ _ => Reg.QOS_MTR_YELLOW, [Reg.QOS_MTR_YELLOW_BYTES]⟩,
  ⟨"QOS_MTR_RED", 0xc00020, [], fun _ _ _ => Reg.QOS_MTR_RED, [Reg.QOS_MTR_RED_BYTES]⟩,
  ⟨"QOS_MTR_STAT", 0xc00028, [], fun _ _ _ => Reg.QOS_MTR_STAT, [Reg.QOS_MTR_STAT_REFUSED, Reg.QOS_MTR_STAT_DQ]⟩,
  ⟨"QOS_SHP_n_v", 0xc40000, [(0x40, 50), (0x8, 8)], fun i j _ => Reg.QOS_SHP i j, [Reg.QOS_SHP_EN, Reg.QOS_SHP_IDLE, Reg.QOS_SHP_FILL, Reg.QOS_SHP_HI, Reg.QOS_SHP_LO]⟩,
  ⟨"QOS_GATE_CTL_n", 0xc50000, [(0x8, 50)], fun i _ _ => Reg.QOS_GATE_CTL i, [Reg.QOS_GATE_CTL_EN, Reg.QOS_GATE_CTL_ACTIVE, Reg.QOS_GATE_CTL_SWITCH, Reg.QOS_GATE_CTL_LEN0, Reg.QOS_GATE_CTL_LEN1, Reg.QOS_GATE_CTL_OVERRUN]⟩,
  ⟨"QOS_GCL_n_l_e", 0xc60000, [(0x400, 50), (0x200, 2), (0x8, 64)], fun i j k => Reg.QOS_GCL i j k, [Reg.QOS_GCL_OPEN, Reg.QOS_GCL_DUR]⟩,
  ⟨"HEAD_HDM_CTX_h_k", 0x100040, [(0x100, 4), (0x8, 8)], fun i j _ => Reg.HEAD_HDM_CTX i j, [Reg.HEAD_HDM_CTX_CTX]⟩,
  ⟨"HEAD_CFG_h", 0x100000, [(0x100, 4)], fun i _ _ => Reg.HEAD_CFG i, [Reg.HEAD_CFG_IDE_REQ, Reg.HEAD_CFG_VDM_MCTP]⟩,
  ⟨"HEAD_STAT_h", 0x100008, [(0x100, 4)], fun i _ _ => Reg.HEAD_STAT i, [Reg.HEAD_STAT_SPEED, Reg.HEAD_STAT_WIDTH, Reg.HEAD_STAT_FLIT, Reg.HEAD_STAT_CXLMEM, Reg.HEAD_STAT_IDE_IO, Reg.HEAD_STAT_IDE_MEM, Reg.HEAD_STAT_IN_RESET]⟩,
  ⟨"HEAD_CNT_h", 0x100010, [(0x100, 4)], fun i _ _ => Reg.HEAD_CNT i, [Reg.HEAD_CNT_REFUSED, Reg.HEAD_CNT_IDE_FAIL]⟩]

/-- Rows 85 to 105 of the register map. -/
def regTable5 : List RegRow := [
  ⟨"SEC_CTX_SECURE", 0xd00000, [], fun _ _ _ => Reg.SEC_CTX_SECURE, [Reg.SEC_CTX_SECURE_LO, Reg.SEC_CTX_SECURE_HI]⟩,
  ⟨"SEC_WORLD_ENG", 0xd00008, [], fun _ _ _ => Reg.SEC_WORLD_ENG, [Reg.SEC_WORLD_ENG_NEWT, Reg.SEC_WORLD_ENG_KTL]⟩,
  ⟨"SEC_WORLD_MISC", 0xd00010, [], fun _ _ _ => Reg.SEC_WORLD_MISC, [Reg.SEC_WORLD_MISC_GKO, Reg.SEC_WORLD_MISC_EMB, Reg.SEC_WORLD_MISC_HEAD]⟩,
  ⟨"SEC_CFG", 0xd00018, [], fun _ _ _ => Reg.SEC_CFG, [Reg.SEC_CFG_FORCE_SCRUB, Reg.SEC_CFG_WLOCK]⟩,
  ⟨"SEC_RGN_SEL", 0xd00020, [], fun _ _ _ => Reg.SEC_RGN_SEL, [Reg.SEC_RGN_SEL_REGION, Reg.SEC_RGN_SEL_COMMIT, Reg.SEC_RGN_SEL_BUSY, Reg.SEC_RGN_SEL_REFUSED]⟩,
  ⟨"SEC_RGN_CFG", 0xd00028, [], fun _ _ _ => Reg.SEC_RGN_CFG, [Reg.SEC_RGN_CFG_VALID, Reg.SEC_RGN_CFG_WORLD, Reg.SEC_RGN_CFG_ATOMIC_MODE, Reg.SEC_RGN_CFG_ENC, Reg.SEC_RGN_CFG_KEY, Reg.SEC_RGN_CFG_COH_DOMAIN]⟩,
  ⟨"SEC_RGN_RANGE", 0xd00030, [], fun _ _ _ => Reg.SEC_RGN_RANGE, [Reg.SEC_RGN_RANGE_BASE, Reg.SEC_RGN_RANGE_SIZE]⟩,
  ⟨"SEC_GRANT", 0xd00038, [], fun _ _ _ => Reg.SEC_GRANT, [Reg.SEC_GRANT_REGION, Reg.SEC_GRANT_CODE, Reg.SEC_GRANT_GO, Reg.SEC_GRANT_BUSY, Reg.SEC_GRANT_CTX_LO, Reg.SEC_GRANT_CTX_HI, Reg.SEC_GRANT_REFUSED]⟩,
  ⟨"SEC_KEY_CTL", 0xd00040, [], fun _ _ _ => Reg.SEC_KEY_CTL, [Reg.SEC_KEY_CTL_SLOT, Reg.SEC_KEY_CTL_OP, Reg.SEC_KEY_CTL_GO, Reg.SEC_KEY_CTL_BUSY, Reg.SEC_KEY_CTL_LOADED, Reg.SEC_KEY_CTL_SWORLD, Reg.SEC_KEY_CTL_REFUSED, Reg.SEC_KEY_CTL_USERS]⟩,
  ⟨"SEC_FW_STAT", 0xd00048, [], fun _ _ _ => Reg.SEC_FW_STAT, [Reg.SEC_FW_STAT_RECOVERY, Reg.SEC_FW_STAT_CAUSE, Reg.SEC_FW_STAT_SVN, Reg.SEC_FW_STAT_SVN_MIN, Reg.SEC_FW_STAT_REVOKED, Reg.SEC_FW_STAT_STAGED]⟩,
  ⟨"SEC_FW_CTL", 0xd00050, [], fun _ _ _ => Reg.SEC_FW_CTL, [Reg.SEC_FW_CTL_COMMIT_SVN]⟩,
  ⟨"RAS_CFG", 0xe00000, [], fun _ _ _ => Reg.RAS_CFG, [Reg.RAS_CFG_ENG_WDT, Reg.RAS_CFG_STW_WDT, Reg.RAS_CFG_DM_EID]⟩,
  ⟨"RAS_CONTAIN", 0xe00008, [], fun _ _ _ => Reg.RAS_CONTAIN, [Reg.RAS_CONTAIN_SCOPE, Reg.RAS_CONTAIN_ACTION, Reg.RAS_CONTAIN_OBJECT, Reg.RAS_CONTAIN_GO, Reg.RAS_CONTAIN_REFUSED]⟩,
  ⟨"RAS_JRNL", 0xe00010, [], fun _ _ _ => Reg.RAS_JRNL, [Reg.RAS_JRNL_USED, Reg.RAS_JRNL_PEAK, Reg.RAS_JRNL_LOST]⟩,
  ⟨"RAS_HCFG_k", 0xe00100, [(0x8, 12)], fun i _ _ => Reg.RAS_HCFG i, [Reg.RAS_HCFG_H, Reg.RAS_HCFG_ADVISE, Reg.RAS_HCFG_RETIRE, Reg.RAS_HCFG_AUTO]⟩,
  ⟨"RAS_HEALTH_SEL", 0xe00018, [], fun _ _ _ => Reg.RAS_HEALTH_SEL, [Reg.RAS_HEALTH_SEL_PART]⟩,
  ⟨"RAS_HEALTH", 0xe00020, [], fun _ _ _ => Reg.RAS_HEALTH, [Reg.RAS_HEALTH_SCORE, Reg.RAS_HEALTH_STATE, Reg.RAS_HEALTH_EVENTS]⟩,
  ⟨"RAS_WORST", 0xe00028, [], fun _ _ _ => Reg.RAS_WORST, [Reg.RAS_WORST_PART, Reg.RAS_WORST_RATIO]⟩,
  ⟨"EVR_STAT", 0xf00000, [], fun _ _ _ => Reg.EVR_STAT, [Reg.EVR_STAT_NEXT, Reg.EVR_STAT_RESERVE, Reg.EVR_STAT_FULL, Reg.EVR_STAT_DROPPED]⟩,
  ⟨"EVR_COUNT", 0xf00008, [], fun _ _ _ => Reg.EVR_COUNT, [Reg.EVR_COUNT_OP_SEC, Reg.EVR_COUNT_PCYCLE]⟩,
  ⟨"EVR_RD", 0xf00010, [], fun _ _ _ => Reg.EVR_RD, [Reg.EVR_RD_INDEX, Reg.EVR_RD_BAD]⟩]

/-- Rows 106 to 126 of the register map. -/
def regTable6 : List RegRow := [
  ⟨"PWR_STAT", 0x1000000, [], fun _ _ _ => Reg.PWR_STAT, [Reg.PWR_STAT_STATE, Reg.PWR_STAT_WAKE, Reg.PWR_STAT_HP_REQ, Reg.PWR_STAT_HP_SEEN, Reg.PWR_STAT_FENCE, Reg.PWR_STAT_PERST, Reg.PWR_STAT_REF_HOLD, Reg.PWR_STAT_THR_T, Reg.PWR_STAT_THR_P, Reg.PWR_STAT_KTL_LVL, Reg.PWR_STAT_TDIE, Reg.PWR_STAT_THBM, Reg.PWR_STAT_TIN, Reg.PWR_STAT_PIN]⟩,
  ⟨"PWR_CTL", 0x1000008, [], fun _ _ _ => Reg.PWR_CTL, [Reg.PWR_CTL_KEY, Reg.PWR_CTL_RESET, Reg.PWR_CTL_OFFLINE]⟩,
  ⟨"PWR_LIMIT", 0x1000010, [], fun _ _ _ => Reg.PWR_LIMIT, [Reg.PWR_LIMIT_LIMIT, Reg.PWR_LIMIT_TTHR, Reg.PWR_LIMIT_HTHR]⟩,
  ⟨"PWR_CNT", 0x1000018, [], fun _ _ _ => Reg.PWR_CNT, [Reg.PWR_CNT_THR_MS, Reg.PWR_CNT_GLITCH, Reg.PWR_CNT_DROOP]⟩,
  ⟨"GLB_ID", 0x0, [], fun _ _ _ => Reg.GLB_ID, [Reg.GLB_ID_DEVICE, Reg.GLB_ID_VARIANT, Reg.GLB_ID_STEPPING, Reg.GLB_ID_CAP_VER]⟩,
  ⟨"GLB_CAP_CORE", 0x8, [], fun _ _ _ => Reg.GLB_CAP_CORE, [Reg.GLB_CAP_CORE_KTL, Reg.GLB_CAP_CORE_NEWT]⟩,
  ⟨"GLB_CAP_ENG", 0x10, [], fun _ _ _ => Reg.GLB_CAP_ENG, [Reg.GLB_CAP_ENG_GKO, Reg.GLB_CAP_ENG_EMB, Reg.GLB_CAP_ENG_MOVER, Reg.GLB_CAP_ENG_FLT_NEWT, Reg.GLB_CAP_ENG_FLT_KTL, Reg.GLB_CAP_ENG_FLT_GKO, Reg.GLB_CAP_ENG_FLT_EMB]⟩,
  ⟨"GLB_CAP_MEM", 0x18, [], fun _ _ _ => Reg.GLB_CAP_MEM, [Reg.GLB_CAP_MEM_HBM, Reg.GLB_CAP_MEM_LPDDR]⟩,
  ⟨"GLB_CAP_SIZE", 0x20, [], fun _ _ _ => Reg.GLB_CAP_SIZE, [Reg.GLB_CAP_SIZE_HBM_MIB, Reg.GLB_CAP_SIZE_LPDDR_MIB]⟩,
  ⟨"GLB_CAP_SRAM", 0x28, [], fun _ _ _ => Reg.GLB_CAP_SRAM, [Reg.GLB_CAP_SRAM_GEN0, Reg.GLB_CAP_SRAM_GEN1]⟩,
  ⟨"GLB_CAP_LIMITS", 0x30, [], fun _ _ _ => Reg.GLB_CAP_LIMITS, [Reg.GLB_CAP_LIMITS_QUEUES, Reg.GLB_CAP_LIMITS_REGIONS, Reg.GLB_CAP_LIMITS_KEYS, Reg.GLB_CAP_LIMITS_METERS]⟩,
  ⟨"GLB_CAP_TABLES", 0x38, [], fun _ _ _ => Reg.GLB_CAP_TABLES, [Reg.GLB_CAP_TABLES_ISETS, Reg.GLB_CAP_TABLES_COMPS, Reg.GLB_CAP_TABLES_CDOMS, Reg.GLB_CAP_TABLES_JOURNAL]⟩,
  ⟨"GLB_CAP_GEN", 0x40, [], fun _ _ _ => Reg.GLB_CAP_GEN, [Reg.GLB_CAP_GEN_GEN]⟩,
  ⟨"GLB_UNIT_DIS", 0x48, [], fun _ _ _ => Reg.GLB_UNIT_DIS, [Reg.GLB_UNIT_DIS_KTL, Reg.GLB_UNIT_DIS_GKO, Reg.GLB_UNIT_DIS_EMB]⟩,
  ⟨"GLB_LOCK", 0x50, [], fun _ _ _ => Reg.GLB_LOCK, [Reg.GLB_LOCK_UNITS]⟩,
  ⟨"HOME_PLOG_BASE", 0x401810, [], fun _ _ _ => Reg.HOME_PLOG_BASE, [Reg.HOME_PLOG_BASE_EN, Reg.HOME_PLOG_BASE_HOSTMEM, Reg.HOME_PLOG_BASE_HEAD, Reg.HOME_PLOG_BASE_SIZE, Reg.HOME_PLOG_BASE_ADDR]⟩,
  ⟨"HOME_PLOG_PTRS", 0x401818, [], fun _ _ _ => Reg.HOME_PLOG_PTRS, [Reg.HOME_PLOG_PTRS_HEAD, Reg.HOME_PLOG_PTRS_TAIL]⟩,
  ⟨"RAS_ADV_BASE", 0xe00030, [], fun _ _ _ => Reg.RAS_ADV_BASE, [Reg.RAS_ADV_BASE_EN, Reg.RAS_ADV_BASE_HOSTMEM, Reg.RAS_ADV_BASE_HEAD, Reg.RAS_ADV_BASE_SIZE, Reg.RAS_ADV_BASE_ADDR]⟩,
  ⟨"RAS_ADV_PTRS", 0xe00038, [], fun _ _ _ => Reg.RAS_ADV_PTRS, [Reg.RAS_ADV_PTRS_HEAD, Reg.RAS_ADV_PTRS_TAIL]⟩,
  ⟨"RAS_ADV_CFG", 0xe00040, [], fun _ _ _ => Reg.RAS_ADV_CFG, [Reg.RAS_ADV_CFG_VECTOR, Reg.RAS_ADV_CFG_VEC_HEAD, Reg.RAS_ADV_CFG_OVF, Reg.RAS_ADV_CFG_LOST]⟩,
  ⟨"EVR_DATA_k", 0xf00040, [(0x8, 8)], fun i _ _ => Reg.EVR_DATA i, [Reg.EVR_DATA_DATA]⟩]

/-- The register map: every register of BAR0 with its placement and fields (R556, R558). -/
def regTable : List RegRow := regTable1 ++ regTable2 ++ regTable3 ++ regTable4 ++ regTable5 ++ regTable6


end Sys2Proof.Machine
end

