-- ==== Sys2Proof/Machine/SMap.lean ====
section
/-! DEFINITION. Operations on sparse maps: keys strictly rising, no entry equal to the default. -/

namespace Sys2Proof

/-- The entry listed at a key. -/
def SMap.find {α : Type} (m : SMap α) (k : Nat) : Option α :=
  match m with
  | [] => none
  | (j, v) :: t => if j = k then some v else SMap.find t k

/-- What a key reads as: its entry, or the default. -/
def SMap.get {α : Type} (m : SMap α) (k : Nat) (d : α) : α := (SMap.find m k).getD d

/-- The map with a key listed at a value, in key order. -/
def SMap.put {α : Type} (m : SMap α) (k : Nat) (v : α) : SMap α :=
  match m with
  | [] => [(k, v)]
  | (j, w) :: t => if k < j then (k, v) :: (j, w) :: t
                   else if k = j then (k, v) :: t
                   else (j, w) :: SMap.put t k v

/-- The map with a key unlisted. -/
def SMap.del {α : Type} (m : SMap α) (k : Nat) : SMap α := m.filter fun e => decide (e.1 ≠ k)

/-- A write that keeps the canonical form: writing the default unlists the key. -/
def SMap.set {α : Type} [DecidableEq α] (m : SMap α) (k : Nat) (v d : α) : SMap α :=
  if v = d then SMap.del m k else SMap.put m k v

/-- The map with only the keys that a test keeps. -/
def SMap.keep {α : Type} (m : SMap α) (p : Nat → α → Bool) : SMap α := m.filter fun e => p e.1 e.2

/-- The map with each value replaced. -/
def SMap.mapv {α : Type} (m : SMap α) (f : Nat → α → α) : SMap α := m.map fun e => (e.1, f e.1 e.2)

/-- Keys strictly rising. -/
def SMap.rising {α : Type} : SMap α → Bool
  | [] => true
  | [_] => true
  | (j, _) :: (k, w) :: t => decide (j < k) && SMap.rising ((k, w) :: t)

/-- The canonical form: keys strictly rising and no entry equal to the default. -/
def SMap.wf {α : Type} [DecidableEq α] (m : SMap α) (d : α) : Bool :=
  SMap.rising m && m.all fun e => decide (e.2 ≠ d)

end Sys2Proof
end

