-- ==== Sys2Proof/Machine/State.lean ====
section
/-! DEFINITION. The state of the module as plain data, and the state right after reset. Registers are kept by offset
with their reset values in Machine/Regs.lean; the structures below hold everything the spec gives the module
outside BAR0. -/

namespace Sys2Proof.Machine

/-! ## Stops -/

/-- The faults of the machine: none, since the spec gives every command of the block an effect. -/
inductive Fault
  deriving DecidableEq, Repr

/-- The refusals of the machine. -/
inductive Refusal where
  /-- The command has no meaning yet: raised by its arm of `exec`; safe. -/
  | notModelled (mnemonic : String)
  deriving DecidableEq, Repr

/-! ## Fixed parts and fuses -/

/-- The variants (R1). -/
inductive Variant where
  | gxm4160 | gxm4120 | gxm4080
  deriving DecidableEq, Repr

/-- What manufacture fixes: variant, silicon stepping and revoked signing keys (R1, R559, R495). Log 8. -/
structure Fixed where
  variant : Variant
  stepping : Nat
  revoked : Nat
  deriving DecidableEq, Repr

/-! ## Answers and accesses -/

/-- What an access answers: a status, the bytes read, a number (an old value, a count), and whether it is one that was
never issued (R143). -/
structure Ans where
  st : Status := .ok
  data : List Byte := []
  val : Nat := 0
  unsent : Bool := false
  deriving DecidableEq, Repr

/-- What a translation names (R54, R160): a store address, or a host head and host physical address. -/
inductive Target where
  | store (addr : Nat)
  | host (head : Nat) (hpa : Nat)
  deriving DecidableEq, Repr

/-- An access to one line at its slice arbiter. `clear` marks the line as poison (R85, R506). -/
inductive LineOp where
  | read
  | write (mask : Nat) (data : List Byte)
  | atomic (subop width off : Nat) (op1 op2 : Nat)
  | poison
  deriving DecidableEq, Repr

/-- What a host asks of a line (R203): reads S, A, I; invalidations A, or S and I; writes, with the MetaValue that counts when
the owner sends one. -/
inductive HostOp where
  | rdS | rdA | rdI | invA | invN
  | wr (mask : Nat) (data : List Byte) (poison : Bool) (mv : MetaValue)
  deriving DecidableEq, Repr

/-- Who waits for a line: a task, a host, a recall of a host's copy, an eviction (R200, R203), the write of a ring's
record (R63, R139; rings are numbered 0 fault, 1 poison, 2 advisory, 3 + q completion), a slot fetch (R124), the
combined atomics that are due at the line (R189), or the zero-fill of an extent (R106). -/
inductive Who where
  | task (id : Nat) (op : LineOp)
  | host (host head : Nat) (op : HostOp)
  | recall (host : Nat)
  | evict
  | post (ring : Nat) (op : LineOp)
  | fetch (q : Nat)
  | comb
  | scrub
  deriving DecidableEq, Repr

/-- A request at a slice arbiter: a module-local line number and who asks; the context under which the home checked it and
checks it again at its acceptance (R47), if it did; the bytes that its acceptance adds to its composition's meters (R113)
and whether it adds to its page's COUNT (R93). -/
structure LineReq where
  line : Nat
  who : Who
  ctx : Option Nat := none
  bytes : Nat := 0
  counts : Bool := false
  deriving DecidableEq, Repr

/-- Directory states (06, "Directory states"); a line with no entry is in state I. -/
inductive DirState where
  | s | m | sInv | mData | mInv
  deriving DecidableEq, Repr

/-- A directory entry (R200): sharers and awaited hosts as bit masks, whether the owner keeps a copy (BIRspS) and has
written back since its grant, when its snoops went out, its pending request, and its place in the order in which entries
became stable (R202), which is no tick (R159). -/
structure DirEnt where
  st : DirState
  sharers : Nat := 0
  owner : Nat := 0
  awaited : Nat := 0
  keep : Bool := false
  wrote : Bool := false
  since : Nat := 0
  pend : Option Who := none
  order : Nat := 0
  deriving DecidableEq, Repr

/-- A pending combined atomic (R188): line number, offset, SUBOP, width, merged operand, when it was created. -/
structure Combine where
  slice : Nat
  line : Nat
  off : Nat
  subop : Nat
  width : Nat
  val : Nat
  since : Nat
  deriving DecidableEq, Repr

/-! ## Tiers -/

/-- Page states (R77); UNBACKED is an unlisted page. -/
inductive PageState where
  | resident | moving
  deriving DecidableEq, Repr

/-- A page home table entry (R77), its die given by its page number (R40). -/
structure PhtEnt where
  st : PageState
  tier : Tier
  frame : Nat
  slot : Nat := 0
  count : Nat := 0
  stamp : Nat := 0
  deriving DecidableEq, Repr

/-- A move slot (R81, R84, R85): page, destination, chunks moved, chunks held, chunks that go on as poison, chunks whose
write is issued for the second time, whether any chunk was lost, and the task that started the move. -/
structure MoveSlot where
  page : Nat
  tier : Tier
  frame : Nat
  mask : Nat := 0
  held : Nat := 0
  bad : Nat := 0
  again : Nat := 0
  lost : Bool := false
  task : Option Nat := none
  deriving DecidableEq, Repr

/-- What a delayed tier access gives back, and to whom. -/
structure TierAcc where
  line : Nat
  who : Who
  at_ : Nat
  deriving DecidableEq, Repr

/-- States of a Dynamic Capacity extent (R102). -/
inductive ExtState where
  | offered | accepted | draining | scrubbing
  deriving DecidableEq, Repr

/-- A Dynamic Capacity extent (R102, R103): hosts as bit masks. -/
structure Extent where
  base : Nat
  len : Nat
  tag : Nat
  offered : Nat
  answered : Nat := 0
  listed : Nat := 0
  st : ExtState := .offered
  deriving DecidableEq, Repr

/-- One interleave set as decoded: BASE, SIZE, CFG, LOCAL, COMP register words (R110). -/
structure ISet where
  base : Word := 0
  size : Word := 0
  cfg : Word := 0
  loc : Word := 0
  comp : Word := 0
  deriving DecidableEq, Repr

/-- A composition's meters (R113). -/
structure CompMeter where
  ptick : Nat := 0
  rd : Nat := 0
  wr : Nat := 0
  deriving DecidableEq, Repr

/-- The tiers, page homes, extents and compositions (03): bytes and poison of frames, entries and additions to their
counts, parts being retired and those whose retirement has paused, move slots, held pages with the task that holds each,
chunks of which a task's accepted request is part served (R82), late accesses, channels that retrain, when the last page
interval was counted (R113), DC regions and extents, set tables, meters, and how many directory entries have become stable
(R202). -/
structure TierState where
  mem : List Host.Cell := []
  poison : SMap Bool := []
  pht : SMap PhtEnt := []
  adds : SMap Nat := []
  retiredParts : List PartId := []
  paused : List PartId := []
  slots : SMap MoveSlot := []
  pageHold : List (Nat × Nat) := []
  serving : List (Nat × Nat) := []
  late : SMap TierAcc := []
  slow : List (Nat × Nat) := []
  nextLate : Nat := 0
  ptickAt : Nat := 0
  regions : SMap (Nat × Nat) := []
  extents : SMap Extent := []
  nextExt : Nat := 0
  cur : SMap ISet := []
  prev : SMap ISet := []
  meters : SMap CompMeter := []
  stables : Nat := 0
  deriving DecidableEq, Repr

/-! ## Translation -/

/-- A TLB or walk-cache entry (R56): context, level, virtual page number at that level, entry word, and the
context entry's flags. `l1` is the engine whose L1 holds it, none for an L2 or walk-cache entry of a die. -/
structure TlbEnt where
  ctx : Nat
  level : Nat
  vpn : Nat
  word : Word
  deriving DecidableEq, Repr

/-- A stalled replayable fault (R64 to R70): token, page, kind, access, the tasks joined, whether its record is
written, its task's queue and engine, and when the wait began. -/
structure FaultTok where
  tok : Nat
  ctx : Nat
  va : Nat
  kind : Nat
  acc : AccessKind
  level : Nat
  gen : Nat
  queue : Nat
  eng : Nat
  written : Bool
  since : Nat
  joined : List Nat
  deriving DecidableEq, Repr

/-- Translation (02): L1 TLBs by engine, L2 TLBs and walk caches by die, tokens, phase of the fault ring, and how often entries
of a context have been dropped: a translation or a walk under way across a drop is made again (R57). -/
structure XltState where
  l1 : SMap (List TlbEnt) := []
  l2 : SMap (List TlbEnt) := []
  wc : SMap (List TlbEnt) := []
  toks : List FaultTok := []
  nextTok : Nat := 1
  phase : Bool := true
  shots : SMap Nat := []
  deriving DecidableEq, Repr

/-! ## Queues and running work -/

/-- A fetched descriptor that has not started (R124, R125). -/
structure FDesc where
  slot : Nat
  half : Bool
  tad : Bool
  bytes : List Byte
  deriving DecidableEq, Repr

/-- How a descriptor ended (04, "Completion records"). -/
structure Fin_ where
  st : Status
  progress : Nat := 0
  result : Nat := 0
  exhausted : Bool := false
  skipped : Bool := false
  dropped : Bool := false
  nested : Bool := false
  coverage : Bool := false
  undef : Bool := false
  replayed : Bool := false
  code : Nat := 0
  remote : Option (Nat × Nat) := none
  deriving DecidableEq, Repr

/-- A completion whose record is due (R137, R138). -/
structure Due where
  slot : Nat
  half : Bool
  opcode : Nat
  tag : Nat
  irq : Bool
  fin : Fin_
  deriving DecidableEq, Repr

/-- What a queue holds beside its registers (R115, R124, R138, R149). -/
structure QueueState where
  dbTail : Nat := 0
  cqHead : Nat := 0
  phase : Bool := true
  fetching : Bool := false
  fetched : List FDesc := []
  due : List Due := []
  unsignalled : Nat := 0
  firstAt : Nat := 0
  spent : Nat := 0
  noRecords : Bool := false
  deriving DecidableEq, Repr

/-- What a task waits for; `issue` is a store translated and not yet issued (R57, R431). -/
inductive Wait where
  | ready | line | late | dma | fabric | fault | poll | drain | move | reports | held | meter | walk | issue
  deriving DecidableEq, Repr

/-- What a piece of running work is: a descriptor, a fabric request or store or subrequest being served, an engine
request commanded at the home, a Newt's read of a stream from a byte on, a Kettle instruction's store access, a Gecko query, a
row update, a write-back of a steep-cache line: its cache, tag, virtual line, target, dirty bytes and the descriptors that
dirtied it. -/
inductive TaskKind where
  | desc (q slot : Nat) (half tad : Bool)
  | msg (port : Nat) (m : Msg)
  | eng (r : EngReq) (wr : Option (List Bool × List Byte))
  | stream (n ring x : Nat)
  | kettle (n : Nat)
  | query (sub qi e : Nat)
  | row (sub pos : Nat)
  | wback (e : Eng) (tag : Nat) (sub : Bool) (va : Nat) (tgt : Target) (mask : Nat) (by_ : List (Nat × Nat))
  deriving DecidableEq, Repr

/-- A write-back that failed: the unit of its descriptor that dirtied the line first, its status, and the remote home that
refused it (R141, R142). -/
structure BackFail where
  unit : Nat
  st : Status
  remote : Option (Nat × Nat)
  deriving DecidableEq, Repr

/-- A request that waits at a bank's arbiter (R227, R233): the bank, its place in the order of arrival, the requester, and
whether it writes. -/
structure BankReq where
  bank : Nat
  at_ : Nat
  who : Nat
  write : Bool
  deriving DecidableEq, Repr

/-- A piece of running work. Its accesses are made one at a time; `log` holds the answers so far (log 5). `ending` is
set while the steep cache is being written back (R164), `heads` lists the heads written through with the last
address (R157), `kill` when it is to end with a status (R135, R146). `xlat` counts its translations (R57), `need` is the
walk it waits for, `quiet` a fault record that a ring wait may still write (R263), `nested` that an escalated action ended
it (R513), `bad` the write-back of its bytes that failed, that of the lowest unit, `rd` the Newt through which it reads and
whether that read has been issued (R245, R258), `moved` when it last got an answer (R500), `bank` the scratchpad bank that it
waits for. -/
structure Task where
  kind : TaskKind
  src : ReqSrc
  ctx : Nat
  eng : Option Eng := none
  bytes : List Byte := []
  log : List Ans := []
  wait : Wait := .ready
  ending : Option Fin_ := none
  kill : Option Status := none
  fin : Option Fin_ := none
  cur : Fin_ := { st := .ok }
  start : Nat := 0
  pollAt : Nat := 0
  heads : List (Nat × Nat) := []
  xlat : Nat := 0
  need : Option (Nat × AccessKind) := none
  quiet : List Byte := []
  nested : Bool := false
  bad : Option BackFail := none
  rd : Option (Nat × Bool) := none
  moved : Nat := 0
  bank : Option BankReq := none
  translated : Bool := false
  reading : Bool := false
  deriving DecidableEq, Repr

/-- A steep-cache line (R160): queue (or subrequest) tag, virtual line, target, bytes held, dirty bytes, the descriptors
that dirtied it with the first unit of each, when it was last used, and whether it is poison but for its dirty bytes. -/
structure SteepLine where
  tag : Nat
  sub : Bool
  va : Nat
  tgt : Target
  valid : Nat
  dirty : Nat
  data : List Byte
  by_ : List (Nat × Nat) := []
  used : Nat := 0
  poison : Bool := false
  deriving DecidableEq, Repr

/-- A pass over the lines of an engine's steep cache: the task that makes it, the range in which the engine's own accesses
wait meanwhile (R275; of no length where none wait), and the lines it found, each by tag and virtual line. -/
structure Sweep where
  task : Nat
  eng : Nat
  base : Nat
  len : Nat
  lines : List ((Nat × Bool) × Nat)
  deriving DecidableEq, Repr

/-- A host-memory read outstanding (R472): head, address, length, who waits, when it was sent. -/
structure Dma where
  head : Nat
  hpa : Nat
  len : Nat
  who : Who
  at_ : Nat
  deriving DecidableEq, Repr

/-! ## Scratchpad -/

/-- A handover in progress (R227): next owner kind and index, whether it scrubs. -/
structure Handover where
  kind : Nat
  idx : Nat
  scrub : Bool
  deriving DecidableEq, Repr

/-- The scratchpad (07): bytes, poisoned words, handovers, each bank's requesters as they were last granted, the latest last
(R233), requests that have had to wait, directory banks whose replacement is due with their slices, replacements by the bank
they stand for (R237, R238), corrected errors by bank (R236), field-repair entries blown (bank, subarray, column), entries left
on each die. -/
structure PadState where
  mem : List Host.Cell := []
  poison : SMap Bool := []
  handovers : SMap Handover := []
  rank : SMap (List Nat) := []
  arrivals : Nat := 0
  owed : List (Nat × Nat) := []
  replaced : SMap Nat := []
  ces : SMap Nat := []
  repaired : List (Nat × Nat × Nat) := []
  fuses0 : Nat := 64
  fuses1 : Nat := 64
  deriving DecidableEq, Repr

/-! ## Fabric -/

/-- A fabric port beside its registers (R421, R422, R416): messages taken from flits, messages queued by virtual
channel, link sequence numbers, whether a NAK is due, replay buffer; the far end's buffer by virtual channel and its last
counts, the units sent that it has not freed with their channel and whether they were transit, this end's own counts;
RETRAIN entries, training kind, whether a failed identity holds it, whether its check is for a cartridge's service, signal,
when its check or its retry began. -/
structure Port where
  rx : List Msg := []
  tx : List (Nat × Msg) := []
  nextF : Nat := 0
  expect : Nat := 0
  nak : Bool := false
  replay : List Flit := []
  total : List Nat := []
  last : List Nat := []
  flight : List (Nat × Nat × Bool) := []
  given : List Nat := []
  retrains : List Nat := []
  fast : Bool := false
  badId : Bool := false
  laser : Bool := false
  signal : Bool := true
  since : Nat := 0
  deriving DecidableEq, Repr

/-- A STORE-class message or RD that is not yet answered (R431): destination and stream, the message, when it was
first and last sent, the path last taken, and the task that waits. -/
structure OutMsg where
  store : Bool
  dst : Nat
  stream : Nat
  seq : Nat
  msg : Msg
  first : Nat
  last : Nat
  path : Nat
  task : Option Nat
  gw : Option (Nat × Msg) := none
  deriving DecidableEq, Repr

/-- The value of an ATOM performed for a source (R570). -/
structure AtomKept where
  rack : Nat
  acc : Bool
  src : Nat
  stream : Nat
  seq : Nat
  old : Word
  at_ : Nat
  deriving DecidableEq, Repr

/-- A destination's stream (R429): source rack, kind, index, stream index, next expected SEQ, messages held early,
and whether a store of it is being served. -/
structure InStream where
  rack : Nat
  acc : Bool
  src : Nat
  stream : Nat
  expect : Nat
  busy : Bool := false
  held : List (Nat × Msg) := []
  deriving DecidableEq, Repr

/-- A laser cartridge beside its register (R413, R523): feed kept lit, BIAS0, seconds ACTIVE, sum of biases. -/
structure Laser where
  bias0 : Nat := 0
  secs : Nat := 0
  sum : Nat := 0
  deriving DecidableEq, Repr

/-- The fabric (14); `resets` are the STREAM_RESET messages not yet acknowledged (R432). -/
structure FabState where
  ports : SMap Port := []
  outSeq : SMap Nat := []
  outs : List OutMsg := []
  resets : List Msg := []
  tag : Nat := 0
  ins : List InStream := []
  kept : List AtomKept := []
  lasers : SMap Laser := []
  deriving DecidableEq, Repr

/-! ## Traffic control -/

/-- Who waits in a delay queue (R442): a task, with whether its request is never refused and whether it is a write-back
(R445), or a host request. -/
inductive Delayed where
  | task (id : Nat) (keep : Bool) (wb : Bool)
  | host (req : LineReq)
  deriving DecidableEq, Repr

/-- A meter (R439, R446): rates and bursts in force, tokens in milli-bytes, last tick, delay queue, counts. -/
structure Meter where
  cir : Nat := 0
  xir : Nat := 0
  cbs : Nat := 0
  xbs : Nat := 0
  tc : Nat := 0
  tx : Nat := 0
  last : Nat := 0
  dq : List (Delayed × Nat) := []
  green : Nat := 0
  yellow : Nat := 0
  red : Nat := 0
  refused : Nat := 0
  deriving DecidableEq, Repr

/-- A port's gate list position (R451): entry, tick it began, and whether a switch is due. -/
structure Gate where
  entry : Nat := 0
  since : Nat := 0
  switch : Bool := false
  deriving DecidableEq, Repr

/-- Traffic control (15): meters, context map, shaper credits in 1/1024 byte, gate positions, and the virtual channel
that each port sends on with the tick at which that ends. -/
structure QosState where
  meters : SMap Meter := []
  ctxMap : SMap Nat := []
  shp : SMap Int := []
  gates : SMap Gate := []
  sending : SMap (Nat × Nat) := []
  deriving DecidableEq, Repr

/-! ## Host heads -/

/-- Progress of an SPDM responder on one transport (R462): requests served so far and the session. -/
structure Spdm where
  version : Bool := false
  caps : Bool := false
  algs : Bool := false
  handshake : Bool := false
  session : Bool := false
  keyGen : Nat := 0
  deriving DecidableEq, Repr

/-- A host head beside its registers (R453 to R469); `decErr` marks the decoders whose last commit failed (R457), `refusedIn` is
the interval of its first refusal that no event has told of (R460). -/
structure Head where
  bme : Bool := false
  unmasked : SMap Bool := []
  pend : SMap Bool := []
  decoders : SMap Decoder := []
  decErr : Nat := 0
  events : List Nat := []
  policy : BitVec 40 := 0
  timestamp : Word := 0
  ideKeys : Nat := 0
  refusedIn : Option Nat := none
  deriving DecidableEq, Repr

/-! ## Security -/

/-- A region table entry (R481 to R483); the range in units of 2 MiB. -/
structure Region where
  valid : Bool := false
  world : Bool := false
  combine : Bool := false
  enc : Bool := false
  key : Nat := 0
  dom : Nat := 0
  base : Nat := 0
  size : Nat := 0
  deriving DecidableEq, Repr

/-- A write of a grant code for a range of contexts (R484). -/
structure Grant where
  lo : Nat
  hi : Nat
  code : Nat
  deriving DecidableEq, Repr

/-- A key slot that holds a key (R489). -/
structure Key where
  bits : BitVec 512
  world : Bool
  deriving DecidableEq, Repr

/-- Worlds, regions, keys and firmware (17). The pending fields hold changes not yet acknowledged, by world. -/
structure SecState where
  regions : SMap Region := []
  grants : SMap (List Grant) := []
  keys : SMap Key := []
  moduleKey : BitVec 512 := 0
  pendRgn : SMap (Nat × Region) := []
  pendGrant : SMap (Nat × Grant) := []
  image : Image
  staged : Option Image := none
  svn : Nat := 0
  version : Nat := 0
  recovery : Nat := 0
  svnMin : Nat := 0
  udsLatched : Bool := true
  deriving DecidableEq, Repr

/-! ## Faults, health, recorder -/

/-- A recorder record (18, "Record"), less its CRC, which is computed. -/
structure Rec where
  seq : Nat
  opSec : Nat
  pcycle : Nat
  kind : Nat
  severity : Nat
  nest : Nat
  scope : Nat
  tick : Nat
  object : Nat
  count : Nat
  where_ : Nat
  cause : Nat
  extra : Nat
  deriving DecidableEq, Repr

/-- A part's score (R519, R521): S in 1/256 point, state 0 GOOD to 3 RETIRED, events scored. -/
structure Health where
  score : Nat := 0
  st : Nat := 0
  events : Nat := 0
  deriving DecidableEq, Repr

/-- A journal entry (R515): the task it names and the holders of its state. -/
structure JEnt where
  task : Nat
  holders : List PartId
  deriving DecidableEq, Repr

/-- A containment action in progress (R510 to R513): object, scope, NEST. -/
structure Action where
  obj : PartId
  scope : Nat
  nest : Nat
  deriving DecidableEq, Repr

/-- Containment, health, advisories and open records (18). -/
structure RasState where
  contained : List PartId := []
  moduleContained : Bool := false
  alertAdv : List Nat := []
  romOnly : Bool := false
  actions : List Action := []
  health : SMap Health := []
  healthAt : Nat := 0
  open_ : List Rec := []
  toFlash : List Rec := []
  nextSeq : Nat := 0
  dropped : Nat := 0
  advPhase : Bool := true
  plogPhase : Bool := true
  journal : List JEnt := []
  counterAt : Nat := 0
  secBase : Nat := 0
  deriving DecidableEq, Repr

/-- A counter entry (R527). `off` is how the module was last powered down: 1 OFFLINE, 2 loss of 48 V, 3 thermal. -/
structure CounterEnt where
  opSec : Nat
  pcycle : Nat
  dropped : Nat
  mask : Nat
  off : Nat
  deriving DecidableEq, Repr

/-- The recorder's flash (R527, R528): programmed records by SEQ, the newest counter entry. -/
structure Flash where
  records : SMap Rec := []
  counter : Option CounterEnt := none
  deriving DecidableEq, Repr

/-! ## Power -/

/-- Power and pins beside the registers (19): demands and the lengths of the current runs of low intervals, the issue
throttle, control intervals of the current millisecond and whether KTL_LVL was above 0 in one of them, droop stretches in
the current window, when the last control interval and the last droop window ended, when the reference was lost, whether a
removal request may be taken. -/
structure PwrState where
  lp : Nat := 0
  lt : Nat := 0
  lowP : Nat := 0
  lowT : Nat := 0
  throttle : Bool := false
  beats : Nat := 0
  hot : Bool := false
  droops : Nat := 0
  ctlAt : Nat := 0
  droopAt : Nat := 0
  refLostAt : Option Nat := none
  hpArmed : Bool := true
  deriving DecidableEq, Repr

/-! ## Outputs -/

/-- A message to a host (06, "The message set"), with its head, host and module-local line. -/
inductive S2M where
  | cmp | cmpS | cmpE | biConflictAck
  | memData (data : List Byte) (poison : Bool)
  | snpData | snpInv
  deriving DecidableEq, Repr

/-- A response of the mailbox, a DOE mailbox, an SPDM responder or the steward: what it answers, its code, its bytes. -/
structure Reply where
  via : Transport
  op : Nat
  code : Nat
  data : List Byte
  deriving DecidableEq, Repr

/-- A posted write to host memory (R470): head, address, enabled bytes, data, whether it is sent poisoned, and whether with
Relaxed Ordering (R473). -/
structure HostWr where
  head : Nat
  hpa : Nat
  mask : Nat
  data : List Byte
  poison : Bool
  relaxed : Bool := true
  deriving DecidableEq, Repr

/-- Outputs that the surroundings have not taken yet (log 4); `answers` holds those to requests that reached the home
by `ENGINE_READ` and `ENGINE_WRITE`. -/
structure Outputs where
  s2m : List (Nat × Nat × Nat × S2M) := []
  wire : List (Nat × Flit) := []
  credit : List (Nat × List Nat) := []
  hostWr : List HostWr := []
  hostRd : List (Nat × Nat × Nat) := []
  msix : List (Nat × Nat) := []
  replies : List Reply := []
  answers : List (EngReq × Ans) := []
  deriving DecidableEq, Repr

/-! ## Engines -/

/-- A stream of a running access program (R246 to R263): its record, the bytes whose reads have been issued and the bytes of
each slot that are written, slots begun, filled and released, slots complete beyond FILLED, and the slot that failed with its
status, CODE and withheld fault record. -/
structure Stream where
  bytes : List Byte
  cursor : Nat := 0
  got : SMap Nat := []
  begun : Nat := 0
  filled : Nat := 0
  released : Nat := 0
  complete : List Nat := []
  failed : Option (Nat × Status × Nat × List Byte) := none
  deriving DecidableEq, Repr

/-- A Newt's access program (R242 to R258): the task whose program it is, STORE_ADDR, the steep window's cap in bytes
(0 none), the ring whose slot was begun last, the streams. -/
structure NewtRun where
  task : Option Nat := none
  storeAddr : Bool := false
  cap : Nat := 0
  last : Nat := 0
  streams : List Stream := []
  deriving DecidableEq, Repr

/-- A stationary tile as loaded (R278, R280): its format, the codes of its 16 rows, and four scale bytes a row. -/
structure KTile where
  fmt : Nat := 0
  rows : List (List Nat) := []
  scales : List Byte := []
  deriving DecidableEq, Repr

/-- A Kettle cluster (R296 to R316): the task it runs, whether that is a customer program under way, the program's
identifier, its instructions, PC and open loops (first instruction, end, passes left), the register files (scalars;
lanes at 64 × register + lane; accumulators at 2048 × array + 128 × row + column; tiles at 4 × array + tile), KARG0 and
KARG1, the store access under way, whether a store-space VST was issued, whether the next instruction waits on a ring,
CAUSE, whether an access of it was replayed, when it last retired an instruction (R500), and the bank that its instruction
waits for. -/
structure Kettle where
  task : Option Nat := none
  running : Bool := false
  id : Nat := 0
  prog : List (BitVec 128) := []
  pc : Nat := 0
  loops : List (Nat × Nat × Nat) := []
  sreg : SMap (BitVec 32) := []
  vreg : SMap (BitVec 32) := []
  acc : SMap (BitVec 32) := []
  tiles : SMap KTile := []
  karg0 : Nat := 0
  karg1 : Nat := 0
  sub : Option Nat := none
  stored : Bool := false
  rwait : Bool := false
  cause : Nat := 0
  replayed : Bool := false
  moved : Nat := 0
  bank : Option BankReq := none
  deriving DecidableEq, Repr

/-- One part of a fan-out (R335, R362, R397): the home and the request tag of its SUBREQ, the units sent, when it was
sent, the local task that serves it when the home is this module, and how it was answered. -/
structure FanPart where
  dst : Nat
  tag : Nat
  units : Nat
  at_ : Nat
  local_ : Option Nat := none
  got : Option Report := none
  missing : Option Status := none
  late : Bool := false
  deriving DecidableEq, Repr

/-- The subrequests of a coordinator's descriptor: parts in the order sent, the order in which they were answered, the
parts awaited from one on, the drain count it holds (R404), and HOME_TMO in µs (R348). -/
structure Fan where
  parts : List FanPart := []
  order : List Nat := []
  waitFrom : Nat := 0
  drain : Option Nat := none
  tmo : Nat := 0
  ended : Bool := false
  deriving DecidableEq, Repr

/-- A query of a Gecko subrequest (R363): its subrequest's task, shard and number, the engine and task that run it, its
snapshot once read, its list once done. -/
structure GkoQuery where
  sub : Nat
  shard : Nat
  qi : Nat
  eng : Option Nat := none
  task : Option Nat := none
  work : Nat := 0
  snap : Option Nat := none
  res : Option GkoList := none
  deriving DecidableEq, Repr

/-- The update descriptor that a shard is running (R374): the module that sent it, its number there, its epoch once it
has one, the tag of the batch taken up last, and the header's address of an item whose back links are being made (R377). -/
structure GkoUpd where
  src : Nat
  upd : Nat
  epoch : Nat := 0
  tag : Nat := 0
  linking : Option Nat := none
  deriving DecidableEq, Repr

/-- A row update at its home (R409): its subrequest's task, its position there, row address, the task that runs it, its
status once done, and whether a store of its row was issued (R516). -/
structure RowUpd where
  sub : Nat
  pos : Nat
  addr : Nat
  task : Option Nat := none
  res : Option Status := none
  stored : Bool := false
  deriving DecidableEq, Repr

/-- The engines' own state (05, 08 to 13). -/
structure EngState where
  sweeps : List Sweep := []
  newts : SMap NewtRun := []
  kettles : SMap Kettle := []
  kqueue : SMap (List Nat) := []
  fans : SMap Fan := []
  queries : List GkoQuery := []
  updates : SMap GkoUpd := []
  rows : List RowUpd := []
  drain : SMap Nat := []
  deriving DecidableEq, Repr

/-- A record due in a ring (R63, R217, R524): the ring, its bytes without PHASE and TICK, and for an ending fault
record that it may be dropped (R64). -/
structure RingRec where
  ring : Nat
  bytes : List Byte
  alert : Bool := false
  tok : Nat := 0
  deriving DecidableEq, Repr

/-! ## The module -/

/-- The state of one module. `pending` is the queue of commands; `free` counts the uses of free values (log 10). -/
structure State where
  pending : List Instr
  tick : Nat
  free : Nat
  fixed : Fixed
  flash : Flash
  regs : SMap Word
  tier : TierState
  dir : SMap DirEnt
  waitq : List LineReq
  combine : SMap Combine
  ringq : List RingRec
  ringBusy : List Nat
  xlt : XltState
  queues : SMap QueueState
  tasks : SMap Task
  nextTask : Nat
  dmas : SMap Dma
  nextDma : Nat
  steep : SMap (List SteepLine)
  mixed : SMap Nat
  pad : PadState
  eng : EngState
  fab : FabState
  qos : QosState
  heads : SMap Head
  spdm : SMap Spdm
  sec : SecState
  ras : RasState
  pwr : PwrState
  out : Outputs
  deriving DecidableEq, Repr

/-- The firmware image a new module holds: valid for the GXM-4160, SVN 0 (log 8). -/
def firstImage : Image :=
  { magic := 0x57465747, format := 1, keyIdx := 0, variants := 7, svn := 0, version := 0, length := 0,
    zeroOk := true, sigOk := true, digestOk := true, readOk := true }

/-- The module right after its first power-up's reset, before the boot ROM has run: STATE is BOOT. -/
def State.reset : State where
  pending := []
  tick := 0
  free := 0
  fixed := ⟨.gxm4160, 0, 0⟩
  flash := {}
  regs := []
  tier := {}
  dir := []
  waitq := []
  combine := []
  ringq := []
  ringBusy := []
  xlt := {}
  queues := []
  tasks := []
  nextTask := 0
  dmas := []
  nextDma := 0
  steep := []
  mixed := []
  pad := {}
  eng := {}
  fab := {}
  qos := {}
  heads := []
  spdm := []
  sec := { image := firstImage }
  ras := {}
  pwr := {}
  out := {}

end Sys2Proof.Machine
end

