-- ==== Sys2Proof/Machine/Ops.lean ====
section
/-! DEFINITION. Named operations over the state that every family shares: registers, capabilities, worlds, free values,
outputs, the event recorder and advisories. -/

namespace Sys2Proof

/-- The number that names an object (18, "Scopes"). -/
def PartId.code (p : PartId) : Nat := p.kind.toNat * 2 ^ 24 + p.idx.toNat

/-- An object by kind and index. -/
def Machine.obj (kind idx : Nat) : PartId := ⟨BitVec.ofNat 8 kind, BitVec.ofNat 24 idx⟩

/-- Object kind of an engine (18, "Scopes"). -/
def EngKind.objKind : EngKind → Nat
  | .newt => 4 | .kettle => 5 | .gecko => 6 | .emb => 7 | .mover => 8

/-- The object code parts of an engine. -/
def Eng.part (e : Eng) : PartId := Machine.obj e.kind.objKind e.idx.val

/-- An engine's key in a bank of engines. -/
def Eng.key (e : Eng) : Nat := e.kind.objKind * 32 + e.idx.val

/-- The die an engine sits on (R225; tile mover i on die i >> 2). -/
def Eng.die (e : Eng) : Nat :=
  match e.kind with
  | .newt | .kettle => e.idx.val / 16
  | .gecko | .emb => e.idx.val % 2
  | .mover => e.idx.val / 4

end Sys2Proof

namespace Sys2Proof.Machine

/-- Every meaning ends here: the command queue and the fixed parts are as they were, MODULE_TICK stands (R158), and
records become part of the recorder's flash only at positions that hold none (R528). -/
def programAll (m : SMap Rec) : List Rec → SMap Rec
  | [] => m
  | r :: rs => programAll (if (SMap.find m r.seq).isSome then m else SMap.put m r.seq r) rs

/-- The state `t` that a command reaches from `s`, with what no command changes put back (R528, R158). -/
def settle (s t : State) : State :=
  { t with
    pending := s.pending, tick := s.tick, fixed := s.fixed,
    flash := { t.flash with records := programAll s.flash.records t.ras.toFlash },
    ras := { t.ras with toFlash := [] } }

/-- The outcome of a command that takes `s` to `t`. -/
def done (s t : State) : Host.Outcome State Fault Refusal := .next (settle s t)

/-! ## Registers -/

/-- The word a register holds. -/
def State.reg (s : State) (r : RegId) : Nat := (SMap.get s.regs r.off (BitVec.ofNat 64 r.rst)).toNat

/-- The state with a register's word replaced. -/
def State.setReg (s : State) (r : RegId) (v : Nat) : State :=
  { s with regs := SMap.set s.regs r.off (BitVec.ofNat 64 v) (BitVec.ofNat 64 r.rst) }

/-- A field of a register. -/
def State.fld (s : State) (r : RegId) (f : Fld) : Nat := f.get (s.reg r)

/-- A one-bit field of a register. -/
def State.flag (s : State) (r : RegId) (f : Fld) : Bool := s.fld r f = 1

/-- The state with a field replaced. -/
def State.setFld (s : State) (r : RegId) (f : Fld) (v : Nat) : State := s.setReg r (f.put (s.reg r) v)

/-- A count field raised by n, modulo its width. -/
def State.bump (s : State) (r : RegId) (f : Fld) (n : Nat) : State := s.setFld r f (s.fld r f + n)

/-- The copy of a duplicated register that an access of the given world reaches (R480): the secure copy lies at an
offset of its own. -/
def RegId.world (r : RegId) (secure : Bool) : RegId := if secure then ⟨r.off + 2 ^ 40, r.rst⟩ else r

/-- A free value: the next use of the counter (log 10). -/
def State.fresh (s : State) : Nat × State := (s.free, { s with free := s.free + 1 })

/-- A free choice below n. -/
def State.choose (s : State) (n : Nat) : Nat × State :=
  (Config.freeNat s.free % n, { s with free := s.free + 1 })

/-! ## Time -/

/-- Operating seconds (R527): seconds counted before this power-up and those of MODULE_TICK. -/
def State.opSec (s : State) : Nat := s.ras.secBase + s.tick / 10 ^ 9

/-- Ticks of a number of microseconds: MODULE_TICK counts at 1 GHz. -/
def us (n : Nat) : Nat := n * 1000

/-! ## Identity, power and capabilities -/

/-- `PWR_STAT`.STATE. -/
def State.power (s : State) : Nat := s.fld Reg.PWR_STAT Reg.PWR_STAT_STATE

/-- STATE is READY (R541). -/
def State.ready (s : State) : Bool := s.power = 1

/-- This module's index and rack (R413). -/
def State.module (s : State) : Nat := s.fld Reg.ZL_IDENT Reg.ZL_IDENT_MODULE
def State.rack (s : State) : Nat := s.fld Reg.ZL_IDENT Reg.ZL_IDENT_RACK

/-- The module acts: READY and neither contained nor offline (R504, R541, R547). -/
def State.live (s : State) : Bool := s.ready && !s.ras.moduleContained


/-- A part is RETIRED (R521). -/
def State.retired (s : State) (p : PartId) : Bool := (SMap.get s.ras.health p.code {}).st = 3

/-- A part or object is contained (R498). -/
def State.isContained (s : State) (p : PartId) : Bool := s.ras.contained.contains p

/-- The engines of a kind that the variant carries (R1). -/
def Fixed.has (f : Fixed) (k : EngKind) (i : Nat) : Bool :=
  match k with
  | .newt => i < 32
  | .mover => i < 8
  | .kettle =>
    match f.variant with
    | .gxm4160 => i < 32
    | .gxm4120 => i < 8 || (16 ≤ i && i < 24)
    | .gxm4080 => false
  | .gecko => f.variant = .gxm4160 && i < 2
  | .emb => f.variant ≠ .gxm4080 && i < 2

/-- `GLB_UNIT_DIS` disables the engine (R562). -/
def State.disabled (s : State) (e : Eng) : Bool :=
  match e.kind with
  | .kettle => bit (s.fld Reg.GLB_UNIT_DIS Reg.GLB_UNIT_DIS_KTL) e.idx.val
  | .gecko => bit (s.fld Reg.GLB_UNIT_DIS Reg.GLB_UNIT_DIS_GKO) e.idx.val
  | .emb => bit (s.fld Reg.GLB_UNIT_DIS Reg.GLB_UNIT_DIS_EMB) e.idx.val
  | _ => false

/-- The engine is present (R2, R561). -/
def State.present (s : State) (e : Eng) : Bool :=
  s.fixed.has e.kind e.idx.val && !s.retired e.part && !s.disabled e

/-- Every engine of a kind. -/
def engines (k : EngKind) : List Eng := (List.finRange 32).map fun i => ⟨k, i⟩

/-- The engines of a kind that are present. -/
def State.presentOf (s : State) (k : EngKind) : List Eng := (engines k).filter s.present

/-- The fault mode of a kind of engine (R559): 0 absent, 1 ENDING, 2 PINNED, 3 REPLAYABLE. -/
def Fixed.faultMode (f : Fixed) (k : EngKind) : Nat :=
  match f.variant with
  | .gxm4160 => 3
  | .gxm4120 => match k with | .newt => 1 | .gecko => 0 | _ => 2
  | .gxm4080 => match k with | .newt => 1 | _ => 0

/-! ## Worlds -/

/-- Whether a context is secure (R474). -/
def State.secureCtx (s : State) (c : Nat) : Bool :=
  c = 0 || (s.fld Reg.SEC_CTX_SECURE Reg.SEC_CTX_SECURE_LO ≤ c && c ≤ s.fld Reg.SEC_CTX_SECURE Reg.SEC_CTX_SECURE_HI)

/-- Whether an access is a secure-world access (R479). -/
def State.secureVia (s : State) (v : Via) : Bool :=
  match v with
  | .steward => true
  | .head h => bit (s.fld Reg.SEC_WORLD_MISC Reg.SEC_WORLD_MISC_HEAD) h.val &&
      s.flag (Reg.HEAD_STAT h.val) Reg.HEAD_STAT_IDE_IO

/-- The world of an engine (R477). Tile movers act for either world. -/
def State.secureEng (s : State) (e : Eng) : Bool :=
  match e.kind with
  | .newt => bit (s.fld Reg.SEC_WORLD_ENG Reg.SEC_WORLD_ENG_NEWT) e.idx.val
  | .kettle => bit (s.fld Reg.SEC_WORLD_ENG Reg.SEC_WORLD_ENG_KTL) e.idx.val
  | .gecko => bit (s.fld Reg.SEC_WORLD_MISC Reg.SEC_WORLD_MISC_GKO) e.idx.val
  | .emb => bit (s.fld Reg.SEC_WORLD_MISC Reg.SEC_WORLD_MISC_EMB) e.idx.val
  | .mover => false

/-- The engine may run work of a context (R477). -/
def State.worldOk (s : State) (e : Eng) (ctx : Nat) : Bool :=
  e.kind = .mover || s.secureEng e = s.secureCtx ctx

/-! ## Outputs -/

/-- An MSI-X raise of a vector (R150, R504): sent when the vector is unmasked and requests may be sent, else pending. -/
def State.msix (s : State) (head vec : Nat) : State :=
  let h := SMap.get s.heads head {}
  if s.fld (Reg.HEAD_STAT head) Reg.HEAD_STAT_IN_RESET = 1 then s
  else if SMap.get h.unmasked vec false && h.bme then
    { s with out := { s.out with msix := s.out.msix ++ [(head, vec)] } }
  else { s with heads := SMap.set s.heads head { h with pend := SMap.set h.pend vec true false } {} }

/-- Whether the module may send memory requests through a head (R471, R504, R467). -/
def State.canDma (s : State) (head : Nat) : Bool :=
  (SMap.get s.heads head {}).bme && s.fld (Reg.HEAD_STAT head) Reg.HEAD_STAT_IN_RESET = 0 && s.live

/-- A head has no room for another read of host memory (R472). -/
def State.dmaFull (s : State) (head : Nat) : Bool := decide (2048 ≤ (s.dmas.filter fun d => decide (d.2.head = head)).length)

/-- A posted write to host memory, with Relaxed Ordering (R470, R473, R506). -/
def State.hostWriteM (s : State) (head hpa mask : Nat) (d : List Byte) (poison : Bool) : State :=
  { s with out := { s.out with hostWr := s.out.hostWr ++ [⟨head, hpa, mask, d, poison, true⟩] } }

/-- A ring's record written to host memory: the word that holds PHASE goes last, with Relaxed Ordering cleared (R473). -/
def State.hostRecord (s : State) (head hpa all phase : Nat) (d : List Byte) : State :=
  let s := s.hostWriteM head hpa (all - phase) d false
  { s with out := { s.out with hostWr := s.out.hostWr ++ [⟨head, hpa, phase, d, false, false⟩] } }

/-- A message to a host. -/
def State.toHost (s : State) (head host line : Nat) (m : S2M) : State :=
  { s with out := { s.out with s2m := s.out.s2m ++ [(head, host, line, m)] } }

/-- A reply of the mailbox, DOE, SPDM or steward. -/
def State.reply (s : State) (t : Transport) (op code : Nat) (d : List Byte) : State :=
  { s with out := { s.out with replies := s.out.replies ++ [⟨t, op, code, d⟩] } }

/-! ## The event recorder -/

/-- Event kinds with their severities (18, the KIND table). -/
inductive Ev where
  | powerUp | reset | fwBoot | recoveryLoader | recorderReserve
  | tierUe | tierDeadline | bankUe | fuseRepair
  | portWiring | portFailed | laserFailed | msgDiscarded
  | hostDown | domainState | headRefusals | ideFail
  | contain | containFatal | release | escalate | combineLost
  | configIgnored | isetInvalid | fwStaged | svnCommit
  | healthAdvise | healthRetireStart | healthRetired | healthGood
  deriving DecidableEq, Repr

/-- The KIND code of an event. -/
def Ev.code : Ev → Nat
  | .powerUp => 0x0001 | .reset => 0x0002 | .fwBoot => 0x0003 | .recoveryLoader => 0x0004 | .recorderReserve => 0x0005
  | .tierUe => 0x0101 | .tierDeadline => 0x0102 | .bankUe => 0x0103 | .fuseRepair => 0x0104
  | .portWiring => 0x0201 | .portFailed => 0x0202 | .laserFailed => 0x0203 | .msgDiscarded => 0x0204
  | .hostDown => 0x0301 | .domainState => 0x0302 | .headRefusals => 0x0303 | .ideFail => 0x0304
  | .contain => 0x0401 | .containFatal => 0x0401 | .release => 0x0402 | .escalate => 0x0403 | .combineLost => 0x0404
  | .configIgnored => 0x0501 | .isetInvalid => 0x0502 | .fwStaged => 0x0601 | .svnCommit => 0x0602
  | .healthAdvise => 0x0701 | .healthRetireStart => 0x0702 | .healthRetired => 0x0703 | .healthGood => 0x0704

/-- The severity of an event: 0 INFO, 1 NOTICE, 2 ERROR, 3 FATAL. -/
def Ev.severity : Ev → Nat
  | .powerUp | .fwBoot | .healthGood => 0
  | .reset | .tierDeadline | .fuseRepair | .msgDiscarded | .domainState | .headRefusals | .release
  | .configIgnored | .fwStaged | .svnCommit | .healthAdvise => 1
  | .containFatal => 3
  | _ => 2

/-- Records that the record area holds, and those reserved for ERROR and FATAL events (R531). -/
def recCapacity : Nat := 229376
def recReserve : Nat := 8192

/-- What an event reports beside its kind. -/
structure EvInfo where
  object : PartId
  cause : Nat := 0
  extra : Nat := 0
  where_ : Nat := 0
  scope : Nat := 0
  nest : Nat := 0

/-- An event counted as dropped (R530, R531). -/
def State.dropEvent (s : State) (n : Nat) : State :=
  { s with ras := { s.ras with dropped := min (s.ras.dropped + n) (2 ^ 32 - 1) } }

/-- The record that an event opens (R529). -/
def State.newRec (s : State) (e : Ev) (i : EvInfo) (seq : Nat) : Rec :=
  { seq := seq, opSec := s.opSec % 2 ^ 32, pcycle := s.fld Reg.EVR_COUNT Reg.EVR_COUNT_PCYCLE, kind := e.code,
    severity := e.severity, nest := i.nest, scope := i.scope, tick := s.tick, object := i.object.code, count := 1,
    where_ := i.where_, cause := i.cause, extra := i.extra }

/-- A record moves to flash: its window has closed (R529). -/
def State.program (s : State) (r : Rec) : State :=
  { s with ras := { s.ras with toFlash := s.ras.toFlash ++ [r] } }

/-- The last element of a list that passes a test, with its position. -/
def findLastIdx {α : Type} (p : α → Bool) (l : List α) : Option Nat :=
  (List.range l.length).reverse.find? fun i => (l[i]?.map p).getD false

/-- An event that opens a record of its own (R529 to R531): the state after it and the record's SEQ, if any. -/
def State.openEvent (s : State) (e : Ev) (i : EvInfo) : State × Option Nat :=
  let n := s.ras.nextSeq
  let low := e.severity < 2
  if n ≥ recCapacity ∨ (low ∧ n ≥ recCapacity - recReserve) then (s.dropEvent 1, none)
  else if e.severity = 3 then
    ({ (s.program (s.newRec e i n)) with ras := { (s.program (s.newRec e i n)).ras with nextSeq := n + 1 } }, some n)
  else if s.ras.open_.length < 256 then
    ({ s with ras := { s.ras with open_ := s.ras.open_ ++ [s.newRec e i n], nextSeq := n + 1 } }, some n)
  else if low then (s.dropEvent 1, none)
  else
    match findLastIdx (fun r => decide (r.severity < 2)) s.ras.open_ with
    | none => (s.dropEvent 1, none)
    | some k =>
      match s.ras.open_[k]? with
      | none => (s.dropEvent 1, none)
      | some old =>
        let s' := s.dropEvent old.count
        ({ s' with ras := { s'.ras with open_ := s'.ras.open_.set k (s.newRec e i old.seq) } }, some old.seq)

/-- An advisory goes to its ring (R524) and, where DM_EID is not 0, to the domain manager (R525). -/
def State.advise (s : State) (kind severity scope : Nat) (object : PartId) (value : Nat) (rec_ : Option Nat)
    (detail : Nat) : State :=
  let alert := decide (severity ≥ 2)
  let b := natLE 2 kind ++ [BitVec.ofNat 8 (severity + alert.toNat * 4 + scope * 8)] ++ [0] ++ natLE 4 object.code ++
    natLE 4 value ++ natLE 4 (rec_.getD 0xFFFFFFFF) ++ natLE 8 s.tick ++ natLE 8 detail
  let s := { s with ringq := s.ringq ++ [{ ring := 2, bytes := b, alert := alert }] }
  if s.fld Reg.RAS_CFG Reg.RAS_CFG_DM_EID = 0 then s
  else (s.reply .i3c 0x7E 0 b).reply .service 0x7E 0 b

/-- The record of the reserve and its advisory are written as, from `from_` records on, only the reserve comes to remain
(R531). -/
def State.reserveCheck (s : State) (from_ : Nat) : State :=
  if from_ < s.ras.nextSeq ∧ s.ras.nextSeq = recCapacity - recReserve then
    let (s, q) := s.openEvent .recorderReserve { object := obj 0x20 0, cause := recReserve }
    s.advise Ev.recorderReserve.code Ev.recorderReserve.severity 0 (obj 0x20 0) recReserve q 0
  else s

/-- "The steward records an event": it merges into the open record of its kind and object, or opens one (R529). -/
def State.eventSeq (s : State) (e : Ev) (i : EvInfo) : State × Option Nat :=
  if e.severity = 3 then
    let (s', q) := s.openEvent e i
    (s'.reserveCheck s.ras.nextSeq, q)
  else
    match s.ras.open_.find? fun r => r.kind = e.code ∧ r.object = i.object.code ∧ s.tick < r.tick + 2 ^ 30 with
    | some r =>
      let r' := { r with count := r.count + 1 }
      if r'.count ≥ 2 ^ 32 - 1 then
        ({ (s.program r') with ras := { (s.program r').ras with open_ := s.ras.open_.erase r } }, some r.seq)
      else
        ({ s with ras := { s.ras with open_ := s.ras.open_.map fun x => if x = r then r' else x } }, some r.seq)
    | none =>
      let (s', q) := s.openEvent e i
      (s'.reserveCheck s.ras.nextSeq, q)

/-- An event whose SEQ nobody needs. -/
def State.event (s : State) (e : Ev) (i : EvInfo) : State := (s.eventSeq e i).1

/-- A CONFIG_IGNORED event: a write that was ignored (R78, R79, R108, R194, R220, R478, R562). It names the unit, host or
domain that the setting is about, else the module; WHERE is the register (log 40). -/
def State.ignored (s : State) (p : PartId) (off v : Nat) : State :=
  s.event .configIgnored { object := p, cause := v % 2 ^ 32, where_ := off }

/-! ## Rings of records -/

/-- The base, pointers and vector register of a ring: 0 fault, 1 poison, 2 advisory (R63, R217, R524). -/
def ringBase (k : Nat) : RegId :=
  if k = 0 then Reg.XLT_FQ_BASE else if k = 1 then Reg.HOME_PLOG_BASE else Reg.RAS_ADV_BASE
def ringPtrs (k : Nat) : RegId :=
  if k = 0 then Reg.XLT_FQ_PTRS else if k = 1 then Reg.HOME_PLOG_PTRS else Reg.RAS_ADV_PTRS
def ringCfg (k : Nat) : RegId :=
  if k = 0 then Reg.XLT_FQ_CFG else if k = 1 then Reg.HOME_PLOG_CFG else Reg.RAS_ADV_CFG

/-- Entries of a ring: 2^(12 + SIZE), SIZE values above 4 acting as 4. -/
def State.ringLen (s : State) (k : Nat) : Nat := 2 ^ (12 + min (s.fld (ringBase k) Reg.XLT_FQ_BASE_SIZE) 4)

/-- A record of the poison or advisory ring that is not written (R219): LOST counts it, OVF only for want of room. -/
def State.ringLost (s : State) (k : Nat) (room : Bool) : State :=
  let s := s.bump (ringCfg k) Reg.HOME_PLOG_CFG_LOST 1
  if room then s else s.setFld (ringCfg k) Reg.HOME_PLOG_CFG_OVF 1

/-- An event with its advisory. -/
def State.eventAdvise (s : State) (e : Ev) (i : EvInfo) (value : Nat) : State :=
  let (s, q) := s.eventSeq e i
  s.advise e.code e.severity i.scope i.object value q i.where_

end Sys2Proof.Machine
end

