-- ==== Sys2Proof/Machine/Health.lean ====
section
/-! DEFINITION. Health scores (18): weights, scores and the states of scored parts (R519 to R523). -/

namespace Sys2Proof.Machine

/-- The weight of an event for a kind of part, in points; 0 when the kind does not score it (R520). -/
def eventWeight (kind : Nat) (e : PartEvent) : Nat :=
  let tier := kind = 1 || kind = 2
  match e with
  | .ce => if tier || kind = 3 then 1 else 0
  | .ue => if tier || kind = 3 then 64 else 0
  | .deadline => if tier then 16 else 0
  | .phyRetrain => if tier then 32 else 0
  | .containment => if 4 ≤ kind ∧ kind ≤ 8 then 256 else 0
  | .retrain => if kind = 9 then 8 else 0
  | .uncorrectable => if kind = 9 then 4 else 0
  | .marginFail => if kind = 9 then 64 else 0
  | .linkDown => if kind = 0xB then 32 else 0
  | .ideFail | .protocolError => if kind = 0xB then 64 else 0

/-- ADVISE and RETIRE of a kind in units of 1/256 point, and AUTO (R520). -/
def State.advisePoint (s : State) (kind : Nat) : Nat := s.fld (Reg.RAS_HCFG kind) Reg.RAS_HCFG_ADVISE * 256
def State.retirePoint (s : State) (kind : Nat) : Nat :=
  max (s.fld (Reg.RAS_HCFG kind) Reg.RAS_HCFG_RETIRE * 256) (s.advisePoint kind)
def State.autoRetire (s : State) (kind : Nat) : Bool :=
  decide (kind < 0xA) && s.flag (Reg.RAS_HCFG kind) Reg.RAS_HCFG_AUTO

/-- A part's health, and the state with it replaced. -/
def State.health (s : State) (p : PartId) : Health := SMap.get s.ras.health p.code {}
def State.setHealth (s : State) (p : PartId) (h : Health) : State :=
  { s with ras := { s.ras with health := SMap.set s.ras.health p.code h {} } }

/-- A change of a part's state, with its record and advisory (R521). -/
def State.healthState (s : State) (p : PartId) (st : Nat) (e : Ev) : State :=
  let h := s.health p
  (s.setHealth p { h with st := st }).eventAdvise e { object := p, cause := h.score / 256 } (h.score / 256)

/-- The retirement of a stack or package starts: its free frames leave the pool (R100 step 1). -/
def State.startRetire (s : State) (p : PartId) : State :=
  if p.kind = 1 ∨ p.kind = 2 then { s with tier := { s.tier with retiredParts := s.tier.retiredParts ++ [p] } } else s

/-- A capability register changes (R560). -/
def State.capChange (s : State) : State := s.bump Reg.GLB_CAP_GEN Reg.GLB_CAP_GEN_GEN 1

/-- A part's score set, and the changes of state that follow its rise (R521). -/
def State.raiseScore (s : State) (p : PartId) (new : Nat) : State :=
  let k := p.kind.toNat
  let h := s.health p
  let adv := s.advisePoint k
  let ret := s.retirePoint k
  let s := s.setHealth p { h with score := new }
  let s := if h.st = 0 ∧ adv ≤ new then s.healthState p 1 .healthAdvise else s
  if h.st ≤ 1 ∧ ret ≤ new then
    if s.autoRetire k then (s.healthState p 2 .healthRetireStart).startRetire p
    else if h.score < ret then s.healthState p (s.health p).st .healthAdvise
    else s
  else s

/-- A scored event of a part (R519 to R521). -/
def State.score (s : State) (p : PartId) (e : PartEvent) : State :=
  let w := eventWeight p.kind.toNat e
  let h := s.health p
  if w = 0 ∨ h.st = 3 then s
  else
    let s := s.setHealth p { h with events := (h.events + 1) % 2 ^ 24 }
    s.raiseScore p (min (h.score + w * 256) (2 ^ 32 - 1))

end Sys2Proof.Machine
end

