-- ==== Sys2Proof/Machine/Addr.lean ====
section
/-! DEFINITION. From store address to home (02, 03): interleave sets, slices, channels, the page home table and the
checks of the home on an engine or accelerator request (R35 to R46, R76, R102, R108 to R110, R483). -/

namespace Sys2Proof.Machine

/-! ## Interleave sets -/

def ISet.members (i : ISet) : Nat := Reg.XLT_ISET_CFG_MEMBERS.get i.cfg.toNat
def ISet.gran (i : ISet) : Nat := Reg.XLT_ISET_CFG_GRAN.get i.cfg.toNat
def ISet.lo (i : ISet) : Nat := Reg.XLT_ISET_BASE_BASE.get i.base.toNat * 2 ^ 12
def ISet.bytes (i : ISet) : Nat := Reg.XLT_ISET_SIZE_SIZE.get i.size.toNat * 2 ^ 12
def ISet.localBase (i : ISet) : Nat := Reg.XLT_ISET_LOCAL_LOCAL_BASE.get i.loc.toNat * 2 ^ 12
def ISet.count (i : ISet) : Nat := popcount 32 i.members
def ISet.compNo (i : ISet) : Nat := Reg.TIER_ISET_COMP_COMP.get i.comp.toNat
def ISet.valid (i : ISet) : Bool := bit i.base.toNat 0

/-- The first condition after VALID that a set breaks, 1 to 4; 0 when it breaks none (R36). -/
def ISet.broken (i : ISet) : Nat :=
  let n := i.count
  if ¬ [1, 2, 4, 8, 16, 32].contains n then 1
  else if i.gran < 12 ∨ 30 < i.gran then 2
  else if i.lo % (2 ^ i.gran * n) ≠ 0 ∨ i.bytes % (2 ^ i.gran * n) ≠ 0 then 3
  else if i.localBase + i.bytes / n > 2 ^ 44 then 4
  else 0

/-- The set decodes the rack-local address (R36). -/
def ISet.holds (i : ISet) (a : Nat) : Bool :=
  i.valid && i.broken = 0 && decide (i.lo ≤ a) && decide (a < i.lo + i.bytes)

/-- The member position of an offset: bit i folds every k-th bit of the granule number (R39). -/
def ISet.pos (i : ISet) (o : Nat) : Nat :=
  let k := Nat.log2 i.count
  ofBits k fun j => xorBits o (((List.range 50).map fun t => i.gran + j + k * t).filter (· ≤ 49))

/-- The home module and module-local address of an address the set holds (R39). -/
def ISet.decode (i : ISet) (a : Nat) : Nat × Nat :=
  let o := a - i.lo
  let k := Nat.log2 i.count
  let loc := o / 2 ^ (i.gran + k) * 2 ^ i.gran + o % 2 ^ i.gran
  (((setBits 32 i.members)[i.pos o]?).getD 0, i.localBase + loc)

/-- The set, lowest number first, that decodes a rack-local address (R37, R38). -/
def findSet (t : SMap ISet) (a : Nat) : Option (Nat × ISet) := t.find? fun e => e.2.holds a

/-- The staged set n: what the set registers hold (R35, R108). -/
def State.stagedSet (s : State) (n : Nat) : ISet :=
  let w := fun r => BitVec.ofNat 64 (s.reg r)
  ⟨w (Reg.XLT_ISET_BASE n), w (Reg.XLT_ISET_SIZE n), w (Reg.XLT_ISET_CFG n), w (Reg.XLT_ISET_LOCAL n),
   w (Reg.TIER_ISET_COMP n)⟩

/-- The staged table (R108). -/
def State.staged (s : State) : SMap ISet :=
  (List.range 256).filterMap fun n => if s.stagedSet n = {} then none else some (n, s.stagedSet n)

/-- The current map epoch (R108). -/
def State.epoch (s : State) : Nat := s.fld Reg.TIER_MAP_EPOCH Reg.TIER_MAP_EPOCH_CUR

/-- The decoding set of an address under a request's epoch, and whether the home accepts that epoch (R110). -/
def State.decodeAt (s : State) (epoch a : Nat) : Status × Option (Nat × ISet) :=
  let same := fun (t : SMap ISet) =>
    match findSet t a with
    | some (n, i) => if SMap.get s.tier.cur n {} = i then (Status.ok, some (n, i)) else (Status.staleMap, none)
    | none => (Status.staleMap, none)
  let e := epoch % 2 ^ 16
  let c := s.epoch
  if e = c % 2 ^ 16 then (.ok, findSet s.tier.cur a)
  else if e = (c + 2 ^ 16 - 1) % 2 ^ 16 then same s.tier.prev
  else if e = (c + 1) % 2 ^ 16 then same s.staged
  else (.staleMap, none)

/-! ## Slices, channels, pages -/

/-- The home slice of a module-local address (R40). -/
def sliceOf (l : Nat) : Nat := ofBits 6 fun i => xorBits (l % 2 ^ 44) [8 + i, 14 + i, 20 + i, 26 + i, 32 + i, 38 + i]

/-- The die of a module-local address (R40). -/
def dieOf (l : Nat) : Nat := sliceOf l / 32

/-- A tier's code: 0 HBM4, 1 LPDDR6 (R77). -/
def tierCode : Tier → Nat
  | .hbm => 0
  | .lpddr => 1

/-- The memory channel of a die-relative tier address (R41). -/
def channelOf (t : Tier) (p : Nat) : Nat :=
  match t with
  | .hbm => ofBits 7 fun i => xorBits p [8 + i, 15 + i, 22 + i, 29 + i, 36 + i]
  | .lpddr => ofBits 6 fun i =>
      if i = 0 then xorBits p [8, 10, 16, 22, 28, 34, 40]
      else if i = 1 then xorBits p [9, 11, 17, 23, 29, 35]
      else xorBits p [10 + i, 16 + i, 22 + i, 28 + i, 34 + i]

/-- The stack or package that holds a frame address of a die (R41). -/
def deviceOf (die : Nat) (t : Tier) (p : Nat) : PartId :=
  match t with
  | .hbm => obj 1 (4 * die + channelOf .hbm p / 32)
  | .lpddr => obj 2 (16 * die + channelOf .lpddr p / 4)

/-- The channel of a frame address, numbered across the module. -/
def globalChannel (die : Nat) (t : Tier) (p : Nat) : Nat :=
  match t with
  | .hbm => 128 * die + channelOf .hbm p
  | .lpddr => 64 * die + channelOf .lpddr p

/-- Where a byte of a frame lies in the model's memory list. -/
def cellKey (die : Nat) (t : Tier) (p : Nat) : Nat := die * 2 ^ 42 + tierCode t * 2 ^ 41 + p

/-- WINDOW in bytes (R76, R77). -/
def State.window (s : State) : Nat := min (s.fld Reg.TIER_PHT_CFG Reg.TIER_PHT_CFG_WINDOW) 0x800000 * 2 ^ 21

/-- The page home table entry of a page; none is UNBACKED (R77). -/
def State.page (s : State) (n : Nat) : Option PhtEnt := SMap.find s.tier.pht n

/-- The tier and frame address that hold a module-local address now (R81, R82). -/
def State.frameOf (s : State) (l : Nat) : Option (Tier × Nat) :=
  match s.page (l / 4096) with
  | none => none
  | some e =>
    match e.st with
    | .resident => some (e.tier, e.frame * 4096 + l % 4096)
    | .moving =>
      let sl := SMap.get s.tier.slots e.slot { page := 0, tier := .hbm, frame := 0 }
      if bit sl.mask (l % 4096 / 256) then some (sl.tier, sl.frame * 4096 + l % 4096)
      else some (e.tier, e.frame * 4096 + l % 4096)

/-- Where a module-local byte lies in the memory list, if its page is backed. -/
def State.cell (s : State) (l : Nat) : Option Nat :=
  (s.frameOf l).map fun (t, p) => cellKey (dieOf l) t p

/-! ## Regions and grants -/

/-- The region that holds a module-local address (R483). -/
def State.regionOf (s : State) (l : Nat) : Option (Nat × Region) :=
  s.sec.regions.find? fun e =>
    e.2.valid && decide (e.2.base * 2 ^ 21 ≤ l) && decide (l < (e.2.base + e.2.size) * 2 ^ 21)

/-- The grant code of a context in a region (R45, R484): the newest write that covers it. -/
def State.grantCode (s : State) (region ctx : Nat) : Nat :=
  match (SMap.get s.sec.grants region []).find? fun g => g.lo ≤ ctx ∧ ctx ≤ g.hi with
  | some g => g.code
  | none => 0

/-- Whether a grant code permits an access (R45). -/
def granted (code : Nat) (write : Bool) : Bool := code = 3 || (code = 1 && !write)

/-- The composition whose current set places a module-local address on this module (R113). -/
def State.compOf (s : State) (l : Nat) : Option Nat :=
  (s.tier.cur.find? fun e =>
    e.2.valid && e.2.broken = 0 && bit e.2.members s.module && decide (e.2.localBase ≤ l) &&
      decide (l < e.2.localBase + e.2.bytes / e.2.count)).map fun e => e.2.compNo

/-! ## The checks of the home -/

/-- Check 1 of R46: whether this home takes requests of a source (R24, R25). -/
def State.partitionOk (s : State) (src : ReqSrc) : Bool :=
  let mods := s.fld Reg.GLB_PART_MEMBERS Reg.GLB_PART_MEMBERS_MODULES
  match src with
  | .queue _ | .steward => true
  | .peer m => bit mods m.val || m.val = s.module
  | .acc p => bit (s.fld Reg.GLB_PART_MEMBERS Reg.GLB_PART_MEMBERS_ACCEL) p.val
  | .gateway g => (bit mods g.val || g.val = s.module) && s.flag Reg.GLB_PART_CTL Reg.GLB_PART_CTL_HALL

/-- Checks 4 and 5 of R46 and the region's containment, at a module-local address (R45, R46, R483, R498). -/
def State.regionCheck (s : State) (ctx l : Nat) (write graded : Bool) : Status :=
  if ctx = 0 then
    match s.regionOf l with
    | some (r, _) => if s.isContained (obj 0x12 r) then .poison else .ok
    | none => .ok
  else
    match s.regionOf l with
    | none => .prot
    | some (r, g) =>
      if g.world && !s.secureCtx ctx then .prot
      else if graded && (!granted (s.grantCode r ctx) write || s.isContained (obj 0x11 ctx)) then .prot
      else if s.isContained (obj 0x12 r) then .poison
      else .ok

/-- Checks 2 to 5 of R46 at one page: the module-local address, or the status that ends the request. -/
def State.pageCheck (s : State) (ctx epoch a : Nat) (write : Bool) : Except Status Nat :=
  match s.decodeAt epoch a with
  | (.ok, none) => .error .invalid
  | (.ok, some (_, i)) =>
    let (m, l) := i.decode a
    if m ≠ s.module then .error .invalid
    else if s.isContained (obj 0x13 i.compNo) then .error .fenced
    else
      match s.regionCheck ctx l write true with
      | .ok => .ok l
      | st => .error st
  | (st, _) => .error st

/-- The first failure of a list of checks, lowest page first; else the module-local addresses. -/
def checkAll (s : State) (ctx epoch : Nat) (write : Bool) : List (Nat × Nat) → Except Status (List (Nat × Nat))
  | [] => .ok []
  | (a, n) :: rest =>
    match s.pageCheck ctx epoch a write with
    | .error e => .error e
    | .ok l =>
      match checkAll s ctx epoch write rest with
      | .error e => .error e
      | .ok ls => .ok ((l, n) :: ls)

/-- What a request's context and source alone decide: check 0, a context that the source may not carry, check 1 (R42, R43,
R46). -/
def State.sourceCheck (s : State) (src : ReqSrc) (ctx : Nat) : Status :=
  if ctx = 0xFFFF then .invalid
  else if ctx = 0 && (match src with | .acc _ => true | _ => false) then .prot
  else if !s.partitionOk src then .fenced
  else .ok

/-- Checks 0 to 5 of R46 on a request that names the given pages of this rack; the module-local pieces on success. -/
def State.pagesCheck (s : State) (src : ReqSrc) (ctx epoch : Nat) (ps : List (Nat × Nat)) (write : Bool) :
    Except Status (List (Nat × Nat)) :=
  match s.sourceCheck src ctx with
  | .ok => checkAll s ctx epoch write ps
  | st => .error st

/-- Checks 0 to 5 of R46 on a request for [a, a + len) of this rack, page by page; the module-local pieces on success. -/
def State.homeCheck (s : State) (src : ReqSrc) (ctx epoch a len : Nat) (write : Bool) :
    Except Status (List (Nat × Nat)) :=
  s.pagesCheck src ctx epoch (cut 4096 a (max len 1)) write

/-- The extent that holds a module-local address (R102). -/
def State.extentOf (s : State) (l : Nat) : Option (Nat × Extent) :=
  s.tier.extents.find? fun e => decide (e.2.base ≤ l) && decide (l < e.2.base + e.2.len)

/-- What ends a request that has passed R46: an address beyond WINDOW or UNBACKED, then a draining extent (R76, R102; log 92). -/
def State.placeCheck (s : State) (l : Nat) : Status :=
  if l ≥ s.window ∨ (s.page (l / 4096)).isNone then .invalid
  else
    match s.extentOf l with
    | some (_, x) => if x.st = .draining ∨ x.st = .scrubbing then .revoked else .ok
    | none => .ok

/-- The first status other than ok. -/
def firstBad : List Status → Status
  | [] => .ok
  | .ok :: rest => firstBad rest
  | st :: _ => st

/-- An access to a chunk adds to its page's COUNT (R93). -/
def State.countPage (s : State) (l : Nat) : State :=
  { s with tier := { s.tier with adds := SMap.set s.tier.adds (l / 4096) (SMap.get s.tier.adds (l / 4096) 0 + 1) 0 } }

/-- Bytes of an accepted request join the meters of the composition that holds them (R113). -/
def State.countBytes (s : State) (write : Bool) (l n : Nat) : State :=
  match s.compOf l with
  | none => s
  | some c =>
    let m := SMap.get s.tier.meters c {}
    let m' := if write then { m with wr := (m.wr + n) % 2 ^ 64 } else { m with rd := (m.rd + n) % 2 ^ 64 }
    { s with tier := { s.tier with meters := SMap.set s.tier.meters c m' {} } }

/-- What the slices count of a request to a chunk that they accept (R93, R113). -/
def State.accept (s : State) (write counts : Bool) (l n : Nat) : State :=
  let s := if counts then s.countPage l else s
  if n = 0 then s else s.countBytes write l n

end Sys2Proof.Machine
end

