-- ==== Sys2Proof/Machine/Operands.lean ====
section
/-! DEFINITION. Descriptors (04): the standard and the Tadpole form read into one 64-byte layout, and the checks of R128
on header and operands. -/

namespace Sys2Proof

/-- Status codes (R140). -/
def Status.code : Status → Nat
  | .ok => 0 | .part => 1 | .poison => 2 | .fault => 3 | .prot => 4 | .rate => 5 | .staleMap => 6 | .revoked => 7
  | .lostState => 8 | .tierErr => 9 | .aborted => 10 | .invalid => 11 | .unsupported => 12 | .fenced => 13
  | .timeout => 14

end Sys2Proof

namespace Sys2Proof.Machine

/-! ## Fields of a descriptor in the standard layout -/

def dOpcode (b : List Byte) : Nat := fieldLE b 0 1
def dFlags (b : List Byte) : Nat := fieldLE b 1 1
def dCmpl (b : List Byte) : Bool := bit (dFlags b) 1
def dIrq (b : List Byte) : Bool := bit (dFlags b) 2
def dRelaxed (b : List Byte) : Bool := bit (dFlags b) 3
def dSubop (b : List Byte) : Nat := fieldLE b 2 1
def dEng (b : List Byte) : Nat := fieldLE b 3 1
def dTag (b : List Byte) : Nat := fieldLE b 4 4
def dDeadline (b : List Byte) : Nat := fieldLE b 8 4

/-- Operand word k of six: bytes 16 + 8k to 23 + 8k. -/
def dOp (b : List Byte) (k : Nat) : Nat := fieldLE b (16 + 8 * k) 8

/-- Opcodes that have a Tadpole form (R126). -/
def tadpoleOpcodes : List Nat := [0x00, 0x10, 0x12, 0x20]

/-- Every opcode of R126's table. -/
def opcodes : List Nat :=
  [0x00, 0x01, 0x02, 0x03, 0x04, 0x05, 0x10, 0x11, 0x12, 0x20, 0x30, 0x32, 0x33, 0x34, 0x40, 0x41, 0x42, 0x43,
   0x50, 0x51, 0x52, 0x60, 0x70, 0x71]

/-- A row of six operand words as bytes 16 to 63. -/
def opBytes (l : List Nat) : List Byte := fitBytes 48 (l.flatMap (natLE 8))

/-- A fetched descriptor in the standard layout. A Tadpole runs on any engine without a deadline (R125); the indices of
its `GATHER_ROWS` are 4 bytes wide and its table has no row limit (R269). -/
def FDesc.normal (d : FDesc) : List Byte :=
  if ¬ d.tad then fitBytes 64 d.bytes
  else
    let b := d.bytes
    let small := fieldLE b 3 1
    let count := if fieldLE b 6 2 = 0 then 65536 else fieldLE b 6 2
    let a := fieldLE b 8 8
    let bb := fieldLE b 16 8
    let c := fieldLE b 24 8
    let hdr := b.take 3 ++ [0xFF] ++ natLE 4 (fieldLE b 4 2) ++ natLE 8 0
    hdr ++ opBytes (
      match dOpcode b with
      | 0x10 => [a, bb, c]
      | 0x12 => [a, bb, c, count + 4 * 2 ^ 32, 2 ^ small, 2 ^ 64 - 1]
      | 0x20 => [a, bb, c, 0, small]
      | _ => [])

/-- Check 1 of R128: TP, reserved header bits, opcode, Tadpole form. -/
def FDesc.headerOk (d : FDesc) : Bool :=
  decide (bit (dFlags d.bytes) 0 = d.tad) && decide (bits (dFlags d.bytes) 7 4 = 0) &&
  opcodes.contains (dOpcode d.bytes) &&
  (if d.tad then tadpoleOpcodes.contains (dOpcode d.bytes) else decide (fieldLE d.bytes 12 4 = 0))

/-- The kind of engine that an opcode runs on (R126), if it needs one. -/
def unitOf (opcode : Nat) : Option EngKind :=
  match opcode with
  | 0x02 | 0x03 | 0x10 | 0x11 | 0x12 => some .newt
  | 0x30 | 0x32 | 0x33 | 0x34 => some .kettle
  | 0x40 | 0x41 | 0x42 | 0x43 => some .gecko
  | 0x50 | 0x51 | 0x52 => some .emb
  | 0x60 => some .mover
  | _ => none

/-- Check 2 of R128: the unit is present (R2, R4). An ENG outside 0x00 to 0x1F is left to check 4. -/
def State.unitOk (s : State) (b : List Byte) : Bool :=
  match unitOf (dOpcode b) with
  | none => true
  | some k =>
    match Fin.ofNat? (dEng b) with
    | some i => s.present ⟨k, i⟩
    | none => !(s.presentOf k).isEmpty
where
  /-- An engine index. -/
  Fin.ofNat? (n : Nat) : Option (Fin 32) := if h : n < 32 then some ⟨n, h⟩ else none

/-- Opcodes that only a maintenance queue may use (R126). -/
def maintOnly (opcode : Nat) : Bool := opcode = 0x60 || opcode = 0x70 || opcode = 0x71

/-- A 57-bit virtual address (R49), and a scratchpad offset (R222). -/
def isVa (a : Nat) : Bool := decide (a < 2 ^ 57)
def isPad (a : Nat) : Bool := decide (a < 2 ^ 32)

/-- A memory operand, or when the SUBOP bit is set a scratchpad operand of n bytes, no byte of which lies at an invalid offset
(R222). -/
def placeOk (pad : Bool) (a n : Nat) : Bool := if pad then isPad a && decide (n = 0 ∨ a + n ≤ 2 ^ 32) else isVa a

/-- The bytes from the first to the last of k rows of n bytes. -/
def rowsSpan (pitch n k : Nat) : Nat := if k = 0 ∨ n = 0 then 0 else (k - 1) * pitch + n

/-- Two ranges share a byte. -/
def overlap (a m b n : Nat) : Bool := decide (0 < m) && decide (0 < n) && decide (a < b + n) && decide (b < a + m)

/-- Whether any source row of a `COPY_2D` shares a byte with any destination row (R266): rows of n bytes, src + i × sp
and dst + j × dp, both i and j below k. For each i, the destination rows in question are those of lowest and next
number that end above the source row's start. -/
def rowsOverlap (src sp dst dp n k : Nat) : Bool :=
  (List.range k).any fun i =>
    let a := src + i * sp
    let j0 := if dp = 0 then 0 else (a + 1 - (dst + n)) / dp
    [j0, j0 + 1].any fun j => decide (j < k) && overlap a n (dst + j * dp) n

/-- The widths and alignment of an `ATOMIC` (R18, R184, R186). -/
def atomicOk (b : List Byte) : Bool :=
  let w := dOp b 4
  let sub := dSubop b
  decide (sub ≤ 0x0A) && (w = 4 || (w = 8 && sub ≠ 0x0A)) && isVa (dOp b 0) && decide (dOp b 0 % w = 0) &&
  isVa (dOp b 3) && decide (dOp b 3 % w = 0) && dOp b 5 = 0

/-- The Tadpole operands that its opcode does not use are zero (R125). -/
def tadpoleZero (b : List Byte) : Bool :=
  let small := fieldLE b 3 1
  let count := fieldLE b 6 2
  match dOpcode b with
  | 0x00 => small = 0 && count = 0 && fieldLE b 8 8 = 0 && fieldLE b 16 8 = 0 && fieldLE b 24 8 = 0
  | 0x10 => small = 0 && count = 0 && decide (fieldLE b 24 8 < 2 ^ 32)
  | 0x12 => decide (6 ≤ small) && decide (small ≤ 12)
  | _ => count = 0

/-- Rows of memory that a `MOVE_TILE` STAGE touches: start of row i, number of rows, bytes of a row (03, the FMT table). -/
def stageRows (b : List Byte) : Nat × Nat × Nat :=
  let fmt := bits (dOp b 0) 7 4
  let count := bits (dOp b 0) 63 32
  let pitch := dOp b 4
  match fmt with
  | 0 => (4096, count, 4096)
  | 1 => (pitch, bits (dOp b 5) 31 0, bits (dOp b 5) 63 32)
  | 4 => (pitch, 32 * count, 128)
  | _ => (pitch, 64 * count, 64)

/-- Bytes of scratchpad that a STAGE touches. -/
def stagePadLen (b : List Byte) : Nat :=
  if bits (dOp b 0) 7 4 = 1 then (stageRows b).2.1 * (stageRows b).2.2 else 4096 * bits (dOp b 0) 63 32

/-- The operands of a `MOVE_TILE` (R88, R89); `win` is WINDOW in bytes. A MEM beyond WINDOW fails also where COUNT is 0, and an
OWNER_KIND above 1 is out of range (log 93). -/
def moveTileOk (win : Nat) (b : List Byte) : Bool :=
  let w0 := dOp b 0
  let mode := bits w0 3 0
  let fmt := bits w0 7 4
  let tier := bits w0 8 8
  let host := bits w0 9 9
  let head := bits w0 11 10
  let cold := bits w0 23 16
  let hot := bits w0 31 24
  let count := bits w0 63 32
  let mem := dOp b 1
  let aux := dOp b 2
  let limit := bits (dOp b 3) 31 0
  let owner := bits (dOp b 3) 39 32
  let pitch := dOp b 4
  let rows := dOp b 5
  let pages := decide (mem % 4096 = 0) && decide (mem + 4096 * count ≤ win)
  dSubop b = 0 && bits w0 15 12 = 0 && bits (dOp b 3) 63 40 = 0 &&
  (if mode ≤ 2 then
    fmt = 0 && host = 0 && head = 0 && cold = 0 && hot = 0 && aux = 0 && limit = 0 && owner = 0 && pitch = 0 &&
    rows = 0 && (mode ≤ 1 || tier = 0) && pages
  else if mode = 5 then
    fmt = 0 && tier = 0 && host = 0 && head = 0 && owner = 0 && pitch = 0 && rows = 0 && pages
  else if mode = 3 ∨ mode = 4 then
    let (p, n, len) := stageRows b
    let padLen := stagePadLen b
    decide (fmt ≤ 4) && tier = 0 && cold = 0 && hot = 0 && limit = 0 && (host = 1 || head = 0) && isPad aux &&
    decide (owner < 64) && decide (pitch % 64 = 0) &&
    (if fmt = 1 then decide (aux % 64 = 0) && decide (mem % 64 = 0) && count = 0 && decide (len % 64 = 0)
     else decide (aux % 4096 = 0) && decide (mem % 4096 = 0) && rows = 0) &&
    (fmt ≠ 0 || pitch = 0) &&
    (host = 1 || n = 0 || decide (mem + (n - 1) * p + len ≤ win)) &&
    (padLen = 0 || decide (aux / 2 ^ 31 = (aux + padLen - 1) / 2 ^ 31))
  else false)

/-- Check 4 of R128 for the operands of the opcodes whose owning chapters are 02, 03, 04, 05 and 08. Every unused byte is
reserved, and a reserved byte that is not zero fails the check (DEDUCED, log 23). -/
def plainOperandsOk (win : Nat) (b : List Byte) : Bool :=
  let sub := dSubop b
  let o := dOp b
  let zero := fun (ks : List Nat) => ks.all fun k => o k = 0
  match dOpcode b with
  | 0x00 | 0x01 => sub = 0 && zero [0, 1, 2, 3, 4, 5]
  | 0x02 => decide (sub ≤ 2) && isVa (o 0) && decide (o 0 % 8 = 0) && zero [2, 3, 4, 5]
  | 0x03 => decide (sub ≤ 1) && isVa (o 0) && decide (o 0 % 8 = 0) && zero [2, 3, 4, 5]
  | 0x04 | 0x05 => decide (sub ≤ 1) && (sub = 0 || dEng b ≠ 0xFF) && isVa (o 0) && decide (o 0 % 64 = 0) &&
      decide (o 1 % 64 = 0) && zero [2, 3, 4, 5]
  | 0x10 => decide (sub ≤ 3) && (sub = 0 || dEng b ≠ 0xFF) && placeOk (bit sub 0) (o 0) (o 2) && placeOk (bit sub 1) (o 1) (o 2) &&
      decide (o 2 < 2 ^ 40) && (bit sub 0 != bit sub 1 || !overlap (o 0) (o 2) (o 1) (o 2)) && zero [3, 4, 5]
  | 0x11 =>
      let n := bits (o 4) 31 0
      let k := bits (o 4) 63 32
      decide (sub ≤ 3) && (sub = 0 || dEng b ≠ 0xFF) && placeOk (bit sub 0) (o 0) (rowsSpan (o 2) n k) &&
      placeOk (bit sub 1) (o 1) (rowsSpan (o 3) n k) && decide (n ≤ o 3) && (bit sub 0 != bit sub 1 || !rowsOverlap (o 0) (o 2) (o 1) (o 3) n k) && zero [5]
  | 0x12 =>
      decide (sub ≤ 3) && (sub = 0 || dEng b ≠ 0xFF) && placeOk (bit sub 0) (o 0) (o 5 * o 4) &&
      placeOk (bit sub 1) (o 1) (bits (o 3) 31 0 * o 4) && isVa (o 2) && decide (o 4 % 64 = 0) && decide (64 ≤ o 4) && decide (o 4 ≤ 2 ^ 20) && o 5 ≠ 0 &&
      (bits (o 3) 63 32 = 4 || bits (o 3) 63 32 = 8)
  | 0x20 => atomicOk b
  | 0x60 => moveTileOk win b
  | 0x70 => sub = 0 && decide (o 0 < 2 ^ 16) && isVa (o 1) && decide (o 1 % 4096 = 0) && decide (o 2 < 2 ^ 32) &&
      zero [3, 4, 5]
  | 0x71 => sub = 0 && decide (o 0 < 2 ^ 16) && decide (o 1 < 2 ^ 32) && zero [2, 3, 4, 5]
  | _ => true

end Sys2Proof.Machine
end

