-- ==== Sys2Proof/Machine/Float.lean ====
section
/-! DEFINITION. Number formats and exact arithmetic (09): decoding, rounding to nearest even, conversions out of FP32,
the group sums of the arrays and the functions of the Blend unit. Codes are natural numbers. -/

namespace Sys2Proof.Machine

/-- A number: NaN, an infinity, or ± m × 2^e. -/
inductive Fv where
  | nan
  | inf (neg : Bool)
  | fin (neg : Bool) (m : Nat) (e : Int)
  deriving DecidableEq, Repr

/-- How a format treats its largest codes (09, "Floating-point elements"). -/
inductive FmtClass where
  | ieee | e4m3 | plain
  deriving DecidableEq, Repr

/-- A floating-point element format. -/
structure Fmt where
  eb : Nat
  mb : Nat
  bias : Nat
  cls : FmtClass
  deriving DecidableEq, Repr

def Fmt.fp32 : Fmt := ⟨8, 23, 127, .ieee⟩
def Fmt.bf16 : Fmt := ⟨8, 7, 127, .ieee⟩
def Fmt.fp16 : Fmt := ⟨5, 10, 15, .ieee⟩
def Fmt.e5m2 : Fmt := ⟨5, 2, 15, .ieee⟩
def Fmt.e4m3 : Fmt := ⟨4, 3, 7, .e4m3⟩
def Fmt.e2m3 : Fmt := ⟨2, 3, 1, .plain⟩
def Fmt.e3m2 : Fmt := ⟨3, 2, 3, .plain⟩
def Fmt.e2m1 : Fmt := ⟨2, 1, 1, .plain⟩

/-- The width of a format's codes. -/
def Fmt.width (f : Fmt) : Nat := 1 + f.eb + f.mb

/-- The number that a code stands for; subnormals at their value. -/
def Fmt.dec (f : Fmt) (w : Nat) : Fv :=
  let neg := bit w (f.eb + f.mb)
  let x := bits w (f.eb + f.mb - 1) f.mb
  let m := w % 2 ^ f.mb
  let top := x = 2 ^ f.eb - 1
  if f.cls = .ieee ∧ top then (if m = 0 then .inf neg else .nan)
  else if f.cls = .e4m3 ∧ top ∧ m = 2 ^ f.mb - 1 then .nan
  else if x = 0 then .fin neg m (1 - (f.bias : Int) - f.mb)
  else .fin neg (2 ^ f.mb + m) ((x : Int) - f.bias - f.mb)

/-- A quotient rounded to nearest, ties to even. -/
def rneDiv (n d : Nat) : Nat :=
  let q := n / d
  let r := n % d
  if 2 * r > d ∨ (2 * r = d ∧ q % 2 = 1) then q + 1 else q

/-- The floor of log2 (n / d), for n and d not zero. -/
def flog2Div (n d : Nat) : Int :=
  let a : Int := (Nat.log2 n : Int) - Nat.log2 d
  let ge := if a ≥ 0 then decide (n ≥ d * 2 ^ a.toNat) else decide (n * 2 ^ (-a).toNat ≥ d)
  if ge then a else a - 1

/-- The code, without a bound on the exponent field, of n / d × 2^e rounded to nearest even in a format. -/
def Fmt.mag (f : Fmt) (n d : Nat) (e : Int) : Nat :=
  if n = 0 then 0 else
    let tmin : Int := 1 - (f.bias : Int) - f.mb
    let t := max (flog2Div n d + e - f.mb) tmin
    let s := e - t
    let k := if s ≥ 0 then rneDiv (n * 2 ^ s.toNat) d else rneDiv n (d * 2 ^ (-s).toNat)
    (t - tmin).toNat * 2 ^ f.mb + k

/-- The code of the largest finite magnitude. -/
def Fmt.maxCode (f : Fmt) : Nat :=
  match f.cls with
  | .ieee => (2 ^ f.eb - 1) * 2 ^ f.mb - 1
  | .e4m3 => 2 ^ (f.eb + f.mb) - 2
  | .plain => 2 ^ (f.eb + f.mb) - 1

/-- A magnitude code with its sign. -/
def Fmt.signed (f : Fmt) (neg : Bool) (c : Nat) : Nat := c + neg.toNat * 2 ^ (f.eb + f.mb)

/-- The canonical FP32 NaN (R284), and the infinities. -/
def nan32 : Nat := 0x7FC00000
def inf32 (neg : Bool) : Nat := 0x7F800000 + neg.toNat * 2 ^ 31

/-- ± n / d × 2^e rounded once to FP32. -/
def round32 (neg : Bool) (n d : Nat) (e : Int) : Nat :=
  let c := Fmt.fp32.mag n d e
  if c > Fmt.fp32.maxCode then inf32 neg else Fmt.fp32.signed neg c

/-- A number rounded once to FP32. -/
def Fv.to32 : Fv → Nat
  | .nan => nan32
  | .inf n => inf32 n
  | .fin n m e => round32 n m 1 e

/-- The FP32 number of a code. -/
def f32 (w : Nat) : Fv := Fmt.fp32.dec w

/-- The sign of a number. -/
def Fv.neg : Fv → Fv
  | .nan => .nan
  | .inf n => .inf !n
  | .fin n m e => .fin (!n) m e

/-- The integer m × 2^(e - base) of a finite number, for base at most e. -/
def fixInt (neg : Bool) (m : Nat) (e base : Int) : Int :=
  let v : Int := (m * 2 ^ (e - base).toNat : Nat)
  if neg then -v else v

/-- The exact sum (IEEE 754: opposite zeros, and opposite equal numbers, give +0). -/
def Fv.add : Fv → Fv → Fv
  | .nan, _ => .nan
  | _, .nan => .nan
  | .inf a, .inf b => if a = b then .inf a else .nan
  | .inf a, .fin .. => .inf a
  | .fin .., .inf b => .inf b
  | .fin a m e, .fin b n g =>
    let base := min e g
    let v := fixInt a m e base + fixInt b n g base
    if v = 0 then .fin (a && b) 0 base else .fin (decide (v < 0)) v.natAbs base

/-- The exact product. -/
def Fv.mul : Fv → Fv → Fv
  | .nan, _ => .nan
  | _, .nan => .nan
  | .inf a, .inf b => .inf (a != b)
  | .inf a, .fin b m _ => if m = 0 then .nan else .inf (a != b)
  | .fin a m _, .inf b => if m = 0 then .nan else .inf (a != b)
  | .fin a m e, .fin b n g => .fin (a != b) (m * n) (e + g)

/-- FP32 operations of the Blend unit, correctly rounded (R290). -/
def add32 (a b : Nat) : Nat := ((f32 a).add (f32 b)).to32
def sub32 (a b : Nat) : Nat := ((f32 a).add (f32 b).neg).to32
def mul32 (a b : Nat) : Nat := ((f32 a).mul (f32 b)).to32
def fma32 (a b c : Nat) : Nat := (((f32 a).mul (f32 b)).add (f32 c)).to32

/-- A key that orders FP32 numbers, −0 below +0. -/
def ord32 (w : Nat) : Int := if bit w 31 then -(1 + (w % 2 ^ 31 : Nat) : Int) else (w % 2 ^ 31 : Nat)

def isNan32 (w : Nat) : Bool := f32 w = .nan
def isInf32 (w : Nat) : Bool := w % 2 ^ 31 = 0x7F800000

/-- MAX and MIN: NaN if either input is NaN; +0 ranks above −0 (R290). -/
def max32 (a b : Nat) : Nat :=
  if isNan32 a || isNan32 b then nan32 else if ord32 a ≥ ord32 b then a else b
def min32 (a b : Nat) : Nat :=
  if isNan32 a || isNan32 b then nan32 else if ord32 a ≤ ord32 b then a else b

/-- Less than, on numbers: −0 equals +0; false for NaN. -/
def lt32 (a b : Nat) : Bool :=
  if isNan32 a || isNan32 b then false
  else if a % 2 ^ 31 = 0 && b % 2 ^ 31 = 0 then false else decide (ord32 a < ord32 b)

/-! ## Exact group sums (R282, R284) -/

/-- The flags of `KTL_FLAGS_n`, bits 0 to 6 (R291). -/
def flNan : Nat := 1
def flInf : Nat := 2
def flOvf : Nat := 4
def flSat : Nat := 8
def flConv : Nat := 16
def flIsat : Nat := 32
def flBlock : Nat := 64

/-- The exact sum of a list; −0 only when every term is −0 (R284). -/
def Fv.sum : List Fv → Fv
  | [] => .fin false 0 0
  | [x] => x
  | x :: xs => x.add (Fv.sum xs)

/-- A group sum rounded once to FP32, with the flags it raises (R284). -/
def groupSum (terms : List Fv) (anyNan anyInf : Bool) : Nat × Nat :=
  let v := Fv.sum terms
  let r := v.to32
  let fl := (if anyNan then flNan else 0) + (if anyInf then flInf else 0)
  match v with
  | .fin .. => (r, fl + (if isInf32 r then flOvf else 0))
  | _ => (r, fl)

/-- The accumulator after a group sum, and the overflow flag; NaN and infinities stay (R282, R284). -/
def accAdd (acc g : Nat) : Nat × Nat :=
  if isNan32 acc || isInf32 acc then (acc, 0)
  else
    let r := add32 acc g
    (r, if isInf32 r && !isInf32 g then flOvf else 0)

/-- Saturation to INT32 (R283). -/
def satI32 (i : Int) : Int × Bool :=
  if i > 2 ^ 31 - 1 then (2 ^ 31 - 1, true) else if i < -(2 ^ 31) then (-(2 ^ 31), true) else (i, false)

/-! ## Conversions out of FP32 (R287) -/

/-- FP32 to a floating-point element: the code and the flags. -/
def Fmt.conv (f : Fmt) (sat : Bool) (v : Fv) : Nat × Nat :=
  let beyond := fun (neg : Bool) =>
    match f.cls with
    | .plain => (f.signed neg f.maxCode, flSat)
    | .ieee => if sat then (f.signed neg f.maxCode, flSat) else (f.signed neg (f.maxCode + 1), flOvf)
    | .e4m3 => if sat then (f.signed neg f.maxCode, flSat) else (0x7F, flOvf)
  match v with
  | .nan =>
    match f.cls with
    | .ieee => (f.maxCode + 1 + (if f.mb = 2 then 3 else 2 ^ (f.mb - 1)), 0)
    | .e4m3 => (0x7F, 0)
    | .plain => (0, flConv)
  | .inf neg => if f.cls = .plain then (f.signed neg f.maxCode, flConv) else beyond neg
  | .fin neg m e =>
    let c := f.mag m 1 e
    if c > f.maxCode then beyond neg else (f.signed neg c, 0)

/-- A finite number rounded to an integer, ties to even. -/
def rneInt (neg : Bool) (m : Nat) (e : Int) : Int :=
  let k : Nat := if e ≥ 0 then m * 2 ^ e.toNat else rneDiv m (2 ^ (-e).toNat)
  if neg then -(k : Int) else k

/-- FP32 to a two's complement element of w bits (R287). -/
def convInt (w : Nat) (v : Fv) : Nat × Nat :=
  let hi : Int := 2 ^ (w - 1) - 1
  let lo : Int := -(2 ^ (w - 1))
  match v with
  | .nan => (0, flConv)
  | .inf neg => (wrap w (if neg then lo else hi), flConv)
  | .fin neg m e =>
    let i := rneInt neg m e
    if i > hi then (wrap w hi, flSat) else if i < lo then (wrap w lo, flSat) else (wrap w i, 0)

/-- x × 2^k exactly. -/
def Fv.scale : Fv → Int → Fv
  | .fin n m e, k => .fin n m (e + k)
  | v, _ => v

/-- The floor of log2 of a number not zero. -/
def Fv.flog2 : Fv → Int
  | .fin _ m e => if m = 0 then 0 else (Nat.log2 m : Int) + e
  | _ => 0

/-- emax of an MX element format (R288). -/
def Fmt.emax (f : Fmt) : Int :=
  if f = .e4m3 then 8 else if f = .e5m2 then 15 else if f = .e2m3 then 2 else if f = .e3m2 then 4 else 2

/-- A block of up to 32 lanes converted to MX (R288): scale, elements, flags. -/
def mxBlock (f : Fmt) (lanes : List Nat) : Nat × List Nat × Nat :=
  let vs := lanes.map f32
  let bad := lanes.any fun w => isNan32 w || isInf32 w
  let amax := lanes.foldl (fun a w => max a (w % 2 ^ 31)) 0
  if bad then (0xFF, lanes.map fun _ => 0, flBlock)
  else if amax = 0 then (0, lanes.map fun _ => 0, 0)
  else
    let x := min (max ((f32 amax).flog2 - f.emax) (-127)) 127
    let es := vs.map fun v => f.conv true (v.scale (-x))
    ((x + 127).toNat, es.map (·.1), es.foldl (fun a e => a ||| e.2) 0)

/-- FP32 rounded to a BF16 code without saturation, with its flags (R287, R289). -/
def toBf16 (w : Nat) : Nat × Nat := Fmt.bf16.conv false (f32 w)

/-- FP32 of a BF16 code. -/
def ofBf16 (c : Nat) : Nat := c % 2 ^ 16 * 2 ^ 16

/-- The correctly rounded FP32 quotient of a number and a positive finite one. -/
def div32 (a b : Nat) : Nat :=
  match f32 a, f32 b with
  | .fin n m e, .fin k p g => if p = 0 then nan32 else round32 (n != k) m p (e - g)
  | .inf n, .fin k _ _ => inf32 (n != k)
  | _, _ => nan32

/-- The least and the greatest of a row of FP32 lanes. -/
def rowMin (l : List Nat) : Nat := l.foldl min32 (l.headD 0)
def rowMax (l : List Nat) : Nat := l.foldl max32 (l.headD 0)

/-- A row converted to RS8 (q = 255) or RS4 (q = 15) (R289): scale word, codes, flags. -/
def rsRow (q : Nat) (lanes : List Nat) : Nat × List Nat × Nat :=
  if lanes.any fun w => isNan32 w || isInf32 w then (0x7FC0, lanes.map fun _ => 0, flBlock)
  else
    let lo := rowMin lanes
    let hi := rowMax lanes
    let sf := div32 (sub32 hi lo) (round32 false q 1 0)
    let (scale, f1) := toBf16 sf
    let (off, f2) := toBf16 lo
    let codes := lanes.zipIdx.map fun (w, i) =>
      if scale % 2 ^ 15 = 0 then 0 else
        match (f32 w).add (Fmt.bf16.dec off).neg, Fmt.bf16.dec scale with
        | .fin n m e, .fin k p g =>
          let t := e - g
          let r : Nat := if t ≥ 0 then rneDiv (m * 2 ^ t.toNat) p else rneDiv m (p * 2 ^ (-t).toNat)
          if n != k then 0 else min r q
        | .fin .., _ => 0
        | .inf n, .fin k _ _ => if n != k then 0 else q
        | _, _ => Config.rsCode lanes i % (q + 1)
    (scale + off * 2 ^ 16, codes, f1 ||| f2)

/-! ## Functions with an error bound (R290)

Each is a free FP32 number among those within the stated bound of the exact result, which is worked out to far more bits than
FP32 has; the exact result rounded stands for it where the free value lies outside (log 10). -/

/-- A free FP32 code that meets a condition, else a given one that does. -/
def freeCode (seed : Nat) (ok : Nat → Bool) (c : Nat) : Nat :=
  let x := Config.freeNat seed % 2 ^ 32
  if ok x then x else c

/-- The magnitude of the difference of two numbers is at most 2^e times b; false unless both are finite. -/
def Fv.near (x y : Fv) (b : Nat) (e : Int) : Bool :=
  match x.add y.neg with
  | .fin _ m g => match (Fv.fin false b e).add (.fin true m g) with
    | .fin n k _ => !n || k = 0
    | _ => false
  | _ => false

/-- A free result within b units in the last place of n / d × 2^e, not below `lo`. -/
def nearUlp (neg : Bool) (n d : Nat) (e : Int) (b lo seed : Nat) : Nat :=
  let c := round32 neg n d e
  let u := flog2Div n d + e - 23
  freeCode seed (fun x =>
    decide (lo ≤ x % 2 ^ 31) && (((f32 x).mul (.fin false d 0)).near (.fin neg n e) (b * d) u)) c

/-- The integer square root of a number below 2^(2k). -/
def isqrt : Nat → Nat → Nat
  | 0, _ => 0
  | k + 1, n =>
    let r := isqrt k (n / 4)
    if (2 * r + 1) * (2 * r + 1) ≤ n then 2 * r + 1 else 2 * r

/-- 2^(f / 2^k) in units of 2^-64, for the k bits of f from the top down: c is 2^(1/2^i) at each bit. -/
def exp2Frac : Nat → Nat → Nat → Nat → Nat
  | 0, _, _, acc => acc
  | k + 1, f, c, acc =>
    let c' := isqrt 66 (c * 2 ^ 64)
    exp2Frac k f c' (if bit f k then acc * c' / 2 ^ 64 else acc)

/-- 2^(i / 2^32) as (m, e) with value m × 2^e, m in units that keep 64 fraction bits. -/
def exp2Fix (i : Int) : Nat × Int :=
  let q := i / 2 ^ 32
  let f := (i % 2 ^ 32).toNat
  (exp2Frac 32 f (2 * 2 ^ 64) (2 ^ 64), q - 64)

/-- A finite number in units of 2^-32, truncated. -/
def toFix32 (neg : Bool) (m : Nat) (e : Int) : Int :=
  let k : Nat := if e + 32 ≥ 0 then m * 2 ^ (e + 32).toNat else m / 2 ^ (-(e + 32)).toNat
  if neg then -(k : Int) else k

/-- EXP2 (R290). -/
def exp2_32 (w seed : Nat) : Nat :=
  match f32 w with
  | .nan => nan32
  | .inf neg => if neg then 0 else inf32 false
  | .fin neg m e =>
    if !lt32 w 0x43000000 then inf32 false
    else if lt32 w 0xC2FC0000 then 0
    else
      let (k, g) := exp2Fix (toFix32 neg m e)
      nearUlp false k 1 g 2 0 seed

/-- RCP (R290). -/
def rcp32 (w seed : Nat) : Nat :=
  match f32 w with
  | .nan => nan32
  | .inf neg => neg.toNat * 2 ^ 31
  | .fin neg m e =>
    if m = 0 then inf32 neg
    else
      let c := Fmt.fp32.mag 1 m (-e)
      if c < 0x00800000 then neg.toNat * 2 ^ 31
      else if c > Fmt.fp32.maxCode then inf32 neg
      else nearUlp neg 1 m (-e) 1 0x00800000 seed

/-- RSQRT (R290). -/
def rsqrt32 (w seed : Nat) : Nat :=
  match f32 w with
  | .nan => nan32
  | .inf neg => if neg then nan32 else 0
  | .fin neg m e =>
    if m = 0 then (if neg then inf32 true else inf32 false)
    else if neg then nan32
    else
      let (m', e') := if e % 2 = 0 then (m, e) else (2 * m, e - 1)
      let r := isqrt 90 (m' * 2 ^ 120)
      nearUlp false 1 r (60 - e' / 2) 2 0 seed

/-- A free result within 2^-22 of a value in units of 2^-64. -/
def nearAbs (v : Int) (seed : Nat) : Nat :=
  let neg := decide (v < 0)
  freeCode seed (fun x => (f32 x).near (.fin neg v.natAbs (-64)) 1 (-22)) (round32 neg v.natAbs 1 (-64))

/-- log2 of e in units of 2^-32. -/
def log2e : Int := 6196328018

/-- 2^64 / (1 + 2^(i / 2^32)): the logistic function of −i, in units of 2^-64. -/
def logistic (i : Int) : Nat :=
  let (k, g) := exp2Fix i
  if g ≥ 0 then 2 ^ 64 / (1 + k * 2 ^ g.toNat) else 2 ^ 64 * 2 ^ (-g).toNat / (2 ^ (-g).toNat + k)

/-- SIGMOID (R290): 0 below −88, 1 above 17. -/
def sigmoid32 (w seed : Nat) : Nat :=
  match f32 w with
  | .nan => nan32
  | .inf neg => if neg then 0 else 0x3F800000
  | .fin neg m e =>
    if lt32 w 0xC2B00000 then 0
    else if lt32 0x41880000 w then 0x3F800000
    else nearAbs (logistic (-(toFix32 neg m e * log2e / 2 ^ 32)) : Nat) seed

/-- TANH (R290): ±1 from magnitude 9 on. -/
def tanh32 (w seed : Nat) : Nat :=
  match f32 w with
  | .nan => nan32
  | .inf neg => 0x3F800000 + neg.toNat * 2 ^ 31
  | .fin neg m e =>
    if !lt32 (w % 2 ^ 31) 0x41100000 then 0x3F800000 + neg.toNat * 2 ^ 31
    else
      let s : Int := (logistic (-(2 * toFix32 neg m e * log2e / 2 ^ 32)) : Nat)
      nearAbs (2 * s - 2 ^ 64) seed

/-- A row sum over up to 64 lanes: a pairwise tree, each addition rounded (R290). -/
def treeSum : Nat → List Nat → Nat
  | 0, l => l.headD 0
  | k + 1, l =>
    match l with
    | [] => 0
    | [x] => x
    | _ => add32 (treeSum k (l.take (2 ^ k))) (treeSum k (l.drop (2 ^ k)))

/-- A softmax partial: running maximum, running sum, output lanes. -/
abbrev Partial := Nat × Nat × List Nat

/-- The FP32 code of −infinity. -/
def negInf32 : Nat := 0xFF800000

/-- LSE_MERGE of two partials (R291); seed and seed + 1 are the free values of its two exponentials. -/
def lseMerge (p q : Partial) (seed : Nat) : Partial :=
  if p.1 = negInf32 then q
  else if q.1 = negInf32 then p
  else
    let m := max32 p.1 q.1
    let a := exp2_32 (sub32 p.1 m) seed
    let b := exp2_32 (sub32 q.1 m) (seed + 1)
    (m, fma32 a p.2.1 (mul32 b q.2.1), List.zipWith (fun x y => fma32 a x (mul32 b y)) p.2.2 q.2.2)

end Sys2Proof.Machine
end

