-- ==== Sys2Proof/Machine/Home.lean ====
section
/-! DEFINITION. The home slice: lines in their tiers, poison and encryption, combined atomics, and the directory's
tables R203 and R204, with the requests that wait (05, 06, 17). -/

namespace Sys2Proof.Machine

/-! ## One line -/

/-- The key under which a line is held (R486), if its region encrypts. -/
def State.lineKey (s : State) (line : Nat) : Option (BitVec 512) :=
  match s.regionOf (line * 64) with
  | some (_, r) => if r.enc then some (SMap.get s.sec.keys r.key ⟨0, false⟩).bits else none
  | none => none

/-- k bytes of memory from a cell on. -/
def memRead (m : List Host.Cell) (c k : Nat) : List Byte := (List.range k).map fun i => SMap.get m (c + i) 0

/-- Memory with bytes written from a cell on. -/
def memWrite (m : List Host.Cell) (c : Nat) : List Byte → List Host.Cell
  | [] => m
  | b :: bs => memWrite (SMap.set m c b 0) (c + 1) bs

/-- 64 bytes as one number, and back (R486). -/
def blockOf (d : List Byte) : BitVec 512 := BitVec.ofNat 512 (leNat (fitBytes 64 d))
def ofBlock (b : BitVec 512) : List Byte := natLE 64 b.toNat

/-- The plaintext of a line as its tier holds it; zeros for a line with no frame. -/
def State.readLine (s : State) (line : Nat) : List Byte :=
  match s.cell (line * 64) with
  | none => List.replicate 64 0
  | some c =>
    let raw := memRead s.tier.mem c 64
    match s.lineKey line with
    | none => raw
    | some k => ofBlock ((Config.xts k (line % 2 ^ 38)).symm (blockOf raw))

/-- A line is marked as poison (R97). -/
def State.linePoison (s : State) (line : Nat) : Bool :=
  match s.cell (line * 64) with
  | none => false
  | some c => SMap.get s.tier.poison (c / 64) false

/-- The line's poison mark set or cleared. -/
def State.setLinePoison (s : State) (line : Nat) (b : Bool) : State :=
  match s.cell (line * 64) with
  | none => s
  | some c => { s with tier := { s.tier with poison := SMap.set s.tier.poison (c / 64) b false } }

/-- The line's plaintext replaced. -/
def State.writeLine (s : State) (line : Nat) (d : List Byte) : State :=
  match s.cell (line * 64) with
  | none => s
  | some c =>
    let raw :=
      match s.lineKey line with
      | none => fitBytes 64 d
      | some k => ofBlock (Config.xts k (line % 2 ^ 38) (blockOf d))
    { s with tier := { s.tier with mem := memWrite s.tier.mem c raw } }

/-- The mask of a whole line. -/
def fullMask : Nat := 2 ^ 64 - 1

/-- The new value of an atomic's target (R184, R187). -/
def atomicNew (subop width old op1 op2 : Nat) : Nat :=
  let w := 8 * width
  let a := old % 2 ^ w
  let b := op1 % 2 ^ w
  match subop with
  | 0 => (a + b) % 2 ^ w
  | 1 => a &&& b
  | 2 => a ||| b
  | 3 => a ^^^ b
  | 4 => if signed w a ≤ signed w b then a else b
  | 5 => if signed w a ≥ signed w b then a else b
  | 6 => min a b
  | 7 => max a b
  | 8 => b
  | 9 => if a = op2 % 2 ^ w then b else a
  | _ => add32 a b

/-- An access performed at the line: the state and the answer (R97, R184, R509). -/
def State.perform (s : State) (line : Nat) (op : LineOp) : State × Ans :=
  if (s.cell (line * 64)).isNone then (s, { st := .invalid })
  else
    match op with
    | .read =>
      if s.linePoison line then (s, { st := .poison }) else (s, { data := s.readLine line })
    | .write mask d =>
      let s := s.writeLine line (mergeLine mask (s.readLine line) d)
      (if mask = fullMask then s.setLinePoison line false else s, {})
    | .poison => (s.setLinePoison line true, {})
    | .atomic subop width off op1 op2 =>
      if s.linePoison line then (s, { st := .poison })
      else
        let d := s.readLine line
        let old := fieldLE d off width
        let new := atomicNew subop width old op1 op2
        (s.writeLine line (spliceBytes d off (natLE width new)), { val := old, data := d })

/-- Whether an access changes the line: an engine write of R203. -/
def LineOp.writes : LineOp → Bool
  | .read => false
  | _ => true

/-! ## Combined atomics (R188 to R191) -/

/-- The entries of a line, with their keys. -/
def State.combinesOf (s : State) (line : Nat) : List (Nat × Combine) := s.combine.filter fun e => e.2.line = line

/-- The entries of a line performed, or discarded at a poisoned line (R190). -/
def State.performCombines (s : State) (line : Nat) : State :=
  (s.combinesOf line).foldl (fun s (k, c) =>
    let s := { s with combine := SMap.del s.combine k }
    if s.linePoison line then
      match s.regionOf (line * 64) with
      | some (r, _) => s.event .combineLost { object := obj 0x12 r, where_ := line * 64 }
      | none => s
    else (s.perform line (.atomic c.subop c.width c.off c.val 0)).1) s

/-- The merge of two operands of one key: the operation itself (R188). -/
def combineOp (subop width a b : Nat) : Nat := atomicNew subop width a b 0

/-- An eligible atomic enters its slice's combining table: the state after, or none when the table is full (R188). -/
def State.combineTry (s : State) (line off subop width op1 : Nat) : Option State :=
  let sl := sliceOf (line * 64)
  match s.combine.find? fun e => e.2.line = line ∧ e.2.off = off ∧ e.2.subop = subop ∧ e.2.width = width with
  | some (k, c) => some { s with combine := SMap.put s.combine k { c with val := combineOp subop width c.val op1 } }
  | none =>
    match (List.range 32).find? fun i => (SMap.find s.combine (sl * 32 + i)).isNone with
    | some i => some { s with combine := SMap.put s.combine (sl * 32 + i) ⟨sl, line, off, subop, width, op1, s.tick⟩ }
    | none => none

/-! ## Delivery -/

/-- An answer reaches the task that waits for it: it may run again. -/
def State.deliver (s : State) (id : Nat) (a : Ans) : State :=
  match SMap.find s.tasks id with
  | none => s
  | some t => { s with tasks := SMap.put s.tasks id { t with log := t.log ++ [a], wait := .ready, moved := s.tick } }

/-- A fetched slot joins its queue (R124, R125): one standard descriptor or two Tadpoles. A failed read stops the queue
with cause 2 (R145). -/
def State.slotArrived (s : State) (q : Nat) (a : Ans) : State :=
  let qs := { SMap.get s.queues q {} with fetching := false }
  let s0 := { s with queues := SMap.set s.queues q qs {} }
  if s.fld (Reg.Q_STATE q) Reg.Q_STATE_STATE ≠ 1 then s0
  else if a.st ≠ .ok then
    (s0.setFld (Reg.Q_STATE q) Reg.Q_STATE_STATE 2).setFld (Reg.Q_STATE q) Reg.Q_STATE_STOP_CAUSE 2
  else
    let slot := s.fld (Reg.Q_STATE q) Reg.Q_STATE_SQ_HEAD
    let n := 2 ^ (6 + min (s.fld (Reg.Q_SQ_BASE q) Reg.Q_SQ_BASE_SIZE) 10)
    let b := fitBytes 64 a.data
    let ds := if bit (fieldLE b 1 1) 0 then
        [⟨slot, false, true, b.take 32⟩, ⟨slot, true, true, b.drop 32⟩]
      else [⟨slot, false, false, b⟩]
    ({ s with queues := SMap.set s.queues q { qs with fetched := qs.fetched ++ ds } {} }).setFld
      (Reg.Q_STATE q) Reg.Q_STATE_SQ_HEAD ((slot + 1) % n)

/-- A queue raises its vector, and counts afresh (R149). -/
def State.raiseQueue (s : State) (q : Nat) : State :=
  let s := { s with queues := SMap.set s.queues q { (SMap.get s.queues q {}) with unsignalled := 0 } {} }
  s.msix (s.fld (Reg.Q_IRQ q) Reg.Q_IRQ_VEC_HEAD) (s.fld (Reg.Q_IRQ q) Reg.Q_IRQ_VECTOR)

/-- A queue leaves RUNNING for STOPPING (R145). -/
def State.stopQueue (s : State) (q cause status : Nat) : State :=
  let f := Reg.Q_STATE q
  if s.fld f Reg.Q_STATE_STATE ≠ 1 then s
  else
    ((s.setFld f Reg.Q_STATE_STATE 2).setFld f Reg.Q_STATE_STOP_CAUSE cause).setFld f Reg.Q_STATE_STOP_STATUS status

/-- A completion record has been written: CQ_TAIL advances, the phase turns at the end of the ring, and the queue raises
its vector when R149 says so. -/
def State.cqDone (s : State) (q : Nat) : State :=
  let qs := SMap.get s.queues q {}
  let n := 2 ^ (6 + min (s.fld (Reg.Q_CQ_BASE q) Reg.Q_CQ_BASE_SIZE) 10)
  let tail := (s.fld (Reg.Q_STATE q) Reg.Q_STATE_CQ_TAIL + 1) % n
  let qs' := { qs with due := qs.due.tail, phase := if tail = 0 then !qs.phase else qs.phase,
                       unsignalled := qs.unsignalled + 1, firstAt := if qs.unsignalled = 0 then s.tick else qs.firstAt }
  let s := { s with queues := SMap.set s.queues q qs' {} }.setFld (Reg.Q_STATE q) Reg.Q_STATE_CQ_TAIL tail
  let irq := fun f => s.fld (Reg.Q_IRQ q) f
  let (flagged, bad) := match qs.due with
    | d :: _ => (d.irq, decide (d.fin.st ≠ Status.ok))
    | [] => (false, false)
  if irq Reg.Q_IRQ_EN = 1 ∧ (max 1 (irq Reg.Q_IRQ_COUNT) ≤ qs'.unsignalled ∨ flagged ∨ (bad ∧ irq Reg.Q_IRQ_ON_ERR = 1)) then
    s.raiseQueue q
  else s

/-- A completion record could not be written: the queue stops and writes no further record (R145, R147). -/
def State.cqFailed (s : State) (q : Nat) : State :=
  let s := { s with queues := SMap.set s.queues q { (SMap.get s.queues q {}) with noRecords := true, due := [] } {} }
  s.stopQueue q 3 0

/-- A ring's record has been written: TAIL advances, then the vector is raised (R63, R139, R149). Rings from 3 on are
completion rings. -/
def State.ringDone (s : State) (k : Nat) : State :=
  let s := { s with ringBusy := s.ringBusy.erase k }
  if k < 3 then
    let n := s.ringLen k
    let tail := (s.fld (ringPtrs k) Reg.XLT_FQ_PTRS_TAIL + 1) % n
    let s := s.setFld (ringPtrs k) Reg.XLT_FQ_PTRS_TAIL tail
    let flip := fun (b : Bool) => if tail = 0 then !b else b
    let s := if k = 0 then { s with xlt := { s.xlt with phase := flip s.xlt.phase } }
      else if k = 1 then { s with ras := { s.ras with plogPhase := flip s.ras.plogPhase } }
      else { s with ras := { s.ras with advPhase := flip s.ras.advPhase } }
    s.msix (s.fld (ringCfg k) Reg.XLT_FQ_CFG_VEC_HEAD) (s.fld (ringCfg k) Reg.XLT_FQ_CFG_VECTOR)
  else s.cqDone (k - 3)

/-- The write of a ring's record has failed: a record of a log is lost, a queue stops (R64, R145, R219). -/
def State.ringFailed (s : State) (k : Nat) : State :=
  let s := { s with ringBusy := s.ringBusy.erase k }
  if k = 0 then s.setFld Reg.XLT_FQ_CFG Reg.XLT_FQ_CFG_DROPPED 1
  else if k < 3 then s.ringLost k true
  else s.cqFailed (k - 3)

/-- What a host's request asks of its line, as an access. -/
def HostOp.lineOp : HostOp → Option LineOp
  | .rdS | .rdA | .rdI => some .read
  | .invA | .invN => none
  | .wr m d p _ => some (if p then .poison else .write m d)

/-- The completion that ends a host's request (R203). -/
def HostOp.cmp : HostOp → S2M
  | .rdS => .cmpS
  | .rdA | .invA => .cmpE
  | .rdI | .invN | .wr .. => .cmp

/-- A host's request that the module does not serve (R460). -/
def State.refuseHost (s : State) (h hd line : Nat) (op : HostOp) : State :=
  let s := s.bump (Reg.HEAD_CNT hd) Reg.HEAD_CNT_REFUSED 1
  let x := SMap.get s.heads hd {}
  let s := { s with heads := SMap.set s.heads hd { x with refusedIn := some (x.refusedIn.getD (s.tick / 2 ^ 30)) } {} }
  let s := match op with
    | .rdS | .rdA | .rdI => s.toHost hd h line (.memData (List.replicate 64 0) true)
    | _ => s
  s.toHost hd h line .cmp

/-- A request's access has its answer: it goes to whoever asked (R97, R203). -/
def State.answer (s : State) (line : Nat) (w : Who) (a : Ans) : State :=
  match w with
  | .task id _ => s.deliver id a
  | .post k _ => if a.st = Status.ok then s.ringDone k else s.ringFailed k
  | .fetch q => s.slotArrived q a
  | .comb | .recall _ | .evict | .scrub => s
  | .host h hd op =>
    if a.st = Status.invalid then s.refuseHost h hd line op else
    let s := match op with
      | .rdS | .rdA | .rdI => s.toHost hd h line (.memData (fitBytes 64 a.data) (decide (a.st ≠ Status.ok)))
      | _ => s
    s.toHost hd h line op.cmp

/-- The access that a request makes at its line. -/
def Who.lineOp : Who → Option LineOp
  | .task _ op => some op
  | .post _ op => some op
  | .fetch _ => some .read
  | .host _ _ op => op.lineOp
  | .scrub => some (.write fullMask (List.replicate 64 0))
  | .comb | .recall _ | .evict => none

/-- The tier and channel of a line are retraining, so the access is late (R98, R542). -/
def State.slowLine (s : State) (line : Nat) : Bool :=
  if s.tier.slow.isEmpty then false
  else
    match s.frameOf (line * 64) with
    | none => false
    | some (t, p) => s.tier.slow.contains (tierCode t, globalChannel (dieOf (line * 64)) t p)

/-- A request is served at its line: at once, or by a tier access that finishes later (R98). -/
def State.serve (s : State) (line : Nat) (w : Who) : State :=
  match w with
  | .comb => s.performCombines line
  | _ =>
    match w.lineOp with
    | none => s.answer line w {}
    | some op =>
      if s.slowLine line then
        { s with tier := { s.tier with late := SMap.put s.tier.late s.tier.nextLate ⟨line, w, s.tick⟩,
                                       nextLate := s.tier.nextLate + 1 } }
      else
        let (s, a) := s.perform line op
        s.answer line w a

/-! ## The directory -/

/-- Whether a line's chunk is held by a move, or has a tier access in flight (R81, R99). -/
def State.chunkHeld (s : State) (line : Nat) : Bool :=
  s.tier.slots.any (fun e => decide (e.2.page = line / 64) && bit e.2.held (line % 64 / 4)) ||
  s.tier.late.any (fun e => decide (e.2.line / 4 = line / 4))

/-- Whether a line's page is held by an UNBACK (R567): requests from now on wait, those accepted before end, and so do
the recalls of its lines. -/
def State.pageHeld (s : State) (line : Nat) : Bool := s.tier.pageHold.any fun e => e.1 = line / 64

/-- A request of several lines of one chunk was accepted with its first line: its other lines belong to it (R82). -/
def State.underWay (s : State) (r : LineReq) : Bool :=
  match r.who with
  | .task id _ => s.tier.serving.contains (id, r.line / 4)
  | _ => false

/-- Whether a request to a line waits for a move, an UNBACK or a tier access in flight. -/
def State.lineHeld (s : State) (line : Nat) : Bool := s.pageHeld line || s.chunkHeld line

/-- States in which snoops are out (06, "Directory states"). -/
def DirState.transient : DirState → Bool
  | .s | .m => false
  | _ => true

/-- The directory set of a line: slice and set (R202). The set within the slice is a free mapping (log 13). -/
def dirSetOf (line : Nat) : Nat := sliceOf (line * 64) * 16384 + Config.dirSet line % 16384

/-- Ways that a slice's directory has: 8 for each bank that it owns (R223, R237). -/
def State.dirWays (s : State) (sl : Nat) : Nat :=
  8 * ((List.range 1024).filter fun j =>
    let f := fun x => s.fld (Reg.CADDY_OWN (sl / 32 * 1024 + j)) x
    f Reg.CADDY_OWN_KIND = 4 && f Reg.CADDY_OWN_IDX = sl % 32 && f Reg.CADDY_OWN_STATE = 1).length

/-- The entries of a line's set. -/
def State.setEntries (s : State) (line : Nat) : List (Nat × DirEnt) :=
  s.dir.filter fun e => dirSetOf e.1 = dirSetOf line

/-- Transient entries of the line's slice; at most 256 (R200). -/
def State.transients (s : State) (line : Nat) : Nat :=
  (s.dir.filter fun e => e.2.st.transient && decide (sliceOf (e.1 * 64) = sliceOf (line * 64))).length

/-- Snoops outstanding to a host (R210). -/
def State.snoopsOut (s : State) (h : Nat) : Nat := (s.dir.filter fun e => bit e.2.awaited h).length

/-- The limit of snoops outstanding per host: 0 acts as 1 (R210). -/
def State.snoopMax (s : State) : Nat := max 1 (s.fld Reg.HOME_BI_CFG Reg.HOME_BI_CFG_MAX)

/-- The head behind which a host lies (R192). -/
def State.hostHead (s : State) (h : Nat) : Nat := s.fld (Reg.HOME_HOST h) Reg.HOME_HOST_HEAD

/-- The line enters a transient state: snoops go to the hosts of a mask, with the request pending (R200, R203). None
when the slice or a host has no room, so that the request waits (R200, R210). -/
def State.snoop (s : State) (line : Nat) (e : DirEnt) (st : DirState) (mask : Nat) (w : Who) : Option State :=
  if s.transients line ≥ 256 ∨ (setBits 64 mask).any fun h => s.snoopsOut h ≥ s.snoopMax then none
  else
    let e' := { e with st := st, awaited := mask, keep := false, pend := some w, since := s.tick }
    let s := { s with dir := SMap.put s.dir line e' }
    let s := s.bump Reg.HOME_DIR_CNT Reg.HOME_DIR_CNT_SNOOPS (setBits 64 mask).length
    some ((setBits 64 mask).foldl
      (fun s h => s.toHost (s.hostHead h) h line (if st = .mData then .snpData else .snpInv)) s)

/-- A stable entry of a line: one that was stable before keeps its place in the order of R202, any other comes last. -/
def State.putStable (s : State) (line : Nat) (e : DirEnt) : State :=
  match SMap.find s.dir line with
  | some x =>
    if x.st.transient then
      { s with dir := SMap.put s.dir line { e with order := s.tier.stables },
               tier := { s.tier with stables := s.tier.stables + 1 } }
    else { s with dir := SMap.put s.dir line { e with order := x.order } }
  | none =>
    { s with dir := SMap.put s.dir line { e with order := s.tier.stables },
             tier := { s.tier with stables := s.tier.stables + 1 } }

/-- The line's entry goes (I), or becomes stable with sharers or with an owner. -/
def State.dirI (s : State) (line : Nat) : State := { s with dir := SMap.del s.dir line }
def State.dirS (s : State) (line sharers : Nat) : State :=
  if sharers = 0 then s.dirI line else s.putStable line { st := .s, sharers := sharers }
def State.dirM (s : State) (line owner : Nat) : State := s.putStable line { st := .m, owner := owner }

/-- Room for a new entry (R202): true when there is room; else the stable entry that became stable longest ago starts
its eviction, unless one is already being evicted. -/
def State.makeRoom (s : State) (line : Nat) : State × Bool :=
  if s.dir.length < 8 then (s, true)
  else
    let es := s.setEntries line
    if es.length < s.dirWays (sliceOf (line * 64)) then (s, true)
    else if es.any fun e => e.2.pend = some .evict then (s, false)
    else
      match (es.filter fun e => !e.2.st.transient).foldl
          (fun (b : Option (Nat × DirEnt)) e =>
            match b with
            | none => some e
            | some x => if e.2.order < x.2.order then some e else b) none with
      | none => (s, false)
      | some (v, e) =>
        let r := if e.st = .s then s.snoop v e .sInv e.sharers .evict
                 else s.snoop v e .mInv (2 ^ e.owner) .evict
        match r with
        | none => (s, false)
        | some s' => (s'.bump Reg.HOME_DIR_CNT Reg.HOME_DIR_CNT_EVICT 1, false)

/-- A write of the line's owner (R203, "MemWr from o"): it waits for nothing but a chunk in flight (R201). -/
def State.ownWrite (s : State) (r : LineReq) : Bool :=
  match r.who, SMap.find s.dir r.line with
  | .host h _ (.wr ..), some e => e.st ≠ .s && e.st ≠ .sInv && e.owner = h
  | _, _ => false

/-- What the arbiter does with a request that nothing refuses (R201 to R203): the state after, and whether the request was
taken; one that was not taken waits. An owner's write goes before the combined atomics of its line: they are performed
over what it writes back (R189, R211). -/
def State.take (s : State) (r : LineReq) : State × Bool :=
  let line := r.line
  let w := r.who
  if s.chunkHeld line || (s.pageHeld line && !s.ownWrite r && !s.underWay r) then (s, false)
  else
    let ent := SMap.find s.dir line
    let snooped := fun (o : Option State) => match o with | some s' => (s', true) | none => (s, false)
    -- R189: combined atomics of the line come first
    if w ≠ .comb ∧ (s.combinesOf line) ≠ [] ∧ ent ≠ none ∧ ¬ s.ownWrite r then
      match ent with
      | some e =>
        if e.st = .s then
          match s.snoop line e .sInv e.sharers .comb with
          | some s' => (s', false)
          | none => (s, false)
        else if e.st = .m then
          match s.snoop line e .mInv (2 ^ e.owner) .comb with
          | some s' => (s', false)
          | none => (s, false)
        else (s, false)
      | none => (s, false)
    else
    let s := if w ≠ .comb ∧ ¬ s.ownWrite r then s.performCombines line else s
    match ent with
    | some e =>
      if e.st.transient then
        match w with
        | .host h _ (.wr ..) =>
          if e.st ≠ .sInv ∧ e.owner = h then
            (({ s with dir := SMap.put s.dir line { e with wrote := true } } : State).serve line w, true)
          else (s, false)
        | _ => (s, false)
      else
        let others := fun (h : Nat) => putBit e.sharers h false
        match w with
        | .host h _ op =>
          if e.st = .s then
            match op with
            | .rdS => ((s.dirS line (putBit e.sharers h true)).serve line w, true)
            | .rdI => (s.serve line w, true)
            | .rdA | .invA =>
              if others h = 0 then ((s.dirM line h).serve line w, true)
              else snooped (s.snoop line e .sInv (others h) w)
            | .invN | .wr .. =>
              if others h = 0 then ((s.dirI line).serve line w, true)
              else snooped (s.snoop line e .sInv (others h) w)
          else if e.owner = h then
            match op with
            | .rdS => ((s.dirS line (2 ^ h)).serve line w, true)
            | .rdA | .invA => ((s.dirM line h).serve line w, true)
            | .rdI | .invN => ((s.dirI line).serve line w, true)
            | .wr _ _ _ mv =>
              let s := match mv with
                | .a => { s with dir := SMap.put s.dir line { e with wrote := true } }
                | .s => s.dirS line (2 ^ h)
                | _ => s.dirI line
              (s.serve line w, true)
          else
            match op with
            | .rdS | .rdI => snooped (s.snoop line e .mData (2 ^ e.owner) w)
            | _ => snooped (s.snoop line e .mInv (2 ^ e.owner) w)
        | .recall g =>
          if e.st = .s then
            if bit e.sharers g then snooped (s.snoop line e .sInv (2 ^ g) w) else (s, true)
          else if e.owner = g then snooped (s.snoop line e .mInv (2 ^ g) w) else (s, true)
        | .evict | .scrub => (s, true)
        | .comb =>
          if e.st = .s then snooped (s.snoop line e .sInv e.sharers w)
          else snooped (s.snoop line e .mInv (2 ^ e.owner) w)
        | .task .. | .post .. | .fetch _ =>
          if (w.lineOp.map LineOp.writes).getD false then
            if e.st = .s then snooped (s.snoop line e .sInv e.sharers w)
            else snooped (s.snoop line e .mInv (2 ^ e.owner) w)
          else if e.st = .s then (s.serve line w, true)
          else snooped (s.snoop line e .mData (2 ^ e.owner) w)
    | none =>
      match w with
      | .host h _ op =>
        match op with
        | .rdI | .invN | .wr .. => (s.serve line w, true)
        | .rdS =>
          match s.makeRoom line with
          | (s', true) => ((s'.dirS line (2 ^ h)).serve line w, true)
          | (s', false) => (s', false)
        | .rdA | .invA =>
          match s.makeRoom line with
          | (s', true) => ((s'.dirM line h).serve line w, true)
          | (s', false) => (s', false)
      | .recall _ | .evict | .scrub => (s, true)
      | _ => (s.serve line w, true)

/-! ## Acceptance -/

/-- STATE of a coherence domain: 0 RUNNING, 1 RECOVERING, 2 DOWN. -/
def State.domState (s : State) (d : Nat) : Nat := s.fld (Reg.HOME_CDOM_STATE d) Reg.HOME_CDOM_STATE_STATE

/-- The domain of a line's region. -/
def State.domOf (s : State) (line : Nat) : Option Nat := (s.regionOf (line * 64)).map fun x => x.2.dom

/-- What a host's request receives while its domain is RECOVERING or DOWN (R216). -/
def State.answerRecovering (s : State) (h hd line : Nat) (op : HostOp) : State :=
  let s := match op with
    | .rdS | .rdA | .rdI => s.toHost hd h line (.memData (List.replicate 64 0) true)
    | _ => s
  s.toHost hd h line .cmp

/-- A request of a host: what it asks counts as a write or a read for check 5 (R569). -/
def HostOp.isWrite : HostOp → Bool
  | .rdA | .invA | .wr .. => true
  | _ => false

/-- The request carries data to its line (R113). -/
def HostOp.stores : HostOp → Bool
  | .wr .. => true
  | _ => false

/-- Whether a request is a write, for the checks and for the meters. -/
def Who.asksWrite : Who → Bool
  | .host _ _ op => op.isWrite
  | w => (w.lineOp.map LineOp.writes).getD false
def Who.stores : Who → Bool
  | .host _ _ op => op.stores
  | w => (w.lineOp.map LineOp.writes).getD false

/-- Region, world and grant of a context at a line, as they stand now (R45, R47, R483). -/
def State.grantedNow (s : State) (ctx l : Nat) (write : Bool) : Bool :=
  ctx = 0 ||
  match s.regionOf l with
  | some (r, g) => (!g.world || s.secureCtx ctx) && granted (s.grantCode r ctx) write
  | none => false

/-- A host may have requests served at an address: it is listed in the ACCEPTED extent that holds it (R102). -/
def State.extentServes (s : State) (n l : Nat) : Bool :=
  match s.extentOf l with
  | some (_, x) => x.st = .accepted && bit x.listed n
  | none => false

/-- What refuses a request that its arbiter would accept now (R47, R76, R102, R105): its checks were made when it arrived, and
grants, extents and pages may have changed while it waited. -/
def State.refusal (s : State) (r : LineReq) : Option Status :=
  let l := r.line * 64
  if s.ownWrite r || s.underWay r then none
  else
    match r.ctx with
    | none => none
    | some c =>
      if !s.grantedNow c l r.who.asksWrite then some .prot
      else
        match r.who with
        | .host h _ _ => if s.extentServes h l then none else some .revoked
        | _ => match s.placeCheck l with | .ok => none | st => some st

/-- What refuses a request that has passed its meter, or left the meter's delay queue, before any of its bytes is served (R47,
R76, R102): the checks after check 5 of R46, and the grant as it stands by then. -/
def State.readmit (s : State) (ctx : Nat) (write : Bool) (ps : List (Nat × Nat)) : Status :=
  firstBad (ps.map fun x => if s.grantedNow ctx x.1 write then s.placeCheck x.1 else .prot)

/-- A host's request whose line lies in a domain that is RECOVERING or DOWN (R216); an owner's write is served. -/
def State.domainHolds (s : State) (r : LineReq) : Bool :=
  match r.who with
  | .host .. => r.ctx.isSome && !s.ownWrite r && decide (((s.domOf r.line).map s.domState).getD 0 ≠ 0)
  | _ => false

/-- A request refused at its acceptance. -/
def State.refuse (s : State) (r : LineReq) (st : Status) : State :=
  match r.who with
  | .host h hd op => s.refuseHost h hd r.line op
  | w => s.answer r.line w { st := st }

/-- One request at its slice arbiter (R201 to R203): taken, refused or answered at the moment of its acceptance, or not
taken: then it waits. -/
def State.arbiter (s : State) (r : LineReq) : State × Bool :=
  if (s.cell (r.line * 64)).isNone && (SMap.find s.dir r.line).isNone then (s.refuse r .invalid, true) else
  match s.take r with
  | (s', false) => (s', false)
  | (s', true) =>
    match s.refusal r, r.who with
    | some st, _ => (s.refuse r st, true)
    | none, .host h hd op =>
      if s.domainHolds r then (s.answerRecovering h hd r.line op, true)
      else (s'.accept r.who.stores r.counts (r.line * 64) r.bytes, true)
    | none, _ => (s'.accept r.who.stores r.counts (r.line * 64) r.bytes, true)

/-- A plain store of a host; an owner's write-back waits behind no other store (R206, R207). -/
def State.hostStore (s : State) (r : LineReq) : Option Nat :=
  match r.who with
  | .host h _ (.wr ..) => if s.ownWrite r then none else some h
  | _ => none

/-- A waiting request comes before another: it asks for the same line (R201), or both are stores of one host, which the home
accepts in the order the host sent them (R173). -/
def State.comesBefore (s : State) (x r : LineReq) : Bool :=
  x.line = r.line || ((s.hostStore x).isSome && s.hostStore x = s.hostStore r)

/-- A request of a host or an engine other than a write (R208). -/
def Who.isQuery (w : Who) : Bool :=
  match w with
  | .host .. | .task .. | .fetch _ => !w.stores
  | _ => false

/-- Requests other than writes that wait at the slice of a line (R208). -/
def State.waitingAt (s : State) (line : Nat) : Nat :=
  (s.waitq.filter fun x => decide (sliceOf (x.line * 64) = sliceOf (line * 64)) && x.who.isQuery).length

/-- The slice of a line takes no request other than a write now (R208). -/
def State.sliceFull (s : State) (line : Nat) : Bool := decide (s.waitingAt line ≥ 512)

/-- A request reaches its arbiter: behind the earlier requests that come before it (R173, R201). -/
def State.submit (s : State) (r : LineReq) : State :=
  if s.waitq.any fun x => s.comesBefore x r then { s with waitq := s.waitq ++ [r] }
  else
    match s.arbiter r with
    | (s', true) => s'
    | (s', false) => { s' with waitq := s'.waitq ++ [r] }

/-- A request that is made once, however often it is asked for. -/
def State.submitOnce (s : State) (r : LineReq) : State := if s.waitq.contains r then s else s.submit r

/-- The waiting requests are offered to their arbiters again, in arrival order (R201). -/
def pumpList (s : State) : List LineReq → List LineReq → State
  | [], kept => { s with waitq := kept }
  | r :: rest, kept =>
    if kept.any fun x => s.comesBefore x r then pumpList s rest (kept ++ [r])
    else
      match s.arbiter r with
      | (s', true) => pumpList s' rest kept
      | (s', false) => pumpList s' rest (kept ++ [r])

/-- A transient line whose last answer has come: the pending request is performed (R204). -/
def State.settleLine (s : State) (line : Nat) (e : DirEnt) : State :=
  let o := if e.keep then 2 ^ e.owner else 0
  match e.pend with
    | none => if e.st = DirState.mData then s.dirS line o else s.dirI line
    | some .evict => s.dirI line
    | some (.recall g) => if e.st = DirState.sInv then s.dirS line (putBit e.sharers g false) else s.dirI line
    | some .comb => (s.dirI line).performCombines line
    | some w =>
      match w with
      | .host h _ op =>
        match op with
        | .rdS => (s.dirS line (if e.keep then putBit o h true else 2 ^ h)).serve line w
        | .rdA | .invA => (s.dirM line h).serve line w
        | .rdI => (s.dirS line o).serve line w
        | .invN | .wr .. => (s.dirI line).serve line w
      | _ => if e.st = DirState.mData then (s.dirS line o).serve line w else (s.dirI line).serve line w

/-- Transient lines that have every answer and whose chunk is not held: an UNBACK's hold does not stop them (R567). -/
def State.settled (s : State) : List (Nat × DirEnt) :=
  s.dir.filter fun e => e.2.st.transient && e.2.awaited = 0 && !s.chunkHeld e.1

/-- Every waiting request offered again; lines whose pending request waited only for a chunk in flight settle (R82). -/
def State.pump (s : State) : State :=
  let s := pumpList s s.waitq []
  match s.settled with
  | [] => s
  | l =>
    let s := l.foldl (fun s e => s.settleLine e.1 e.2) s
    pumpList s s.waitq []

/-- An awaited host's answer is taken (R203): `kept` when it keeps a shared copy. -/
def State.answerSnoop (s : State) (line h : Nat) (kept : Bool) : State :=
  match SMap.find s.dir line with
  | none => s
  | some e =>
    let e' := { e with awaited := putBit e.awaited h false, keep := e.keep || kept }
    let s : State := { s with dir := SMap.put s.dir line e' }
    if e'.awaited = 0 then s.pump else s

end Sys2Proof.Machine
end

