-- ==== Sys2Proof/Machine/Meter.lean ====
section
/-! DEFINITION. Meters at the home (15): token arithmetic, colours, actions and delay queues (R437 to R446). -/

namespace Sys2Proof.Machine

/-- The colours of a request (R439). -/
inductive Colour where
  | green | yellow | red
  deriving DecidableEq, Repr

/-- A meter refilled at a tick (R439). -/
def Meter.refill (m : Meter) (t : Nat) : Meter :=
  let dt := t - m.last
  { m with last := t, tc := min (m.cbs * 1000) (m.tc + m.cir * dt), tx := min (m.xbs * 1000) (m.tx + m.xir * dt) }

/-- The colour of a request of B bytes, and the buckets after it (R439). -/
def Meter.colour (m : Meter) (mode1 : Bool) (bytes : Nat) : Meter × Colour :=
  let b := bytes * 1000
  if mode1 then
    if m.tc ≥ b then ({ m with tc := m.tc - b }, .green)
    else if m.tx ≥ b then ({ m with tx := m.tx - b }, .yellow)
    else (m, .red)
  else
    if m.tx < b then (m, .red)
    else if m.tc < b then ({ m with tx := m.tx - b }, .yellow)
    else ({ m with tc := m.tc - b, tx := m.tx - b }, .green)

/-- Bytes counted in the colour with which a request leaves (R442). -/
def Meter.count (m : Meter) (c : Colour) (bytes : Nat) : Meter :=
  match c with
  | .green => { m with green := (m.green + bytes) % 2 ^ 64 }
  | .yellow => { m with yellow := (m.yellow + bytes) % 2 ^ 64 }
  | .red => { m with red := (m.red + bytes) % 2 ^ 64 }

/-- The action of a colour: 0 PASS, 1 DEMOTE, 2 DELAY, 3 REFUSE. -/
def State.meterAct (s : State) (k : Nat) (c : Colour) : Nat :=
  match c with
  | .green => 0
  | .yellow => s.fld (Reg.QOS_MTR_CFG k) Reg.QOS_MTR_CFG_ACT_Y
  | .red => s.fld (Reg.QOS_MTR_CFG k) Reg.QOS_MTR_CFG_ACT_R

/-- Whether the tokens that would improve a colour can never suffice for B bytes (R443). -/
def Meter.hopeless (m : Meter) (mode1 : Bool) (c : Colour) (bytes : Nat) : Bool :=
  let noC := decide (m.cbs < bytes) || m.cir = 0
  let noX := decide (m.xbs < bytes) || m.xir = 0
  match c with
  | .green => false
  | .yellow => noC
  | .red => if mode1 then noC && noX else noX

/-- What a meter decides. -/
inductive Metered where
  | pass (demoted : Bool)
  | wait
  | refuse
  deriving DecidableEq, Repr

/-- A delayed request's flags: never refused, a write-back (R445). -/
def Delayed.keep : Delayed → Bool
  | .task _ k _ => k
  | .host _ => true
def Delayed.wb : Delayed → Bool
  | .task _ _ w => w
  | .host _ => false

/-- The state with meter k replaced. -/
def State.setMeter (s : State) (k : Nat) (m : Meter) : State :=
  { s with qos := { s.qos with meters := SMap.set s.qos.meters k m {} } }

/-- The meter k. -/
def State.meter (s : State) (k : Nat) : Meter := SMap.get s.qos.meters k {}

/-- A coloured request's fate (R440, R443, R445); `d` would wait, `m` is the meter after the colouring. -/
def State.meterFate (s : State) (k : Nat) (m0 m : Meter) (c : Colour) (d : Delayed) (bytes : Nat) : State × Metered :=
  let mode1 := s.flag (Reg.QOS_MTR_CFG k) Reg.QOS_MTR_CFG_MODE
  let act := s.meterAct k c
  if d.wb then (s.setMeter k (m.count c bytes), .pass false)
  else if act = 0 ∨ act = 1 then (s.setMeter k (m.count c bytes), .pass (act = 1))
  else
    let full := decide (m.dq.length ≥ s.fld (Reg.QOS_MTR_CFG k) Reg.QOS_MTR_CFG_DQ_MAX)
    if (act = 3 ∨ full ∨ m.hopeless mode1 c bytes) ∧ ¬ d.keep then
      (s.setMeter k { (m.count c bytes) with refused := (m.refused + 1) % 2 ^ 32 }, .refuse)
    else (s.setMeter k { m0 with dq := m0.dq ++ [(d, bytes)] }, .wait)

/-- Check 6 of R46 for a request of a context charged B bytes (R437 to R445). -/
def State.meterCheck (s : State) (ctx : Nat) (d : Delayed) (bytes : Nat) : State × Metered :=
  if ctx = 0 then (s, .pass false)
  else
    match SMap.find s.qos.ctxMap ctx with
    | none => (s, .pass false)
    | some k =>
      if ¬ s.flag (Reg.QOS_MTR_CFG k) Reg.QOS_MTR_CFG_EN then (s, .pass false)
      else
        let b := max bytes 64
        let m0 := (s.meter k).refill s.tick
        if m0.dq ≠ [] then
          if decide (m0.dq.length ≥ s.fld (Reg.QOS_MTR_CFG k) Reg.QOS_MTR_CFG_DQ_MAX) ∧ ¬ d.keep ∧ ¬ d.wb then
            (s.setMeter k { m0 with refused := (m0.refused + 1) % 2 ^ 32 }, .refuse)
          else (s.setMeter k { m0 with dq := m0.dq ++ [(d, b)] }, .wait)
        else
          let (m, c) := m0.colour (s.flag (Reg.QOS_MTR_CFG k) Reg.QOS_MTR_CFG_MODE) b
          s.meterFate k m0 m c d b

/-- A context's meter acts and its delay queue is full (R445). -/
def State.delayFull (s : State) (ctx : Nat) : Bool :=
  match SMap.find s.qos.ctxMap ctx with
  | none => false
  | some k => s.flag (Reg.QOS_MTR_CFG k) Reg.QOS_MTR_CFG_EN &&
      decide ((s.meter k).dq.length ≥ s.fld (Reg.QOS_MTR_CFG k) Reg.QOS_MTR_CFG_DQ_MAX)

/-- A delayed request's slice can take it (R208). -/
def State.mayLeave (s : State) : Delayed → Bool
  | .task .. => true
  | .host r => !s.sliceFull r.line

/-- A request leaves its delay queue, served or refused (R442, R443). -/
def State.leaveQueue (s : State) (d : Delayed) (ok demoted : Bool) : State :=
  match d with
  | .task id _ _ => s.deliver id { st := if ok then .ok else .rate, val := demoted.toNat }
  | .host r => s.submit r

/-- The head of a meter's delay queue coloured again (R442). -/
def State.recolour (s : State) (k : Nat) : State :=
  let m0 := (s.meter k).refill s.tick
  match m0.dq with
  | [] => s.setMeter k m0
  | (d, b) :: rest =>
    if ¬ s.mayLeave d then s.setMeter k m0 else
    let mode1 := s.flag (Reg.QOS_MTR_CFG k) Reg.QOS_MTR_CFG_MODE
    if ¬ s.flag (Reg.QOS_MTR_CFG k) Reg.QOS_MTR_CFG_EN then
      (s.setMeter k { m0 with dq := rest }).leaveQueue d true false
    else
      let (m, c) := m0.colour mode1 b
      let act := s.meterAct k c
      if act = 0 ∨ act = 1 ∨ d.wb then
        (s.setMeter k { (m.count c b) with dq := rest }).leaveQueue d true (act = 1)
      else if (act = 3 ∨ m0.hopeless mode1 c b) ∧ ¬ d.keep then
        (s.setMeter k { (m.count c b) with dq := rest, refused := (m.refused + 1) % 2 ^ 32 }).leaveQueue d false false
      else s.setMeter k m0

end Sys2Proof.Machine
end

