-- ==== Sys2Proof/Machine/Fabric.lean ====
section
/-! DEFINITION. The source side of the fabric (14): routes, virtual channels, streams, and the messages that a source
keeps until they are answered (R413, R424 to R434). -/

namespace Sys2Proof.Machine

/-- The classes of a message (14, the TYPE table). -/
inductive MsgClass where
  | resp | store | req | work
  deriving DecidableEq, Repr

end Sys2Proof.Machine

namespace Sys2Proof

/-- The class of a message (14, the TYPE table). -/
def Body.cls : Body → Machine.MsgClass
  | .rdData _ | .ack | .report _ | .refuse _ | .atomResult _ => .resp
  | .wr .. | .atom .. | .doorbell .. | .streamReset _ | .wrMasked .. => .store
  | .rd .. | .cancel _ => .req
  | .subreq _ => .work
  | .other _ => .resp

/-- The TYPE code of a message. -/
def Body.type : Body → Nat
  | .rd .. => 0x01 | .wr .. => 0x02 | .atom .. => 0x03 | .doorbell .. => 0x04 | .streamReset _ => 0x05
  | .wrMasked .. => 0x06 | .subreq _ => 0x10 | .cancel _ => 0x11 | .rdData _ => 0x20 | .ack => 0x21
  | .report _ => 0x22 | .refuse _ => 0x23 | .atomResult _ => 0x24 | .other t => t.toNat

/-- Body bytes of a message, a multiple of 8; a batch, a report and a subrequest take their chapter's size, at most
4 096. -/
def Body.len : Body → Nat
  | .rd .. => 16 | .wr _ d => 8 + (d.length + 7) / 8 * 8 | .atom .. => 32 | .doorbell .. => 16 | .streamReset _ => 8
  | .wrMasked .. => 80 | .subreq _ => 4096 | .cancel _ => 8 | .rdData d => (d.length + 7) / 8 * 8 | .ack => 0
  | .report _ => 4096 | .refuse _ => 8 | .atomResult _ => 8 | .other _ => 0

/-- The store address a message carries, if any (R426). -/
def Body.addr : Body → Option Nat
  | .rd a _ => some a.toNat
  | .wr a _ => some a.toNat
  | .atom a .. => some a.toNat
  | .wrMasked a .. => some a.toNat
  | _ => none

end Sys2Proof

namespace Sys2Proof.Machine

/-- The virtual channel of a message (R424). -/
def vcOf (m : Msg) : Nat :=
  (match m.body.cls with | .resp => 0 | .store => 2 | .req => 4 | .work => 6) + m.hdr.pri.toNat

/-- A port's state beside its registers. -/
def State.port (s : State) (n : Nat) : Port := SMap.get s.fab.ports n {}
def State.setPort (s : State) (n : Nat) (p : Port) : State :=
  { s with fab := { s.fab with ports := SMap.set s.fab.ports n p {} } }

/-- A port's STATE (R420), and whether it is UP. -/
def State.portState (s : State) (n : Nat) : Nat := s.fld (Reg.ZL_PORT_STAT n) Reg.ZL_PORT_STAT_STATE
def State.portUp (s : State) (n : Nat) : Bool := s.portState n = 3

/-- The direct peer port to a module (R413). -/
def State.peerPort (s : State) (d : Nat) : Nat := (d + 63 - s.module) % 32

/-- Bytes queued on a port's virtual channel (R426). -/
def State.backlog (s : State) (n vc : Nat) : Nat :=
  (((s.port n).tx.filter fun e => e.1 = vc).map fun e => 16 + e.2.body.len).sum

/-- A module is listed in MODULES (R24). -/
def State.member (s : State) (m : Nat) : Bool :=
  bit (s.fld Reg.GLB_PART_MEMBERS Reg.GLB_PART_MEMBERS_MODULES) m || m = s.module

/-- The intermediate of detour j to module d (14, "Routing"). -/
def State.detourVia (s : State) (d j : Nat) : Nat :=
  let k := (s.module + d + 7 + 8 * j) % 32
  let next := fun k => if k = s.module ∨ k = d then (k + 1) % 32 else k
  next (next k)

/-- A detour is eligible (R426). -/
def State.detourOk (s : State) (d j : Nat) : Bool :=
  let k := s.detourVia d j
  s.portUp (s.peerPort k) && s.member k && s.member d

/-- The preferred detour of a message (R426). -/
def preferred (m : Msg) : Nat :=
  match m.body.addr with
  | some a => ofBits 2 fun i => xorBits (a % 2 ^ 50) (((List.range 19).map fun t => 12 + i + 2 * t).filter (· ≤ 49))
  | none => if m.body.cls = .store then m.hdr.stream.toNat % 4 else m.hdr.seq.toNat % 4

/-- The path that a first send takes to module d: 0 direct, 1 + j detour j; none while it waits (R426). -/
def State.firstPath (s : State) (d : Nat) (m : Msg) : Option Nat :=
  let vc := vcOf m
  let th := s.fld Reg.ZL_ROUTE_CFG Reg.ZL_ROUTE_CFG_DETOUR_TH * 1024
  let direct := s.peerPort d
  if s.portUp direct ∧ s.backlog direct vc ≤ th then some 0
  else if ¬ s.flag Reg.ZL_ROUTE_CFG Reg.ZL_ROUTE_CFG_DETOUR_EN then none
  else
    let h := preferred m
    let hop := fun j => s.peerPort (s.detourVia d j)
    if s.detourOk d h ∧ s.backlog (hop h) vc ≤ th then some (1 + h)
    else
      let es := (List.range 4).filter (s.detourOk d)
      match es with
      | [] => none
      | _ =>
        let least := es.foldl (fun a j => min a (s.backlog (hop j) vc)) (s.backlog (hop (es.headD 0)) vc)
        let best := es.filter fun j => s.backlog (hop j) vc = least
        some (1 + if best.contains h then h else best.headD 0)

/-- The next usable path after a previous one, in the order direct, detours 0 to 3, and round (R426); only the direct path
while DETOUR_EN is 0 (`ZL_ROUTE_CFG`). -/
def State.nextPath (s : State) (d prev : Nat) : Option Nat :=
  let ok := fun (p : Nat) => if p = 0 then s.portUp (s.peerPort d)
    else s.flag Reg.ZL_ROUTE_CFG Reg.ZL_ROUTE_CFG_DETOUR_EN && s.detourOk d (p - 1)
  ((List.range 5).map fun i => (prev + 1 + i) % 5).find? ok

/-- A message put on a port's queue. -/
def State.enqueue (s : State) (n : Nat) (m : Msg) : State :=
  let p := s.port n
  s.setPort n { p with tx := p.tx ++ [(vcOf m, m)] }

/-- The port that a path takes to a module. -/
def State.pathPort (s : State) (d path : Nat) : Nat :=
  if path = 0 then s.peerPort d else s.peerPort (s.detourVia d (path - 1))

/-- A message for a module of this rack sent on its path; one that has no path now waits on the direct port (R426). -/
def State.sendPeer (s : State) (d : Nat) (m : Msg) : State × Nat :=
  match s.firstPath d m with
  | some p => (s.enqueue (s.pathPort d p) m, p)
  | none => (s.enqueue (s.peerPort d) m, 0)

/-- The position or module of a response to an accelerator: the port of a direct link, if this module has one (R15). -/
def State.accPort (s : State) (p : Nat) : Option Nat :=
  let j := (p + 32 - s.module) % 32
  if j < 14 then some (31 + j) else none

/-- A response or message for accelerator position p (R428): direct, else through the next module whose link is up. -/
def State.sendAcc (s : State) (p : Nat) (m : Msg) : State :=
  match s.accPort p with
  | some n => s.enqueue n m
  | none =>
    let e := m.hdr.seq.toNat % 14
    let cand := (List.range 14).map fun i => (p + 32 - (e + i) % 14) % 32
    match cand.find? fun k => s.portUp (s.peerPort k) with
    | some k => s.enqueue (s.peerPort k) m
    | none => s.enqueue (s.peerPort (cand.headD 0)) m

/-- The hall uplinks carry traffic (R31, R25). -/
def State.hallOpen (s : State) : Bool :=
  s.flag Reg.GLB_PART_CTL Reg.GLB_PART_CTL_HALL && !s.flag Reg.PWR_STAT Reg.PWR_STAT_FENCE && !s.ras.moduleContained

/-- The uplinks that may carry traffic to a rack now (R433). -/
def State.uplinks (s : State) (r : Nat) : List Nat :=
  if s.hallOpen ∧ s.flag (Reg.ZL_HALL_ROUTE r) Reg.ZL_HALL_ROUTE_VALID then
    (List.range 4).filter fun u => bit (s.fld (Reg.ZL_HALL_ROUTE r) Reg.ZL_HALL_ROUTE_UPLINKS) u && s.portUp (45 + u)
  else []

/-- One of the uplinks that may carry traffic to a rack; which of several is open (R433; log 58). -/
def State.pickUplink (s : State) (r : Nat) : Option Nat × State :=
  let l := s.uplinks r
  if l.length ≤ 1 then (l.head?, s)
  else
    let (c, s) := s.choose l.length
    (l[c]?, s)

/-- High priority of a request to an address of this rack (R425). -/
def State.hiPri (s : State) (a : Nat) : Bool :=
  match findSet s.tier.cur (a % 2 ^ 50) with
  | some (_, i) => bit (s.fld (Reg.ZL_HIPRI (i.compNo / 64)) Reg.ZL_HIPRI_COMP) (i.compNo % 64)
  | none => false

/-- The header of a message this module originates. -/
def State.header (s : State) (pri : Bool) (dstRack dst ctx epoch stream seq : Nat) : MsgHdr :=
  { pri := pri, transit := false, resend := false, src := BitVec.ofNat 5 s.module, srcAcc := false,
    srcRack := BitVec.ofNat 6 s.rack, dst := BitVec.ofNat 5 dst, dstRack := BitVec.ofNat 6 dstRack,
    ctx := BitVec.ofNat 16 ctx, epoch := BitVec.ofNat 16 epoch, stream := BitVec.ofNat 6 stream,
    seq := BitVec.ofNat 24 seq }

/-- The key of an outgoing stream: destination rack, module, stream index (R429). -/
def outKey (rack dst stream : Nat) : Nat := (rack * 32 + dst) * 64 + stream

/-- A message sent toward a rack and module: over the fabric of this rack, or a hall uplink that R433 permits. -/
def State.sendTo (s : State) (rack dst : Nat) (m : Msg) : State × Nat :=
  if rack = s.rack then s.sendPeer dst m
  else
    match s.pickUplink rack with
    | (some u, s) => (s.enqueue (45 + u) m, 0)
    | (none, s) => (s, 0)

/-- Messages of a source that a module may keep unanswered (R431). -/
def State.storesFull (s : State) : Bool := decide (16384 ≤ (s.fab.outs.filter fun o => o.store).length)

/-- A STORE-class message of a task: it takes the next SEQ of its stream and is kept until answered (R429, R431). -/
def State.sendStore (s : State) (rack dst stream ctx epoch : Nat) (body : Body) (task : Option Nat) : State :=
  let k := outKey rack dst stream
  let seq := SMap.get s.fab.outSeq k 0
  let pri := match body.addr with | some a => s.hiPri a | none => false
  let m : Msg := { hdr := s.header pri rack dst ctx epoch stream seq, body := body, bad := false }
  let (s, path) := s.sendTo rack dst m
  { s with fab := { s.fab with
      outSeq := SMap.set s.fab.outSeq k ((seq + 1) % 2 ^ 24) 0,
      outs := s.fab.outs ++ [⟨true, rack * 32 + dst, stream, seq, m, s.tick, s.tick, path, task, none⟩] } }

/-- An RD of a task: it takes a fresh request tag (R431). -/
def State.sendRead (s : State) (rack dst stream ctx epoch a len : Nat) (task : Nat) : State :=
  let tag := s.fab.tag
  let m : Msg := { hdr := s.header (s.hiPri a) rack dst ctx epoch stream tag,
                   body := .rd (BitVec.ofNat 56 a) len, bad := false }
  let (s, path) := s.sendTo rack dst m
  { s with fab := { s.fab with
      tag := (tag + 1) % 2 ^ 24,
      outs := s.fab.outs ++ [⟨false, rack * 32 + dst, stream, tag, m, s.tick, s.tick, path, some task, none⟩] } }

/-- A response to a message: to its source, on its stream and SEQ (R430, R434). -/
def State.respond (s : State) (m : Msg) (body : Body) (demoted : Bool) : State :=
  let h := m.hdr
  let r : Msg := { hdr := { h with pri := h.pri && !demoted, transit := false, resend := false,
                                   src := BitVec.ofNat 5 s.module, srcAcc := false, srcRack := BitVec.ofNat 6 s.rack,
                                   dst := h.src, dstRack := h.srcRack }, body := body, bad := false }
  if h.srcRack.toNat ≠ s.rack then (s.sendTo h.srcRack.toNat h.src.toNat r).1
  else if h.srcAcc then s.sendAcc h.src.toNat r
  else (s.sendPeer h.src.toNat r).1

end Sys2Proof.Machine
end

