-- ==== Sys2Proof/Machine/Run.lean ====
section
/-! DEFINITION. How running work makes its accesses. A piece of work is a program that is run from its start; each access
it makes is answered from the task's log, or attempted, and when the answer has to be waited for the program is left
and run again once the answer has joined the log (log 5). -/

namespace Sys2Proof.Machine

/-- Why a program stops: it waits, or it ends with a status and a CODE; `home` names the remote home that ended it. -/
inductive Stop where
  | park
  | fin (st : Status) (code : Nat) (home : Option (Nat × Nat))
  deriving DecidableEq, Repr

/-- A running program: the state, its task, the answers used so far, how it would end now. -/
structure Rs where
  s : State
  id : Nat
  pos : Nat
  cur : Fin_

/-- Programs. -/
abbrev Prog (α : Type) := ExceptT Stop (StateM Rs) α

/-- The task of a number. -/
def noTask : Task := { kind := .row 0 0, src := .steward, ctx := 0 }
def State.task (s : State) (id : Nat) : Task := SMap.get s.tasks id noTask
def State.setTask (s : State) (id : Nat) (t : Task) : State := { s with tasks := SMap.put s.tasks id t }

/-- A new task enters. -/
def State.addTask (s : State) (t : Task) : Nat × State :=
  (s.nextTask, { s with tasks := SMap.put s.tasks s.nextTask t, nextTask := s.nextTask + 1 })

/-- The descriptor's task that a task works for: that of its access program's or Kettle program's descriptor, else its own. -/
def State.ownerOf (s : State) (id : Nat) : Nat :=
  match (s.task id).kind with
  | .stream n _ _ => ((SMap.get s.eng.newts n {}).task).getD id
  | .kettle n => ((SMap.get s.eng.kettles n {}).task).getD id
  | _ => id

/-- The tasks whose bytes a task's writes carry: those that dirtied a line written back, else the one it works for. -/
def State.ownersOf (s : State) (id : Nat) : List Nat :=
  match (s.task id).kind with
  | .wback _ _ _ _ _ _ by_ => by_.map (·.1)
  | _ => [s.ownerOf id]

/-- The running task. -/
def me : Prog Task := fun r => (.ok (r.s.task r.id), r)

/-- The progress a program has made so far: units, RESULT and flags (R141 to R143). -/
def progress (f : Fin_ → Fin_) : Prog Unit := fun r => (.ok (), { r with cur := f r.cur })

/-- The program ends with a status. -/
def fail {α : Type} (st : Status) : Prog α := fun r => (.error (.fin st 0 none), r)
def failCode {α : Type} (st : Status) (code : Nat) : Prog α := fun r => (.error (.fin st code none), r)

/-- The program ends unless a condition holds. -/
def need (b : Bool) (st : Status) : Prog Unit := if b then pure () else fail st

/-- Why a task attempts no further access: it is to end (R135, R146), or a write-back of what it wrote has failed (R142). Its
ending still makes accesses (R157, R164). -/
def Task.over (t : Task) : Option Stop :=
  if t.ending.isSome then none
  else
    match t.kill with
    | some st => some (.fin st 0 none)
    | none => t.bad.map fun b => .fin b.st 0 b.remote

/-- One access: the next answer of the log, or an attempt. An attempt that gives no answer leaves the task waiting. -/
def act (w : Wait) (f : Nat → State → State) : Prog Ans := fun r =>
  match (r.s.task r.id).log[r.pos]? with
  | some a => (.ok a, { r with pos := r.pos + 1 })
  | none =>
    match (r.s.task r.id).over with
    | some e => (.error e, r)
    | none =>
      let s := f r.id (r.s.setTask r.id { (r.s.task r.id) with wait := w })
      match (s.task r.id).log[r.pos]? with
      | some a => (.ok a, { r with s := s, pos := r.pos + 1 })
      | none => (.error .park, { r with s := s })

/-- What the program reads of the state, kept in the log so that a later run reads the same. -/
def look (f : State → Nat) : Prog Nat := do
  let a ← act .ready fun id s => s.deliver id { val := f s }
  pure a.val

/-- What the program reads of the state where the state no longer changes it. -/
def peek {α : Type} (f : State → α) : Prog α := fun r => (.ok (f r.s), r)

/-- A change of the state that needs no answer, made once. -/
def effect (f : State → State) : Prog Unit := do
  let _ ← act .ready fun id s => (f s).deliver id {}
  pure ()

/-- A change that also answers. -/
def change (f : State → State × Ans) : Prog Ans := act .ready fun id s =>
  let (s', a) := f s
  s'.deliver id a

/-- A free value. -/
def free : Prog Nat := do
  let a ← change fun s => let (n, s') := s.fresh; (s', { val := n })
  pure a.val

/-- A row of k free values: the number of the first. -/
def freeN (k : Nat) : Prog Nat := do
  let a ← change fun s => ({ s with free := s.free + k }, { val := s.free })
  pure a.val

/-- How many answers of the log are still unused, and one: a bound on how often a faulting access is walked again. -/
def retries : Prog Nat := fun r => (.ok ((r.s.task r.id).log.length - r.pos + 1), r)

/-- A program whose failure is caught: its status instead of its end. -/
def attempt {α : Type} (p : Prog α) : Prog (Except (Status × Nat × Option (Nat × Nat)) α) := fun r =>
  match p r with
  | (.ok a, r') => (.ok (.ok a), r')
  | (.error (.fin st c h), r') => (.ok (.error (st, c, h)), r')
  | (.error .park, r') => (.error .park, r')

/-- A program run from its start: the state, how it would end now, and its result. -/
def runProg {α : Type} (s : State) (id : Nat) (p : Prog α) : State × Fin_ × Except Stop α :=
  match p { s := s, id := id, pos := 0, cur := { st := .ok } } with
  | (.error .park, r) => (r.s.setTask id { (r.s.task id) with cur := r.cur }, r.cur, .error .park)
  | (x, r) => (r.s, r.cur, x)

/-- Each element in turn. -/
def each {α : Type} (f : α → Prog Unit) : List α → Prog Unit
  | [] => pure ()
  | x :: xs => do f x; each f xs

/-- Each element in turn, the results collected. -/
def collect {α β : Type} (f : α → Prog β) : List α → Prog (List β)
  | [] => pure []
  | x :: xs => do let y ← f x; let ys ← collect f xs; pure (y :: ys)

/-- The remote home that a failed answer names. -/
def Ans.home (a : Ans) : Option (Nat × Nat) := if a.val = 0 then none else some ((a.val - 1) / 32, (a.val - 1) % 32)

/-- An answer that is not ok ends the program with its status; a remote refusal names its home. -/
def ok (a : Ans) : Prog Ans := if a.st = .ok then pure a else fun r => (.error (.fin a.st 0 a.home), r)

/-! ## Accesses at the home -/

/-- The context a program's requests carry (R117). -/
def myCtx : Prog Nat := do return (← me).ctx

/-- A request of this module checked at its home (R46, R76, R102): its module-local address. `keep` marks accesses of a
subrequest, `wb` write-backs (R445). The request's bytes lie in one page. -/
def homeRequest (ctx a len : Nat) (kind : AccessKind) (keep wb : Bool) : Prog (Except Status Nat) := do
  let wr := decide (kind ≠ .read)
  let p ← change fun s =>
    match s.homeCheck .steward ctx s.epoch (a % 2 ^ 50) len wr with
    | .error st => (s, { st := st })
    | .ok ps => (s, { val := (ps.headD (0, 0)).1 })
  if p.st ≠ .ok then pure (.error p.st)
  else
    let c ← act .meter fun id s =>
      match s.meterCheck ctx (.task id keep wb) (if kind = .atomic then 64 else len) with
      | (s, .pass _) => s.deliver id {}
      | (s, .refuse) => s.deliver id { st := .rate }
      | (s, .wait) => s
    if c.st ≠ .ok then pure (.error c.st)
    else
      let q ← change fun s => (s, { st := s.readmit ctx wr [(p.val, len)] })
      pure (if q.st = .ok then .ok p.val else .error q.st)

/-- A task's next access is a read, or is none. -/
def State.issues (s : State) (id : Nat) (rd : Bool) : State := s.setTask id { (s.task id) with reading := rd }

/-- One line access at this module's slice (R168, R203) of a request under a context; the first line of a request to a chunk
counts its n bytes there (R93, R113). While the slice can hold no further request, one other than a write is not issued
(R208), unless it belongs to a request that has been accepted. -/
def lineAccess (l : Nat) (op : LineOp) (ctx n : Nat) (counts : Bool) : Prog Ans :=
  act .line fun id s =>
    let s := s.issues id (!op.writes)
    if !op.writes && s.sliceFull (l / 64) && !s.tier.serving.contains (id, l / 256) then
      s.setTask id { (s.task id) with wait := .issue }
    else s.submit { line := l / 64, who := .task id op, ctx := some ctx, bytes := n, counts := counts }

/-- The further lines of a request to a chunk: all of them, or those up to the first that fails. -/
def restLines {β : Type} (all : Bool) (f : β → Prog Ans) : List β → Prog (List Ans)
  | [] => pure []
  | x :: xs => do
    let a ← f x
    if all || a.st = .ok then return a :: (← restLines all f xs) else pure [a]

/-- The lines of one request to a chunk, in order. With its first line the request is accepted as a whole, so that neither a
move of the chunk nor an UNBACK comes between two of its lines (R82); a request refused there is refused whole. -/
def servedLines {β : Type} (all : Bool) (chunk : Nat) (f : Bool → β → Prog Ans) : List β → Prog (List Ans)
  | [] => pure []
  | [x] => do return [← f true x]
  | x :: xs => do
    let a ← f true x
    if a.st = .prot ∨ a.st = .revoked ∨ a.st = .invalid then pure (a :: xs.map fun _ => a)
    else if !all && a.st ≠ .ok then pure [a]
    else
      let _ ← act .ready fun id s =>
        ({ s with tier := { s.tier with serving := s.tier.serving ++ [(id, chunk)] } } : State).deliver id {}
      let r ← restLines all (f false) xs
      let _ ← act .ready fun id s =>
        ({ s with tier := { s.tier with serving := s.tier.serving.erase (id, chunk) } } : State).deliver id {}
      pure (a :: r)

/-- A read of the lines of a request to one chunk at a module-local address: each line's bytes of it. -/
def readLines (l n ctx : Nat) : Prog (List Ans) :=
  servedLines true (l / 256) (fun first (x, k) => do
    let r ← lineAccess x .read ctx (if first then n else 0) first
    pure { r with data := (r.data.drop (x % 64)).take k }) (cut 64 l n)

/-- The home of a store address of this rack, by the current table: module and module-local address. -/
def State.homeOf (s : State) (a : Nat) : Option (Nat × Nat) :=
  (findSet s.tier.cur (a % 2 ^ 50)).map fun e => e.2.decode (a % 2 ^ 50)

/-- Where a request for a store address goes: 0 nowhere (no set), 1 here, 2 + module another module, 64 + rack the
hall. -/
def State.whither (s : State) (a : Nat) : Nat :=
  if a / 2 ^ 50 ≠ s.rack then 64 + a / 2 ^ 50
  else
    match s.homeOf a with
    | none => 0
    | some (m, _) => if m = s.module then 1 else 2 + m

/-- The stream of a source: queue number mod 64; hall-level messages use stream 0 (R429). -/
def streamOf : ReqSrc → Nat
  | .queue q => q.val % 64
  | _ => 0

/-- The source's own partition and route checks on a remote request (R24, R25, R433). -/
def State.mayGo (s : State) (w : Nat) : Bool :=
  if w ≥ 64 then s.flag Reg.GLB_PART_CTL Reg.GLB_PART_CTL_HALL && !(s.uplinks (w - 64)).isEmpty
  else s.member (w - 2)

/-- Rack, module and epoch of a remote request (R20, R109). -/
def State.remoteOf (s : State) (w : Nat) : Nat × Nat × Nat :=
  if w ≥ 64 then
    (w - 64, s.fld (Reg.ZL_HALL_ROUTE (w - 64)) Reg.ZL_HALL_ROUTE_GW,
      s.fld (Reg.ZL_HALL_ROUTE (w - 64)) Reg.ZL_HALL_ROUTE_EPOCH)
  else (s.rack, w - 2, s.epoch)

/-- The answer of a request of several lines, as the answer of each. -/
def lineAnswers (a len : Nat) (r : Ans) : List Ans :=
  (cut 64 a len).map fun (x, k) => { r with data := (r.data.drop (x - a)).take k }

/-- One read request of bytes of one 256-byte chunk at a store address (R46, R82, R258, R429), and the answer for each of
its lines: a home elsewhere answers the request whole (R506). -/
def storeReads (a len : Nat) (keep : Bool) : Prog (List Ans) := do
  let t ← me
  let w ← look fun s => s.whither a
  if w = 0 then pure (lineAnswers a len { st := .invalid })
  else if w = 1 then
    match ← homeRequest t.ctx a len .read keep false with
    | .error st => pure (lineAnswers a len { st := st })
    | .ok l => readLines l len t.ctx
  else
    let r ← act .fabric fun id s =>
      let (rk, m, ep) := s.remoteOf w
      if !s.mayGo w then s.deliver id { st := .fenced }
      else (s.issues id true).sendRead rk m (streamOf t.src) t.ctx ep a len id
    pure (lineAnswers a len r)

/-- A task's STORE-class message toward where `whither` says: refused when it may not go there now (R24, R25, R433), sent, or
held while the module keeps as many as it may (R431). -/
def State.offerStore (s : State) (id w : Nat) (t : Task) (body : Body) : State :=
  let (rack, dst, epoch) := s.remoteOf w
  if !s.mayGo w then s.deliver id { st := .fenced, unsent := true }
  else if s.storesFull then s.setTask id { (s.task id) with wait := .issue }
  else (s.issues id false).sendStore rack dst (streamOf t.src) t.ctx epoch body (some id)

/-- A masked write of one line at a store address; mask bits and data are of the whole line (R163, R571). -/
def storeWrite (line mask : Nat) (d : List Byte) (keep wb : Bool) : Prog Ans := do
  let t ← me
  let a := line * 64
  let n := popcount 64 mask
  let w ← look fun s => s.whither a
  if w = 0 then pure { st := .invalid, unsent := true }
  else if w = 1 then
    match ← homeRequest t.ctx a n .write keep wb with
    | .error st => pure { st := st }
    | .ok l => lineAccess l (.write mask d) t.ctx n true
  else
    act .fabric fun id s =>
      let lo := ((setBits 64 mask).headD 0)
      let body : Body :=
        if mask = rangeMask lo n then .wr (BitVec.ofNat 56 (a + lo)) ((d.drop lo).take n)
        else .wrMasked (BitVec.ofNat 56 a) (BitVec.ofNat 64 mask) d
      s.offerStore id w t body

/-- A line marked as poison at a store address (R506). -/
def storePoison (line : Nat) : Prog Ans := do
  let t ← me
  let a := line * 64
  let w ← look fun s => s.whither a
  if w = 0 then pure { st := .invalid, unsent := true }
  else if w = 1 then
    match ← homeRequest t.ctx a 64 .write false false with
    | .error st => pure { st := st }
    | .ok l => lineAccess l .poison t.ctx 64 true
  else
    act .fabric fun id s =>
      s.offerStore id w t (.atom (BitVec.ofNat 56 a) 0xFE 64 0 0)

/-- An atomic at a store address of this rack (R17, R184, R188, R570). `comb` when it has no result address. -/
def storeAtomic (a subop width op1 op2 : Nat) (comb precise : Bool) : Prog Ans := do
  let t ← me
  let w ← look fun s => s.whither a
  if w = 0 ∨ w ≥ 64 then pure { st := .invalid, unsent := true }
  else if w = 1 then
    match ← homeRequest t.ctx a width .atomic false false with
    | .error st => pure { st := st }
    | .ok l =>
      let mode ← look fun s => match s.regionOf l with | some (_, r) => r.combine.toNat | none => 0
      let eligible := decide (mode = 1) && comb && !precise && (decide (subop ≤ 7) || subop = 10)
      if eligible then
        let c ← change fun s =>
          if s.lineHeld (l / 64) then (s, { val := 0 })
          else
            match s.combineTry (l / 64) (l % 64) subop width op1 with
            | some s' => (s'.accept true true l width, { val := 1 })
            | none => (s, { val := 0 })
        if c.val = 1 then pure {} else lineAccess l (.atomic subop width (l % 64) op1 op2) t.ctx width true
      else lineAccess l (.atomic subop width (l % 64) op1 op2) t.ctx width true
  else
    act .fabric fun id s =>
      s.offerStore id w t (.atom (BitVec.ofNat 56 a) (BitVec.ofNat 8 subop) (BitVec.ofNat 8 width)
        (BitVec.ofNat 64 op1) (BitVec.ofNat 64 op2))

/-! ## Accesses to host memory -/

/-- A read of host memory through a head, one non-posted request (R470 to R472). -/
def hostRead (head hpa len : Nat) : Prog Ans :=
  act .dma fun id s =>
    if ¬ s.canDma head then s.deliver id { st := .tierErr }
    else if s.dmaFull head then s.setTask id { (s.task id) with wait := .held }
    else
      let s := s.issues id true
      { s with
        dmas := SMap.put s.dmas s.nextDma ⟨head, hpa, len, .task id .read, s.tick⟩, nextDma := s.nextDma + 1,
        out := { s.out with hostRd := s.out.hostRd ++ [(head, hpa, len)] } }

/-- A posted write to host memory through a head (R154, R470, R506). -/
def hostPut (head hpa mask : Nat) (d : List Byte) (poison : Bool) : Prog Ans :=
  change fun s => if s.canDma head then (s.hostWriteM head hpa mask d poison, {}) else (s, { st := .tierErr })

/-- A task notes a head that its bytes have been written through (R157). -/
def State.noteHead (s : State) (head hpa o : Nat) : State :=
  match SMap.find s.tasks o with
  | some t => s.setTask o { t with heads := (t.heads.filter fun x => x.1 ≠ head) ++ [(head, hpa)] }
  | none => s

/-- Every task whose bytes are written through a head notes it. -/
def noteHead (head hpa : Nat) : Prog Unit := do
  let _ ← act .ready fun id s => ((s.ownersOf id).foldl (fun s o => s.noteHead head hpa o) s).deliver id {}
  pure ()

/-! ## Accesses to a target -/

/-- One read request of bytes of one 256-byte chunk of a target: the answer for each of its lines. -/
def targetReads (t : Target) (len : Nat) (keep : Bool) : Prog (List Ans) :=
  match t with
  | .store a => storeReads a len keep
  | .host h p => do return lineAnswers p len (← hostRead h p len)

/-- A read of bytes within one line of a target. -/
def targetRead (t : Target) (len : Nat) (keep : Bool) : Prog Ans := do
  return ((← targetReads t len keep).headD {})

/-- A masked write of one line of a target, as one write (R163, R168). -/
def targetWrite (t : Target) (mask : Nat) (d : List Byte) (keep wb : Bool) : Prog Ans :=
  match t with
  | .store a => storeWrite (a / 64) mask d keep wb
  | .host h p => do
    noteHead h (alignDown p 64)
    hostPut h (alignDown p 64) mask d false

/-- A line of a target written as poison (R506, R508). -/
def targetPoison (t : Target) : Prog Ans :=
  match t with
  | .store a => storePoison (a / 64)
  | .host h p => do noteHead h (alignDown p 64); hostPut h (alignDown p 64) fullMask (List.replicate 64 0) true

/-- The next line address of a target. -/
def Target.plus (t : Target) (n : Nat) : Target :=
  match t with
  | .store a => .store (a + n)
  | .host h p => .host h (p + n)

/-- A target's address within its line. -/
def Target.off (t : Target) : Nat :=
  match t with
  | .store a => a % 64
  | .host _ p => p % 64

/-- A target's address within its 256-byte chunk, by which reads are cut (R82, R258). -/
def Target.low (t : Target) : Nat :=
  match t with
  | .store a => a % 256
  | .host _ p => p % 256

/-- A target that a request of a rack reaches at module or rack level (R12). -/
def Target.inRack (rack : Nat) (t : Target) : Bool :=
  match t with
  | .store a => a / 2 ^ 50 = rack
  | .host .. => true

/-- The line that holds a target. -/
def Target.line (t : Target) : Target :=
  match t with
  | .store a => .store (alignDown a 64)
  | .host h p => .host h (alignDown p 64)

/-- A range of a target read in requests of at most a chunk; the first status other than ok ends it. -/
def readRange (t : Target) (len : Nat) (keep : Bool) : Prog (List Byte) := do
  let parts ← collect (fun (x, k) => do
    let rs ← collect ok (← targetReads (t.plus (x - t.low)) k keep)
    pure (rs.flatMap (·.data))) (cut 256 t.low len)
  pure parts.flatten

end Sys2Proof.Machine
end

