-- ==== Sys2Proof/Machine/Xlt.lean ====
section
/-! DEFINITION. Engine virtual addresses (02): table walks, TLBs and walk caches, faults and their ring, tokens. -/

namespace Sys2Proof.Machine

/-! ## Rings of records -/

/-- The store or host address of a ring's next record. -/
def State.ringSlot (s : State) (k : Nat) : Nat :=
  s.fld (ringBase k) Reg.XLT_FQ_BASE_ADDR * 2 ^ 12 + s.fld (ringPtrs k) Reg.XLT_FQ_PTRS_TAIL * 32

/-- A ring has room (R63). -/
def State.ringRoom (s : State) (k : Nat) : Bool :=
  (s.fld (ringPtrs k) Reg.XLT_FQ_PTRS_TAIL + 1) % s.ringLen k ≠ s.fld (ringPtrs k) Reg.XLT_FQ_PTRS_HEAD

/-- The phase bit of a ring's next record. -/
def State.ringPhase (s : State) (k : Nat) : Bool :=
  if k = 0 then s.xlt.phase else if k = 1 then s.ras.plogPhase else s.ras.advPhase

/-- A record's bytes as they are written: PHASE, and TICK in fault and poison records (R63, R218). -/
def State.ringBytes (s : State) (r : RingRec) : List Byte :=
  let at_ := if r.ring = 0 then 15 else if r.ring = 1 then 17 else 2
  let old := (r.bytes.getD at_ 0).toNat
  let b := spliceBytes (fitBytes 32 r.bytes) at_ [BitVec.ofNat 8 (putBit old 7 (s.ringPhase r.ring))]
  if r.ring = 2 then b else spliceBytes b 24 (natLE 8 s.tick)

/-- The word of a record that holds PHASE goes last (R473): its first and last byte. -/
def phaseWord (k : Nat) : Nat × Nat := if k = 0 then (8, 16) else if k = 1 then (16, 24) else (0, 8)

/-- An access of the module to a ring, under context 0x0000 (R42, R119). -/
def ringReq (l n : Nat) (w : Who) : LineReq := { line := l / 64, who := w, ctx := some 0, bytes := n, counts := true }

/-- A record written at its ring's TAIL: none when its write cannot be made. -/
def State.ringWrite (s : State) (r : RingRec) : Option State :=
  let k := r.ring
  let a := s.ringSlot k
  let b := s.ringBytes r
  let s := if r.alert then { s with ras := { s.ras with
      alertAdv := s.ras.alertAdv ++ [s.fld (ringPtrs k) Reg.XLT_FQ_PTRS_TAIL] } } else s
  let s := { s with xlt := { s.xlt with
      toks := s.xlt.toks.map fun (t : FaultTok) => if r.tok ≠ 0 ∧ t.tok = r.tok then { t with written := true } else t } }
  if s.flag (ringBase k) Reg.XLT_FQ_BASE_HOSTMEM then
    let h := s.fld (ringBase k) Reg.XLT_FQ_BASE_HEAD
    if ¬ s.canDma h then none
    else
      let (i, j) := phaseWord k
      let m := rangeMask i (j - i)
      some ((s.hostRecord h a (2 ^ 32 - 1) m b).ringDone k)
  else
    match s.homeCheck .steward 0 s.epoch (a % 2 ^ 50) 32 true with
    | .error _ => none
    | .ok ps =>
      let l := (ps.headD (0, 0)).1
      if s.placeCheck l ≠ Status.ok then none
      else
        let s := { s with ringBusy := s.ringBusy ++ [k] }
        some (s.submit (ringReq l 32 (.post k (.write (rangeMask (l % 64) 32) (List.replicate (l % 64) 0 ++ b)))))

/-- Records due in a ring are written while there is room; what finds no room, or cannot be written, waits, is
dropped, or is counted as lost (R64, R219, R524). A fault record that cannot be written for another reason than a full ring is
handled as one that finds the ring full (log 87). -/
def ringPump (k : Nat) (s : State) : List RingRec → List RingRec → State
  | [], kept => { s with ringq := kept }
  | r :: rest, kept =>
    if r.ring ≠ k ∨ s.ringBusy.contains k then ringPump k s rest (kept ++ [r])
    else
      let lose := fun (s : State) (full : Bool) =>
        if k = 0 then
          if r.tok ≠ 0 then (s.setFld Reg.XLT_FQ_CFG Reg.XLT_FQ_CFG_FULL_WAIT 1, true)
          else (s.setFld Reg.XLT_FQ_CFG Reg.XLT_FQ_CFG_DROPPED 1, false)
        else (s.ringLost k (!full), false)
      let res :=
        if ¬ s.flag (ringBase k) Reg.XLT_FQ_BASE_EN then (if k = 0 then (s, false) else (s.ringLost k true, false))
        else if ¬ s.ringRoom k then lose s true
        else match s.ringWrite r with
          | some s' => (s', false)
          | none => lose s false
      ringPump k res.1 rest (if res.2 then kept ++ [r] else kept)

/-- Every ring offered its due records. -/
def State.pumpRings (s : State) : State :=
  if s.ringq.isEmpty then s
  else
    let s := ringPump 0 s s.ringq []
    let s := ringPump 1 s s.ringq []
    ringPump 2 s s.ringq []

/-! ## TLBs -/

/-- Bits of the virtual address above the page of a level (R49). -/
def vpnAt (va level : Nat) : Nat := va / 2 ^ (12 + 9 * (level - 1))

/-- Whether two entries are of the same page or table. -/
def TlbEnt.same (x e : TlbEnt) : Bool := decide (x.ctx = e.ctx ∧ x.level = e.level ∧ x.vpn = e.vpn)

/-- An entry added to a cache of n entries; a free choice leaves when it is full (log 14). -/
def addEnt (n seed : Nat) (l : List TlbEnt) (e : TlbEnt) : List TlbEnt :=
  let l := l.filter fun x => !x.same e
  (if l.length < n then l else l.eraseIdx (Config.freeNat seed % l.length)) ++ [e]

/-- The set of a die's L2 TLB that an entry falls in (log 14). -/
def TlbEnt.set (e : TlbEnt) : Nat := Config.tlbSet e.ctx e.level e.vpn % 4096

/-- An entry added to a die's L2 TLB, 4 096 sets of eight; a free choice of its set leaves when that is full (log 14). -/
def addEntL2 (seed : Nat) (l : List TlbEnt) (e : TlbEnt) : List TlbEnt :=
  let l := l.filter fun x => !x.same e
  let set := l.filter fun x => x.set = e.set
  if set.length < 8 then l ++ [e]
  else
    match set[Config.freeNat seed % set.length]? with
    | some v => (l.filter fun x => !x.same v) ++ [e]
    | none => l ++ [e]

/-- A leaf of a context that maps an address, in a list of entries. -/
def findLeaf (l : List TlbEnt) (ctx va : Nat) : Option TlbEnt :=
  l.find? fun e => e.ctx = ctx ∧ 1 ≤ e.level ∧ e.level ≤ 3 ∧ e.vpn = vpnAt va e.level

/-- The leaf in an engine's L1 TLB or its die's L2 TLB (R56). -/
def State.tlbLook (s : State) (e : Eng) (ctx va : Nat) : State × Option TlbEnt :=
  match findLeaf (SMap.get s.xlt.l1 e.key []) ctx va with
  | some x => (s, some x)
  | none =>
    match findLeaf (SMap.get s.xlt.l2 e.die []) ctx va with
    | some x =>
      let l1 := SMap.set s.xlt.l1 e.key (addEnt 64 s.free (SMap.get s.xlt.l1 e.key []) x) []
      ({ s with free := s.free + 1, xlt := { s.xlt with l1 := l1 } }, some x)
    | none => (s, none)

/-- A leaf joins the TLBs of an engine and its die (R56). -/
def State.tlbFill (s : State) (e : Eng) (x : TlbEnt) : State :=
  { s with free := s.free + 2, xlt := { s.xlt with
      l1 := SMap.set s.xlt.l1 e.key (addEnt 64 s.free (SMap.get s.xlt.l1 e.key []) x) [],
      l2 := SMap.set s.xlt.l2 e.die (addEntL2 (s.free + 1) (SMap.get s.xlt.l2 e.die []) x) [] } }

/-- An entry of the walk cache of a die: levels 2 to 5 non-leaf entries, 0 the context entry's first word, 6 its GEN. -/
def State.wcFind (s : State) (die ctx level vpn : Nat) : Option Word :=
  ((SMap.get s.xlt.wc die []).find? fun e => e.ctx = ctx ∧ e.level = level ∧ e.vpn = vpn).map (·.word)

/-- An entry joins the walk cache of a die (R56). -/
def State.wcFill (s : State) (die ctx level vpn : Nat) (w : Word) : State :=
  { s with free := s.free + 1, xlt := { s.xlt with
      wc := SMap.set s.xlt.wc die (addEnt 512 s.free (SMap.get s.xlt.wc die []) ⟨ctx, level, vpn, w⟩) [] } }

/-- Whether an entry's page overlaps a range of a context (R57); the whole context when the range has no length. -/
def TlbEnt.overlaps (e : TlbEnt) (ctx lo len : Nat) : Bool :=
  decide (e.ctx = ctx) && (len = 0 || e.level = 0 || e.level = 6 ||
    (let sz := 2 ^ (12 + 9 * (e.level - 1)); decide (e.vpn * sz < lo + len) && decide (lo < (e.vpn + 1) * sz)))

/-- How often entries of a context have been dropped. -/
def State.shots (s : State) (ctx : Nat) : Nat := SMap.get s.xlt.shots ctx 0

/-- Every entry of a context that overlaps a range dropped, with its cached context entry (R57, R58, R67). -/
def State.tlbDrop (s : State) (ctx lo len : Nat) : State :=
  let f := fun (m : SMap (List TlbEnt)) =>
    (SMap.mapv m fun _ l => l.filter fun e => !e.overlaps ctx lo len).filter fun e => !e.2.isEmpty
  { s with xlt := { s.xlt with l1 := f s.xlt.l1, l2 := f s.xlt.l2, wc := f s.xlt.wc,
                               shots := SMap.set s.xlt.shots ctx (s.shots ctx + 1) 0 } }

/-- An entry found by a walk joins the caches, unless entries of its context have been dropped since the walk began (R57). -/
def State.fillSince (s : State) (ctx n : Nat) (f : State → State) : State := if s.shots ctx = n then f s else s

/-! ## Walks -/

/-- A fault met by a walk or an access: kind, level, GEN, and the status of a WALK_ERROR. -/
structure FaultInfo where
  kind : Nat
  level : Nat
  gen : Nat
  st : Status
  replay : Bool

/-- The status a descriptor ends with on a fault of a kind (02, "Fault kinds"). -/
def faultStatus (kind : Nat) (st : Status) : Status :=
  if kind = 2 then .prot else if kind = 6 then st else .fault

/-- The status of a walk read as WALK_ERROR carries it: a read that its home refuses, or whose table is homed elsewhere, ends as a
tier error does (log 84). -/
def walkStatus (st : Status) : Status := if st = .poison then .poison else .tierErr

/-- A read of this module under context 0x0000 (R42, R50, R119): bytes of one line. -/
def ownRead (a len : Nat) : Prog Ans := do
  let w ← look fun s => s.whither a
  if w ≠ 1 then pure { st := .tierErr }
  else
    match ← homeRequest 0 a len .read false false with
    | .error st => pure { st := st }
    | .ok l =>
      let r ← lineAccess l .read 0 len true
      pure { r with data := (r.data.drop (a % 64)).take len }

/-- The context entry of a context: its first word and GEN, from the walk cache or the table (R50, R53, R59). A fault reports
GEN 0 where the entry could not be read (log 85). `n` is the context's count of drops when the walk began. -/
def contextEntry (die ctx n : Nat) : Prog (Except FaultInfo (Nat × Nat)) := do
  let c ← change fun s =>
    match s.wcFind die ctx 0 0, s.wcFind die ctx 6 0 with
    | some w, some g => (s, { val := 1, data := natLE 8 w.toNat ++ natLE 4 g.toNat })
    | _, _ => (s, { val := 0 })
  if c.val = 1 then pure (.ok (fieldLE c.data 0 8, fieldLE c.data 8 4))
  else
    let base ← look fun s => s.fld Reg.XLT_CTX_BASE Reg.XLT_CTX_BASE_BASE * 2 ^ 21
    let r ← ownRead (base + 32 * ctx) 32
    if r.st ≠ .ok then pure (.error ⟨6, 0, 0, walkStatus r.st, false⟩)
    else
      let w := fieldLE r.data 0 8
      let g := fieldLE r.data 8 4
      let bad := bits w 11 3 ≠ 0 ∨ bits w 63 56 ≠ 0 ∨ leNat ((r.data.drop 12).take 20) ≠ 0
      if ¬ bit w 0 ∨ bad then pure (.error ⟨5, 0, g, .fault, false⟩)
      else
        effect fun s => s.fillSince ctx n fun s =>
          (s.wcFill die ctx 0 0 (BitVec.ofNat 64 w)).wcFill die ctx 6 0 (BitVec.ofNat 64 g)
        pure (.ok (w, g))

/-- Whether a table entry makes the walk MALFORMED at a level (R53). A leaf in transit is held to the layout of a store leaf, so
that MALFORMED comes before IN_TRANSIT (log 86). -/
def malformed (level e : Nat) (hostOk : Bool) : Bool :=
  let leaf := bit e 4
  let tgt := bits e 7 6
  (leaf && decide (level ≥ 4)) || (!leaf && level = 1) || (!leaf && tgt ≠ 0) || tgt = 2 ||
  (leaf && tgt = 1 && !hostOk) ||
  (leaf && level = 2 && bits e 20 12 ≠ 0) || (leaf && level = 3 && bits e 29 12 ≠ 0) ||
  (if leaf && tgt = 1 then bits e 63 54 ≠ 0 else bits e 63 56 ≠ 0)

/-- A walk from a level's table down: the leaf's level and word, or a fault (R53, R55, R56). -/
def walkFrom (die ctx va gen n : Nat) (hostOk replay : Bool) : Nat → Nat → Prog (Except FaultInfo (Nat × Nat))
  | 0, _ => pure (.error ⟨4, 1, gen, .fault, replay⟩)
  | level + 1, table => do
    let lv := level + 1
    let cached ← change fun s =>
      match s.wcFind die ctx lv (vpnAt va lv) with
      | some w => (s, { val := 1, data := natLE 8 w.toNat })
      | none => (s, { val := 0 })
    let r ← if cached.val = 1 then pure { st := .ok, data := cached.data : Ans }
            else ownRead (table + 8 * (vpnAt va lv % 512)) 8
    if r.st ≠ .ok then pure (.error ⟨6, lv, gen, walkStatus r.st, replay⟩)
    else
      let e := fieldLE r.data 0 8
      if ¬ bit e 0 then pure (.error ⟨1, lv, gen, .fault, replay⟩)
      else if malformed lv e hostOk then pure (.error ⟨4, lv, gen, .fault, replay⟩)
      else if bit e 4 then
        if bits e 7 6 = 3 then pure (.error ⟨3, lv, gen, .fault, replay⟩) else pure (.ok (lv, e))
      else
        if cached.val = 0 then
          effect fun s => s.fillSince ctx n fun s => s.wcFill die ctx lv (vpnAt va lv) (BitVec.ofNat 64 e)
        walkFrom die ctx va gen n hostOk replay level (bits e 55 12 * 2 ^ 12)

/-- The table walk of an address (R50 to R56, R59), begun when the context's entries had been dropped n times. -/
def walk (e : Eng) (ctx va n : Nat) : Prog (Except FaultInfo (Nat × Nat)) := do
  match ← contextEntry e.die ctx n with
  | .error f => pure (.error f)
  | .ok (w, g) =>
    match ← walkFrom e.die ctx va g n (bit w 2) (bit w 1) 5 (bits w 55 12 * 2 ^ 12) with
    | .error f => pure (.error f)
    | .ok (lv, leaf) =>
      effect fun s => s.fillSince ctx n fun s => s.tlbFill e ⟨ctx, lv, vpnAt va lv, BitVec.ofNat 64 leaf⟩
      pure (.ok (lv, leaf))

/-! ## Faults -/

/-- The queue whose descriptor a task belongs to (R63). -/
def Task.queue (t : Task) : Nat :=
  match t.src with
  | .queue q => q.val
  | _ => 0

/-- ENG_KIND and ENG_IDX of a fault record (02, "The fault ring"). -/
def engByte (e : Eng) : Nat :=
  (match e.kind with | .newt => 0 | .kettle => 1 | .gecko => 2 | .emb => 3 | .mover => 0) * 32 + e.idx.val

/-- A fault record, less PHASE and TICK. -/
def faultBytes (va ctx queue eng kind : Nat) (acc : AccessKind) (ended : Bool) (level gen tok : Nat) : List Byte :=
  natLE 8 va ++ natLE 2 ctx ++ natLE 2 queue ++ [BitVec.ofNat 8 eng, BitVec.ofNat 8 kind] ++
  [BitVec.ofNat 8 ((match acc with | .read => 1 | .write => 2 | .atomic => 4) + ended.toNat * 8),
   BitVec.ofNat 8 level] ++ natLE 4 gen ++ natLE 4 tok ++ natLE 8 0

/-- The record of a fault that has ended its descriptor (R63, R71). -/
def State.endedFault (s : State) (va ctx queue eng kind : Nat) (acc : AccessKind) (level gen : Nat) : State :=
  if ¬ s.flag Reg.XLT_FQ_BASE Reg.XLT_FQ_BASE_EN then s
  else { s with ringq := s.ringq ++ [{ ring := 0, bytes := faultBytes va ctx queue eng kind acc true level gen 0 }] }

/-- A replayable fault stalls its task: it joins an outstanding token of the same page, kind and access, or makes one
with a record (R64, R65). -/
def State.stall (s : State) (id va : Nat) (f : FaultInfo) (acc : AccessKind) : State :=
  let t := s.task id
  let eb := match t.eng with | some e => engByte e | none => 0
  if s.xlt.toks.any fun k => k.ctx = t.ctx ∧ k.va / 4096 = va / 4096 ∧ k.kind = f.kind ∧ k.acc = acc then
    { s with xlt := { s.xlt with toks := s.xlt.toks.map fun k =>
        if k.ctx = t.ctx ∧ k.va / 4096 = va / 4096 ∧ k.kind = f.kind ∧ k.acc = acc then
          { k with joined := k.joined ++ [id] } else k } }
  else
    let n := s.xlt.nextTok
    let k : FaultTok := { tok := n, ctx := t.ctx, va := va, kind := f.kind, acc := acc, level := f.level, gen := f.gen,
                          queue := t.queue, eng := eb, written := false, since := s.tick, joined := [id] }
    { s with
      xlt := { s.xlt with toks := s.xlt.toks ++ [k], nextTok := if n + 1 < 2 ^ 32 then n + 1 else 1 },
      ringq := s.ringq ++ [{ ring := 0, bytes := faultBytes va t.ctx t.queue eb f.kind acc false f.level f.gen n,
                             tok := n }] }

/-- Whether a fault is replayable (R62, R71). -/
def State.replayable (s : State) (e : Eng) (f : FaultInfo) : Bool :=
  (f.kind = 1 || f.kind = 2 || f.kind = 3) && s.fixed.faultMode e.kind = 3 && f.replay &&
  s.flag Reg.XLT_FQ_BASE Reg.XLT_FQ_BASE_EN

/-- The descriptors that an engine holds stalled (R66). -/
def State.stalledOn (s : State) (e : Eng) : List Nat :=
  ((s.tasks.filter fun t => t.2.eng = some e ∧ t.2.wait = .fault).map fun t => s.ownerOf t.1).eraseDups

/-- A task's access waits as long as its engine holds four stalled descriptors (R66); then it sees how often entries of its
context have been dropped. `have_` says whether the task holds a translation from here on, until it makes another (R57). -/
def faultGate (e : Eng) (ctx : Nat) (have_ : Bool) : Prog Nat := do
  let a ← act .held fun id s =>
    let s := s.setTask id { (s.task id) with translated := have_ }
    if decide ((s.stalledOn e).length ≥ 4) then s else s.deliver id { val := s.shots ctx }
  pure a.val

/-- Work of a compute descriptor (R19): classes 0x3_, 0x4_ and 0x5_, with the streams and store accesses of its Kettle
program. -/
def Task.compute (t : Task) : Bool :=
  match t.kind with
  | .desc .. => let o := (t.bytes.headD 0).toNat / 16; o = 3 || o = 4 || o = 5
  | .stream .. | .kettle _ => true
  | _ => false

/-- The leaf of an address from the engine's TLBs, else by a walk that waits for its turn (R50, R53, R56): the level and word, or
the fault. While EN is 0 every access faults (02, "The context table"). `n` as for `walk`. -/
def leafOf (e : Eng) (va : Nat) (acc : AccessKind) (n : Nat) : Prog (Except FaultInfo (Nat × Nat)) := do
  let t ← me
  let hit ← act .ready fun id s =>
    if s.fld Reg.XLT_CTX_BASE Reg.XLT_CTX_BASE_EN = 0 then s.deliver id { st := .fault }
    else
      let s := s.setTask id { (s.task id) with xlat := (s.task id).xlat + 1 }
      match s.tlbLook e t.ctx va with
      | (s, some x) => s.deliver id { val := x.level, data := natLE 8 x.word.toNat }
      | (s, none) => s.deliver id { val := 0 }
  if hit.st ≠ .ok then pure (.error ⟨5, 0, 0, .fault, false⟩)
  else if hit.val ≠ 0 then pure (.ok (hit.val, fieldLE hit.data 0 8))
  else
    let _ ← act .walk fun id s => s.setTask id { (s.task id) with need := some (va, acc) }
    walk e t.ctx va n

/-- The bytes that an entry of a level maps. -/
def leafSize (lv : Nat) : Nat := 2 ^ (12 + 9 * (lv - 1))

/-- What a leaf names at an address: the target, and how many bytes of the leaf begin there (R49, R54). -/
def leafNames (va lv w : Nat) : Target × Nat :=
  let off := va % leafSize lv
  (if bits w 7 6 = 1 then .host (bits w 53 52) (alignDown (bits w 51 12 * 2 ^ 12) (leafSize lv) + off)
   else .store (alignDown (bits w 55 12 * 2 ^ 12) (leafSize lv) + off), leafSize lv - off)

/-- What a leaf names for an access at an address (R12, R19, R54). A permission that the leaf lacks has been seen before: an
atomic to host memory ends so only where AT permits it (log 88). -/
def leafTarget (va : Nat) (acc : AccessKind) (lv w : Nat) : Prog (Target × Nat) := do
  let t ← me
  match leafNames va lv w with
  | (.host h p, n) => if acc = .atomic then fail .invalid else pure (.host h p, n)
  | (.store a, n) =>
    let here ← look fun s => (s.rack : Nat)
    if t.compute ∧ a / 2 ^ 50 ≠ here then fail .invalid else pure (.store a, n)

/-- One translation, made again after each replay and after a drop of its context's entries while it was under way (R56, R57,
R66, R67): the target, and how many bytes of its leaf begin there. `quiet` leaves the record of an ending fault to a
ring wait (R263). -/
def translateLoop (e : Eng) (va : Nat) (acc : AccessKind) (quiet : Bool) : Nat → Prog (Target × Nat)
  | 0 => fail .fault
  | fuel + 1 => do
    let t ← me
    let n ← faultGate e t.ctx false
    let leaf ← leafOf e va acc n
    -- REPLAY of the context governs a permission fault met on a cached leaf (R62)
    let rep ← match leaf with
      | .ok _ => do
        match ← contextEntry e.die t.ctx n with
        | .ok (w, g) => pure (bit w 1, g)
        | .error _ => pure (false, 0)
      | .error f => pure (f.replay, f.gen)
    if (← faultGate e t.ctx true) ≠ n then translateLoop e va acc quiet fuel
    else
      let res : Except FaultInfo (Nat × Nat) :=
        match leaf with
        | .error f => .error f
        | .ok (lv, w) =>
          let allowed := match acc with | .read => bit w 1 | .write => bit w 2 | .atomic => bit w 3
          if allowed then .ok (lv, w) else .error ⟨2, lv, rep.2, .prot, rep.1⟩
      match res with
      | .ok (lv, w) => leafTarget va acc lv w
      | .error f =>
        let rp ← look fun s => (s.replayable e f).toNat
        if rp = 1 then
          let a ← act .fault fun id s => s.stall id va f acc
          if a.st = .ok then
            progress fun c => { c with replayed := true }
            translateLoop e va acc quiet fuel
          else fun r => (.error (.fin a.st (if a.st = .timeout then 0 else f.kind) none), r)
        else
          let _ ← act .ready fun id s =>
            (if quiet then s.setTask id { (s.task id) with
                quiet := faultBytes va t.ctx t.queue (engByte e) f.kind acc true f.level f.gen 0 }
             else s.endedFault va t.ctx t.queue (engByte e) f.kind acc f.level f.gen).deliver id {}
          failCode (faultStatus f.kind f.st) (if f.kind = 6 then 0 else f.kind)

/-- A virtual address translated by an engine for an access (R48, R117, R161). -/
def translate (e : Eng) (va : Nat) (acc : AccessKind) (quiet : Bool) : Prog Target := do
  return (← translateLoop e va acc quiet (← retries)).1

/-- A translation with the bytes of its leaf from there on (R322). -/
def translateLeaf (e : Eng) (va : Nat) (acc : AccessKind) : Prog (Target × Nat) := do
  translateLoop e va acc false (← retries)

/-- Translations that are used together, made again when entries of the context have been dropped meanwhile (R57). -/
def stableLoop {α : Type} (p : Prog α) : Nat → Prog α
  | 0 => p
  | fuel + 1 => do
    let t ← me
    let n ← look fun s => s.shots t.ctx
    let x ← p
    let k ← look fun s => s.shots t.ctx
    if n = k then pure x else stableLoop p fuel

/-- Several translations as one (R57). -/
def stable {α : Type} (p : Prog α) : Prog α := do stableLoop p (← retries)

/-- What the bytes of a range from an address on translate to, leaf by leaf; what no leaf maps is passed over. -/
def namedFrom (e : Eng) (hi : Nat) : Nat → Nat → Prog (List (Target × Nat))
  | 0, _ => pure []
  | fuel + 1, va =>
    if hi ≤ va then pure []
    else do
      let t ← me
      let n ← look fun s => s.shots t.ctx
      match ← leafOf e va .read n with
      | .ok (lv, w) => do
        let x := leafNames va lv w
        let rest ← namedFrom e hi fuel (va + x.2)
        pure ((x.1, min x.2 (hi - va)) :: rest)
      | .error f =>
        if f.level = 0 then pure [] else namedFrom e hi fuel (alignDown va (leafSize f.level) + leafSize f.level)

/-- What a virtual range translates to before anything is done with it: no fault is reported and no permission tested
(log 101). -/
def named (e : Eng) (va len : Nat) : Prog (List (Target × Nat)) :=
  if va < 2 ^ 57 then namedFrom e (min (va + len) (2 ^ 57)) (len / 4096 + 2) va else pure []

/-- The ranges that a compute descriptor names lie in this rack, or it ends before it has had an effect (R19). -/
def rackOk (e : Eng) (ranges : List (Nat × Nat)) : Prog Unit := do
  let here ← look fun s => s.rack
  each (fun (va, len) => do
    let l ← named e va len
    need (l.all fun x => x.1.inRack here) .invalid) ranges

/-- The pointer at an address, if it can be read there and then. -/
def namedPtr (e : Eng) (va : Nat) : Prog (Option Nat) := do
  match ← named e va 8 with
  | [(t, 8)] => do
    match ← attempt (readRange t 8 false) with
    | .ok d => pure (some (leNat d))
    | .error _ => pure none
  | _ => pure none

/-- A token leaves: its tasks get an answer (R67 to R71). -/
def State.retire (s : State) (k : FaultTok) (a : Ans) : State :=
  let s := { s with xlt := { s.xlt with toks := s.xlt.toks.filter fun x => x.tok ≠ k.tok },
                    ringq := s.ringq.filter fun r => !(r.ring = 0 && r.tok = k.tok) }
  k.joined.foldl (fun s id => s.deliver id a) s

/-- A task that ends lets its held page, the rest of its accepted request and its passes over steep caches go (R82, R275, R567). -/
def State.letGo (s : State) (id : Nat) : State :=
  let s := { s with eng := { s.eng with sweeps := s.eng.sweeps.filter fun w => w.task ≠ id } }
  if s.tier.pageHold.any (fun e => e.2 = id) || s.tier.serving.any (fun e => e.1 = id) then
    ({ s with tier := { s.tier with pageHold := s.tier.pageHold.filter fun e => e.2 ≠ id,
                                    serving := s.tier.serving.filter fun e => e.1 ≠ id } } : State).pump
  else s

/-- A task that ends leaves its tokens; a token nobody holds is retired (R70). -/
def State.leaveToks (s : State) (id : Nat) : State :=
  let ts := s.xlt.toks.map fun k => { k with joined := k.joined.filter (· ≠ id) }
  let gone := (ts.filter fun k => k.joined.isEmpty).map (·.tok)
  { s with xlt := { s.xlt with toks := ts.filter fun k => !k.joined.isEmpty },
           ringq := s.ringq.filter fun r => !(r.ring = 0 && r.tok ≠ 0 && gone.contains r.tok) }

end Sys2Proof.Machine
end

