-- ==== Sys2Proof/Machine/Steep.lean ====
section
/-! DEFINITION. Steep caches (05, 08) and the accesses that engines make through them: reads and writes of virtual
ranges line by line, write-backs and drops (R160 to R167, R271 to R276). -/

namespace Sys2Proof.Machine

/-- The tag of a task's lines: its queue, or the task itself for a forwarded subrequest (R160, R167). -/
def tagOf (id : Nat) (t : Task) : Nat × Bool :=
  match t.kind with
  | .desc q _ _ _ => (q, false)
  | .msg .. => (id, true)
  | _ => (t.queue, false)

/-- The lines of an engine's steep cache. -/
def State.steepOf (s : State) (e : Eng) : List SteepLine := SMap.get s.steep e.key []
def State.setSteep (s : State) (e : Eng) (l : List SteepLine) : State :=
  { s with steep := SMap.set s.steep e.key l [] }

/-- Whether a kind of engine has a steep cache (R160). -/
def engHasSteep (e : Eng) : Bool := e.kind = .newt || e.kind = .kettle

/-- The ways of a steep cache (08, "Steep caches"). -/
def steepWays (e : Eng) : Nat := if e.kind = .newt then 16 else 8

/-- Whether misses of an engine allocate (R276); a Kettle's cache has no SC_EN. -/
def State.allocates (s : State) (e : Eng) : Bool :=
  e.kind = .kettle || s.flag (Reg.NEWT_CFG e.idx.val) Reg.NEWT_CFG_SC_EN

/-- A line of a cache by tag and virtual line. -/
def findLine (l : List SteepLine) (tag : Nat × Bool) (va : Nat) : Option SteepLine :=
  l.find? fun x => x.tag = tag.1 ∧ x.sub = tag.2 ∧ x.va = va

/-- Two lines of one cache that stand for the same bytes of one queue. -/
def SteepLine.same (x y : SteepLine) : Bool := decide (x.tag = y.tag ∧ x.sub = y.sub ∧ x.va = y.va)

/-- A line as a pass over a cache names it. -/
def SteepLine.key (x : SteepLine) : (Nat × Bool) × Nat := ((x.tag, x.sub), x.va)

/-- A list of lines with one replaced or added. -/
def putLine (l : List SteepLine) (x : SteepLine) : List SteepLine := x :: l.filter fun y => !y.same x

/-- A line of an engine's cache replaced or added, as the one used last. -/
def State.putSteep (s : State) (e : Eng) (x : SteepLine) : State :=
  { (s.setSteep e (putLine (s.steepOf e) { x with used := s.free })) with free := s.free + 1 }

/-- A line leaves a cache; a pass that found it there has nothing more to do with what takes its place (R275). -/
def State.eraseLine (s : State) (e : Eng) (x : SteepLine) : State :=
  let s := s.setSteep e ((s.steepOf e).filter fun y => !y.same x)
  { s with eng := { s.eng with sweeps := s.eng.sweeps.map fun w =>
      if w.eng = e.key then { w with lines := w.lines.filter (· ≠ x.key) } else w } }

/-! ## Progress and stores -/

/-- A store has been issued beyond PROGRESS (R143). -/
def stored : Prog Unit := progress fun c => { c with undef := true }

/-- Units up to n are done; stores beyond them start anew (R141, R143). -/
def unitsDone (n : Nat) : Prog Unit := progress fun c => { c with progress := n, undef := false }

/-- The answer of a store: noted when the store was issued, whatever became of it (R33, R143). -/
def noteStore (a : Ans) : Prog Ans := do
  if !a.unsent then stored
  pure a

/-! ## Write-backs (R162 to R164, R273) -/

/-- The context to which a line belongs: that of its queue, or of the subrequest that filled it. -/
def State.lineCtx (s : State) (x : SteepLine) : Nat :=
  if x.sub then (s.task x.tag).ctx else s.fld (Reg.Q_CFG x.tag) Reg.Q_CFG_CTX

/-- A write-back of a line of a cache is under way. -/
def State.backing (s : State) (e : Eng) (k : (Nat × Bool) × Nat) : Bool :=
  s.tasks.any fun t => match t.2.kind with
    | .wback e' tag sub va _ _ _ => e' = e && k = ((tag, sub), va)
    | _ => false

/-- A descriptor whose bytes a failed write-back carried learns of it (R141, R142). -/
def State.blame (s : State) (a : Ans) (o unit : Nat) : State :=
  match SMap.find s.tasks o with
  | none => s
  | some t =>
    let f : BackFail := ⟨unit, a.st, a.home⟩
    s.setTask o { t with bad := some (match t.bad with | some g => if g.unit ≤ unit then g else f | none => f) }

/-- A write-back has been accepted or refused: what waits for it looks again. -/
def State.backDone (s : State) (id : Nat) (by_ : List (Nat × Nat)) (a : Ans) : State :=
  let s := { s with tasks := SMap.del s.tasks id }
  let s := if a.st = .ok then s else by_.foldl (fun s (o, u) => s.blame a o u) s
  { s with tasks := s.tasks.mapv fun _ t => if t.wait = .held then { t with wait := .ready } else t }

/-- The work of a write-back: the dirty bytes of one line, as one write within the line (R163). -/
def State.runBack (s : State) (id : Nat) : State :=
  match (s.task id).kind with
  | .wback _ _ _ _ tgt mask by_ =>
    match runProg s id (targetWrite tgt mask (s.task id).bytes false true) with
    | (s, _, .error .park) => s
    | (s, _, .error (.fin st _ _)) => s.backDone id by_ { st := st }
    | (s, _, .ok a) => s.backDone id by_ a
  | _ => s

/-- The write-back of a line's dirty bytes, as work still to be run: for the descriptors that dirtied them, under the context of
the line's own queue (R117, R164). -/
def State.queueBack (s : State) (e : Eng) (x : SteepLine) : Nat × State :=
  let src := if x.sub then (s.task x.tag).src else .queue (Fin.ofNat 4096 x.tag)
  s.addTask { kind := .wback e x.tag x.sub x.va x.tgt x.dirty x.by_, src := src, ctx := s.lineCtx x,
              bytes := x.data, start := s.tick }

/-- A line's dirty bytes issued to their point of visibility; the line stays, clean. -/
def State.writeBack (s : State) (e : Eng) (x : SteepLine) : State :=
  let clean := { x with dirty := 0, by_ := [] }
  let (id, s) := (s.setSteep e ((s.steepOf e).map fun y => if y.same x then clean else y)).queueBack e x
  s.runBack id

/-- A line written back if it is dirty; and whether no write-back of it is under way any more. -/
def State.cleaned (s : State) (e : Eng) (x : SteepLine) : State × Bool :=
  let s := if x.dirty = 0 then s else s.writeBack e x
  (s, !s.backing e x.key)

/-! ## Room for a line -/

/-- The victim of an allocation in a full set: least recently used (08, "Steep caches"; the set mapping is free). -/
def victim (e : Eng) (l : List SteepLine) (va : Nat) : Option SteepLine :=
  if l.length < steepWays e then none
  else
    let set := l.filter fun x => Config.steepSet x.va % 512 = Config.steepSet va % 512
    if set.length < steepWays e then none
    else set.foldl (fun b x => match b with | none => some x | some y => if x.used < y.used then some x else b) none

/-- Room for a line in its set: a victim leaves once its dirty bytes have been written back (R273). Whether there is room. -/
def State.steepRoom (s : State) (e : Eng) (va : Nat) : State × Bool :=
  match victim e (s.steepOf e) va with
  | none => (s, true)
  | some v =>
    let (s, c) := s.cleaned e v
    if c then (s.eraseLine e v, true) else (s, false)

/-- An engine's own accesses to a line wait for a pass over a range of its cache (R275). -/
def State.gated (s : State) (e : Eng) (va : Nat) : Bool :=
  s.eng.sweeps.any fun w => w.eng = e.key && decide (w.base ≤ va) && decide (va < w.base + w.len)

/-! ## The reads that a Newt keeps outstanding (R245, R258) -/

/-- MAX_RD of a Newt (R258), half of it while the issue throttle applies (R554). -/
def State.maxRd (s : State) (n : Nat) : Nat :=
  let k := s.fld (Reg.NEWT_CFG n) Reg.NEWT_CFG_MAX_RD
  let m := if k = 0 ∨ 2048 < k then 2048 else k
  if s.pwr.throttle then max 1 (m / 2) else m

/-- A read of a stream. -/
def Task.streams (t : Task) : Bool :=
  match t.kind with
  | .stream .. => true
  | _ => false

/-- The reads of a Newt for its access program, or for its other work: those outstanding, or those that wait to be issued. -/
def State.newtReads (s : State) (n : Nat) (prog issued : Bool) : Nat :=
  (s.tasks.filter fun t => t.2.rd = some (n, issued) && t.2.streams = prog).length

/-- Some access of a Newt's program is stalled on a fault (R260). -/
def State.streamStalled (s : State) (n : Nat) : Bool :=
  s.tasks.any fun t => match t.2.kind with | .stream m _ _ => m = n && t.2.wait = .fault | _ => false

/-- A Newt may issue a read for its program, or for its other work: MAX_RD leaves room, and while both have reads to issue
neither takes more than half of it (R245); a stalled program issues none (R260). -/
def State.newtMayRead (s : State) (n : Nat) (prog : Bool) : Bool :=
  let lim := s.maxRd n
  let own := s.newtReads n prog true
  let other := s.newtReads n (!prog) true
  !(prog && s.streamStalled n) && decide (own + other < lim) &&
  (!s.flag (Reg.NEWT_CFG n) Reg.NEWT_CFG_RESERVE || decide (s.newtReads n (!prog) false = 0) || decide (own < max 1 (lim / 2)))

/-- A read through a Newt waits until it may be issued. -/
def readGate (e : Eng) : Prog Unit :=
  if e.kind ≠ .newt then pure ()
  else do
    let _ ← act .held fun id s =>
      let t := s.task id
      if s.newtMayRead e.idx.val t.streams then (s.setTask id { t with rd := some (e.idx.val, true) }).deliver id {}
      else s.setTask id { t with rd := some (e.idx.val, false) }
    pure ()

/-- Reads that waited to be issued through a Newt look again. -/
def State.wakeReads (s : State) (n : Nat) : State :=
  { s with tasks := s.tasks.mapv fun _ t => if t.rd = some (n, false) ∧ t.wait = .held then { t with wait := .ready } else t }

/-- A read through a Newt has its data, or has been discarded. -/
def readDone (e : Eng) : Prog Unit :=
  if e.kind ≠ .newt then pure ()
  else do
    let _ ← act .ready fun id s =>
      ((s.setTask id { (s.task id) with rd := none }).wakeReads e.idx.val).deliver id {}
    pure ()

/-! ## Reads -/

/-- A read of a line that a Newt's cache does not answer counts as a miss, one that it answers as a hit (R259). -/
def State.missed (s : State) (e : Eng) : State :=
  if e.kind = .newt then s.bump (Reg.NEWT_CNT e.idx.val) Reg.NEWT_CNT_MISSES 1 else s
def State.hit (s : State) (e : Eng) : State :=
  if e.kind = .newt then s.bump (Reg.NEWT_CNT e.idx.val) Reg.NEWT_CNT_HITS 1 else s

/-- A look into the cache for a read (R160, R161): 1 with the line's bytes on a hit; on a miss 0 with the mask and the bytes
that the line holds, over which the read's own bytes do not go (R171). A line of another target is written back and dropped
first. -/
def lookLine (e : Eng) (tag : Nat × Bool) (va : Nat) (tgt : Target) (mask : Nat) : Prog Ans :=
  act .held fun id s =>
    if s.gated e va then s
    else
      match findLine (s.steepOf e) tag va with
      | none => (s.missed e).deliver id { data := natLE 8 0 }
      | some x =>
        if x.tgt ≠ tgt then
          let (s, c) := s.cleaned e x
          if c then ((s.eraseLine e x).missed e).deliver id { data := natLE 8 0 } else s
        else if x.valid &&& mask = mask then
          ((s.putSteep e x).hit e).deliver id { val := 1, st := if x.poison then .poison else .ok, data := x.data }
        else (s.missed e).deliver id { data := natLE 8 x.valid ++ x.data }

/-- The runs of lines that a cache does not hold: start and length of each. -/
def missRuns : List ((Nat × Nat) × Bool) → List (Nat × Nat)
  | [] => []
  | (_, true) :: rest => missRuns rest
  | ((x, k), false) :: rest =>
    match missRuns rest with
    | [] => [(x, k)]
    | (y, n) :: more => if y = x + k then (x, k + n) :: more else (x, k) :: (y, n) :: more

/-- The answers of the lines that a cache held and of those read, in the lines' order. -/
def weave : List (Option Ans) → List Ans → List Ans
  | [], _ => []
  | some a :: rest, l => a :: weave rest l
  | none :: rest, a :: l => a :: weave rest l
  | none :: rest, [] => {} :: weave rest []

/-- A line read whole joins an engine's steep cache; the bytes already there stay (R165, R171). -/
def joinLine (e : Eng) (tag : Nat × Bool) (base : Nat) (ltgt : Target) (d : List Byte) : Prog Unit := do
  let _ ← act .held fun id s =>
    match findLine (s.steepOf e) tag base with
    | some o =>
      (if o.tgt = ltgt then s.putSteep e { o with valid := fullMask, data := mergeLine o.valid d o.data } else s).deliver id {}
    | none =>
      let (s, room) := s.steepRoom e base
      if room then
        (s.putSteep e { tag := tag.1, sub := tag.2, va := base, tgt := ltgt, valid := fullMask, dirty := 0,
                        data := d }).deliver id {}
      else s
  pure ()

/-- What a look left of a line, over the bytes that a read of it brought: a poison answer stays unless the line's own bytes
cover the read. -/
def overHeld (held : Ans) (d : List Byte) : List Byte :=
  if fieldLE held.data 0 8 = 0 then d else mergeLine (fieldLE held.data 0 8) d (held.data.drop 8)

/-- A read of bytes of one 256-byte chunk of a target through an engine's steep cache, or direct (R160 to R162, R258, R271,
R276): each run of lines that the cache does not hold is one request (log 81). The answer for each line. -/
def pieceRead (e : Eng) (va len : Nat) (tgt : Target) (alloc keep : Bool) : Prog (List Ans) := do
  let id ← (fun r => (.ok r.id, r) : Prog Nat)
  let t ← me
  if !engHasSteep e then targetReads tgt len keep
  else
    let tag := tagOf id t
    let parts := cut 64 va len
    let seen ← collect (fun (x, k) =>
      lookLine e tag (alignDown x 64) (tgt.plus (x - va)).line (rangeMask (x % 64) k)) parts
    let held := (parts.zip seen).map fun ((x, k), a) =>
      if a.val = 1 then some { a with data := (a.data.drop (x % 64)).take k, val := 0 } else none
    let under := fun (y : Nat) => ((parts.zip seen).find? fun p => p.1.1 = y).map (·.2) |>.getD {}
    let al ← look fun s => (alloc && s.allocates e).toNat
    let got ← collect (fun (x, n) => do
      let g := tgt.plus (x - va)
      let lines := cut 64 x n
      if al = 0 then
        let rs ← targetReads g n keep
        pure ((lines.zip rs).map fun ((y, k), r) =>
          { r with data := ((overHeld (under y) (List.replicate (y % 64) 0 ++ fitBytes k r.data)).drop (y % 64)).take k })
      else
        let rs ← targetReads g.line (64 * lines.length) keep
        collect (fun ((y, k), r) => do
          if r.st ≠ .ok then pure r
          else
            let d := overHeld (under y) r.data
            joinLine e tag (alignDown y 64) (tgt.plus (y - va)).line d
            pure { data := (d.drop (y % 64)).take k }) (lines.zip rs))
      (missRuns (parts.zip (held.map (·.isSome))))
    pure (weave held got.flatten)

/-- A read of bytes of one 256-byte chunk of a virtual range, once it may be issued (R161, R258). -/
def pieceReadV (e : Eng) (va len : Nat) (alloc quiet keep : Bool) : Prog (List Ans) := do
  let tgt ← translate e va .read quiet
  readGate e
  let rs ← pieceRead e va len tgt alloc keep
  readDone e
  pure rs

/-! ## Writes -/

/-- Bytes written into a line by a unit of a descriptor (R162): a poisoned line stays so until all of it is written. -/
def SteepLine.written (x : SteepLine) (mask : Nat) (line : List Byte) (o unit : Nat) : SteepLine :=
  let dirty := x.dirty ||| mask
  { x with valid := x.valid ||| mask, dirty := dirty, data := mergeLine mask x.data line,
           poison := x.poison && dirty ≠ fullMask,
           by_ := if x.by_.any fun p => p.1 = o then x.by_.map fun p => if p.1 = o then (o, min p.2 unit) else p
                  else x.by_ ++ [(o, unit)] }

/-- A line with written bytes joins the cache; one whose 64 bytes are all dirty is written back at once (R272). -/
def State.absorb (s : State) (e : Eng) (x : SteepLine) : State :=
  let s := s.putSteep e x
  if x.dirty = fullMask then s.writeBack e { x with used := s.free - 1 } else s

/-- A write of bytes of one line looks for its line (R161, R272, R276): 1 absorbed, 0 to be issued at once. -/
def storeLine (e : Eng) (tag : Nat × Bool) (base : Nat) (ltgt : Target) (mask : Nat) (line : List Byte) (unit : Nat) :
    Prog Ans :=
  act .held fun id s =>
    let fresh := fun (s : State) =>
      if !s.allocates e then s.deliver id {}
      else
        let (s, room) := s.steepRoom e base
        if !room then s
        else
          let x : SteepLine := { tag := tag.1, sub := tag.2, va := base, tgt := ltgt, valid := 0, dirty := 0,
                                 data := List.replicate 64 0 }
          (s.absorb e (x.written mask line (s.ownerOf id) unit)).deliver id { val := 1 }
    if s.gated e base then s
    else
      match findLine (s.steepOf e) tag base with
      | none => fresh s
      | some x =>
        if x.tgt = ltgt then (s.absorb e (x.written mask line (s.ownerOf id) unit)).deliver id { val := 1 }
        else
          let (s, c) := s.cleaned e x
          if c then fresh (s.eraseLine e x) else s

/-- The write-backs of a line have been accepted or refused. -/
def backsDone (e : Eng) (tag : Nat × Bool) (base : Nat) : Prog Unit := do
  let _ ← act .held fun id s => if s.backing e (tag, base) then s else s.deliver id {}
  pure ()

/-- A write of bytes of one line through an engine's steep cache, or direct (R162, R272, R276). -/
def lineWriteV (e : Eng) (va : Nat) (d : List Byte) (unit : Nat) (keep : Bool) : Prog Ans := do
  let id ← (fun r => (.ok r.id, r) : Prog Nat)
  let t ← me
  let tgt ← translate e va .write false
  let base := alignDown va 64
  let off := va % 64
  let mask := rangeMask off d.length
  let line := List.replicate off 0 ++ d
  if !engHasSteep e then noteStore (← targetWrite tgt.line mask line keep false)
  else
    let a ← storeLine e (tagOf id t) base tgt.line mask line unit
    if a.val = 0 then noteStore (← targetWrite tgt.line mask line keep false)
    else
      stored
      backsDone e (tagOf id t) base
      pure {}

/-- A line written as poison, past the cache; a line held of it is poison from then on (R506, R508). -/
def linePoisonV (e : Eng) (va : Nat) : Prog Ans := do
  let id ← (fun r => (.ok r.id, r) : Prog Nat)
  let t ← me
  let tgt ← translate e va .write false
  if !engHasSteep e then noteStore (← targetPoison tgt)
  else
    let tag := tagOf id t
    let base := alignDown va 64
    let _ ← act .held fun id s =>
      if s.gated e base || s.backing e (tag, base) then s
      else
        match findLine (s.steepOf e) tag base with
        | some x =>
          if x.tgt = tgt.line then s.deliver id {}
          else
            let (s, c) := s.cleaned e x
            if c then (s.eraseLine e x).deliver id {} else s
        | none => s.deliver id {}
    let a ← noteStore (← targetPoison tgt)
    if a.st = .ok then
      effect fun s => match findLine (s.steepOf e) tag base with
        | some x => s.putSteep e { x with valid := fullMask, dirty := 0, by_ := [], poison := true }
        | none => s
    pure a

/-! ## Ranges -/

/-- A read of a virtual range, chunk by chunk; the first status other than ok ends it. -/
def readV (e : Eng) (va len : Nat) (alloc quiet keep : Bool) : Prog (List Byte) := do
  let parts ← collect (fun (a, n) => do
    let rs ← collect ok (← pieceReadV e a n alloc quiet keep)
    pure (rs.flatMap (·.data))) (cut 256 va len)
  pure parts.flatten

/-- A write of a virtual range, line by line. -/
def writeV (e : Eng) (va : Nat) (d : List Byte) (unit : Nat) (keep : Bool) : Prog Unit :=
  each (fun (a, n) => do let _ ← ok (← lineWriteV e a ((d.drop (a - va)).take n) unit keep); pure ()) (cut 64 va d.length)

/-- The bytes that a descriptor itself has left dirty in lines of a chunk: a mask and bytes, as of one line, for each (R171). -/
def ownBytes (e : Eng) (va len : Nat) : Prog (List Ans) := do
  let id ← (fun r => (.ok r.id, r) : Prog Nat)
  let t ← me
  let tag := tagOf id t
  if !engHasSteep e then pure ((cut 64 va len).map fun _ => { data := natLE 8 0 })
  else
    collect (fun (x, _) => do
      act .held fun k s =>
        if s.backing e (tag, alignDown x 64) then s
        else match findLine (s.steepOf e) tag (alignDown x 64) with
          | some l => s.deliver k { data := natLE 8 (if l.by_.any fun p => p.1 = id then l.dirty else 0) ++ l.data }
          | none => s.deliver k { data := natLE 8 0 }) (cut 64 va len)

/-- Bytes of a virtual range read past every steep cache (R324, R330, R341), but for the descriptor's own writes (R171). -/
def readDirect (e : Eng) (va len : Nat) : Prog (List Byte) := do
  let parts ← collect (fun (a, k) => do
    let t ← translate e a .read false
    let own ← ownBytes e a k
    let rs ← collect ok (← targetReads t k false)
    pure (((cut 64 a k).zip (own.zip rs)).flatMap fun ((y, n), (o, r)) =>
      ((overHeld o (List.replicate (y % 64) 0 ++ fitBytes n r.data)).drop (y % 64)).take n)) (cut 256 va len)
  pure parts.flatten

/-- A read of a range of store addresses without translation (R48, R247), direct. -/
def readS (a len : Nat) (keep : Bool) : Prog (List Byte) := readRange (.store a) len keep

/-- A write of a range of store addresses without translation, direct. -/
def writeS (a : Nat) (d : List Byte) (keep : Bool) : Prog Unit :=
  each (fun (x, n) => do
    let w ← noteStore (← storeWrite (x / 64) (rangeMask (x % 64) n)
      (List.replicate (x % 64) 0 ++ (d.drop (x - a)).take n) keep false)
    let _ ← ok w
    pure ()) (cut 64 a d.length)

/-! ## Passes over the lines of caches -/

/-- Every engine with a steep cache that holds a line. -/
def State.steepEngines (s : State) : List Eng :=
  (engines .newt ++ engines .kettle).filter fun e => !(s.steepOf e).isEmpty

/-- A pass begins over the lines of some caches that a test keeps: their dirty bytes are written back. Where `base` is given the
pass answers for its write-backs, each as the unit of its line's offset from there, and the engines' accesses to the range
wait (R181, R275). -/
def State.sweepStart (s : State) (id : Nat) (es : List Eng) (p : Eng → SteepLine → Bool) (range : Option (Nat × Nat)) : State :=
  es.foldl (fun s e =>
    let l := (s.steepOf e).filter (p e)
    let (base, len) := range.getD (0, 0)
    let s := { s with eng := { s.eng with sweeps := s.eng.sweeps ++ [⟨id, e.key, base, len, l.map SteepLine.key⟩] } }
    (l.filter fun x => x.dirty ≠ 0).foldl (fun s x =>
      s.writeBack e { x with by_ := if range.isSome then x.by_ ++ [(id, x.va - base)] else x.by_ }) s) s

/-- The lines that a task's passes found and that are still there. -/
def State.sweptLines (s : State) (id : Nat) : List (Eng × SteepLine) :=
  (s.eng.sweeps.filter fun w => w.task = id).flatMap fun w =>
    ((engines .newt ++ engines .kettle).filter fun e => e.key = w.eng).flatMap fun e =>
      ((s.steepOf e).filter fun x => w.lines.contains x.key).map fun x => (e, x)

/-- A pass: the lines of some caches that a test keeps are written back and, with `drop`, leave once they are clean; it waits
until each write-back has been accepted or refused (R164, R165, R166, R181). No dirty byte is discarded (R182). -/
def sweep (es : State → List Eng) (p : State → Eng → SteepLine → Bool) (range : Option (Nat × Nat)) (drop : Bool) :
    Prog Unit := do
  let _ ← act .ready fun id s => (s.sweepStart id (es s) (p s) range).deliver id {}
  let _ ← act .held fun id s =>
    let s := if drop then (s.sweptLines id).foldl (fun s (e, x) => if x.dirty = 0 then s else s.writeBack e x) s else s
    if (s.sweptLines id).any fun (e, x) => s.backing e x.key then s
    else
      let s := if drop then (s.sweptLines id).foldl (fun s (e, x) => s.eraseLine e x) s else s
      ({ s with eng := { s.eng with sweeps := s.eng.sweeps.filter fun w => w.task ≠ id } } : State).deliver id {}
  pure ()

/-- A write-back of bytes of a descriptor is under way. -/
def State.backingOf (s : State) (o : Nat) : Bool :=
  s.tasks.any fun t => match t.2.kind with
    | .wback _ _ _ _ _ _ by_ => by_.any fun p => p.1 = o
    | _ => false

/-- Every byte that the task's descriptor has left dirty is written back, and each write-back accepted or refused (R164). -/
def flushOwn : Prog Unit := do
  let _ ← act .held fun id s =>
    let s := s.steepEngines.foldl (fun s e =>
      ((s.steepOf e).filter fun x => x.dirty ≠ 0 && x.by_.any fun p => p.1 = id).foldl (fun s x => s.writeBack e x) s) s
    if s.backingOf id then s else s.deliver id {}
  pure ()

/-- Lines dropped at once with any dirty bytes: containment, disabling, reset (R164, R166, R491). -/
def State.discardSteep (s : State) (p : Eng → SteepLine → Bool) : State :=
  (engines .newt ++ engines .kettle).foldl
    (fun s e => s.setSteep e ((s.steepOf e).filter fun x => !(p e x))) s

end Sys2Proof.Machine
end

