-- ==== Sys2Proof/Machine/Pad.lean ====
section
/-! DEFINITION. Scratchpad banks as engines and movers reach them (07): owners, words, poison (R222 to R241). -/

namespace Sys2Proof.Machine

/-- The bank of a scratchpad offset. -/
def bankOf (off : Nat) : Nat := off / 2 ^ 21

/-- The owner code of a kind of engine (07, "Owners and agents"). -/
def ownerKind : EngKind → Nat
  | .newt => 0 | .kettle => 1 | .gecko => 2 | .emb => 3 | .mover => 7

/-- Whether an engine is an agent of a bank owner (R224): itself, or the Newt paired with an owning Kettle. -/
def agentOf (e : Eng) (kind idx : Nat) : Bool :=
  decide (idx = e.idx.val) && (decide (kind = ownerKind e.kind) || (decide (kind = 1) && e.kind = .newt)) &&
  e.kind ≠ .mover

/-- An access that a bank may grant (R224, R227, R237, R241): ok, a status that refuses it, or none while it waits. -/
def State.bankGrant (s : State) (agent : Nat → Nat → Bool) (off : Nat) : Option Status :=
  let b := bankOf off
  if off ≥ 2 ^ 32 then some .prot
  else
    let f := s.fld (Reg.CADDY_OWN b)
    if ¬ s.flag Reg.CADDY_STATUS Reg.CADDY_STATUS_READY then none
    else if f Reg.CADDY_OWN_STATE = 3 then some .tierErr
    else if f Reg.CADDY_OWN_STATE = 2 then
      match SMap.find s.pad.handovers b with
      | some h => if agent h.kind h.idx then none else some .prot
      | none => some .prot
    else if f Reg.CADDY_OWN_STATE = 1 ∧ agent (f Reg.CADDY_OWN_KIND) (f Reg.CADDY_OWN_IDX) then some .ok
    else some .prot

/-- A word is poisoned. -/
def State.wordPoison (s : State) (off : Nat) : Bool := SMap.get s.pad.poison (off / 64) false

/-- A word's poison mark set or cleared; POISONED says whether a word of the bank is poisoned (07, `CADDY_OWN_b`; R235). -/
def State.setWordPoison (s : State) (off : Nat) (p : Bool) : State :=
  if s.wordPoison off = p ∧ ¬ p then s
  else
    let s := { s with pad := { s.pad with poison := SMap.set s.pad.poison (off / 64) p false } }
    s.setFld (Reg.CADDY_OWN (bankOf off)) Reg.CADDY_OWN_POISONED
      (p || s.pad.poison.any fun e => decide (bankOf (e.1 * 64) = bankOf off)).toNat

/-- Bytes of scratchpad. -/
def State.padBytes (s : State) (off n : Nat) : List Byte := memRead s.pad.mem off n

/-- Bytes written within one word (R235): a whole word clears its poison. -/
def State.padPut (s : State) (off : Nat) (d : List Byte) : State :=
  let s := { s with pad := { s.pad with mem := memWrite s.pad.mem off d } }
  if d.length = 64 then s.setWordPoison off false else s

/-- A whole word marked as poison. -/
def State.padMark (s : State) (off : Nat) : State := s.setWordPoison off true

/-- An agent that is an engine. -/
def asEng (e : Eng) : Nat → Nat → Bool := agentOf e

/-- A tile mover for a named owner (R90, R224). -/
def asOwner (kind idx : Nat) : Nat → Nat → Bool := fun k i => k = kind && i = idx

/-- A bank has granted a requester, which drops to the lowest rank of its rotation (R233). -/
def State.bankGranted (s : State) (b who : Nat) : State :=
  { s with pad := { s.pad with rank := SMap.set s.pad.rank b ((SMap.get s.pad.rank b []).filter (· ≠ who) ++ [who]) [] } }

/-- The rank of a requester in a bank's rotation: 0, the highest, until the bank has granted it (R233). -/
def State.bankRank (s : State) (b who : Nat) : Nat :=
  match (SMap.get s.pad.rank b []).findIdx? (· = who) with
  | some i => i + 1
  | none => 0

/-- A request that a bank does not grant yet: as it waits there already, or as the latest to arrive. -/
def State.bankReq (s : State) (old : Option BankReq) (b who : Nat) (write : Bool) : BankReq × State :=
  match old with
  | some r => if r.bank = b then (r, s) else (⟨b, s.pad.arrivals, who, write⟩, { s with pad := { s.pad with arrivals := s.pad.arrivals + 1 } })
  | none => (⟨b, s.pad.arrivals, who, write⟩, { s with pad := { s.pad with arrivals := s.pad.arrivals + 1 } })

/-- One access of a requester to a word: it waits while a handover to its own engine runs. -/
def padAct (agent : Nat → Nat → Bool) (who off : Nat) (write : Bool) (f : State → State × Ans) : Prog Ans :=
  act .held fun id s =>
    match s.bankGrant agent off with
    | none =>
      let (r, s) := s.bankReq (s.task id).bank (bankOf off) who write
      s.setTask id { (s.task id) with bank := some r }
    | some .ok =>
      let s := s.bankGranted (bankOf off) who
      let (s', a) := f (s.setTask id { (s.task id) with bank := none })
      s'.deliver id a
    | some st => (s.setTask id { (s.task id) with bank := none }).deliver id { st := st }

/-- A read of bytes of one word; a poisoned word answers poison (R235). -/
def padRead (agent : Nat → Nat → Bool) (who off n : Nat) : Prog Ans :=
  padAct agent who off false fun s =>
    if s.wordPoison off then (s, { st := .poison }) else (s, { data := s.padBytes off n })

/-- A write of bytes of one word. -/
def padWrite (agent : Nat → Nat → Bool) (who off : Nat) (d : List Byte) : Prog Ans :=
  padAct agent who off true fun s => (s.padPut off d, {})

/-- A word written as poison. -/
def padPoison (agent : Nat → Nat → Bool) (who off : Nat) : Prog Ans :=
  padAct agent who off true fun s => (s.padMark off, {})

/-! ## Roles of banks (R223, R237) -/

/-- A field of a bank's register. -/
def State.own (s : State) (b : Nat) (f : Fld) : Nat := s.fld (Reg.CADDY_OWN b) f

/-- A bank in the general role: not one of the fixed tables, and not a replacement of one (R223, R237). -/
def State.generalBank (s : State) (b : Nat) : Bool :=
  decide (b % 1024 < 952) && !([4, 5, 6] : List Nat).contains (s.own b Reg.CADDY_OWN_KIND)

/-- The lowest-numbered UNOWNED general bank of a die. -/
def State.spareBank (s : State) (die : Nat) : Option Nat :=
  ((List.range 952).map fun j => die * 1024 + j).find? fun b =>
    s.generalBank b && s.own b Reg.CADDY_OWN_STATE = 0

/-- A bank takes a fixed role. -/
def State.giveRole (s : State) (b kind idx : Nat) : State :=
  let r := Reg.CADDY_OWN b
  ((s.setFld r Reg.CADDY_OWN_KIND kind).setFld r Reg.CADDY_OWN_IDX idx).setFld r Reg.CADDY_OWN_STATE 1

def Who.isRecall : Who → Bool
  | .recall _ => true
  | _ => false

/-- Recalls of a slice's lines are under way or wait. -/
def State.recalling (s : State) (sl : Nat) : Bool :=
  (s.waitq.any fun r => decide (sliceOf (r.line * 64) = sl) && r.who.isRecall) ||
  (s.dir.any fun e => decide (sliceOf (e.1 * 64) = sl) && (e.2.pend.map Who.isRecall).getD false)

/-- A bank takes the place of a retired one (R237, R238). -/
def State.replaceBank (s : State) (b x kind idx : Nat) : State :=
  let s := (s.giveRole x kind idx).capChange
  { s with pad := { s.pad with replaced := SMap.put s.pad.replaced b x } }

/-- A slice that has recalled every line of a retired bank's ways takes a replacement, if there is one, and has 16 ways again
(R237). -/
def State.repairSlices (s : State) : State :=
  s.pad.owed.foldl (fun s (b, sl) =>
    if s.recalling sl then s
    else
      let s := { s with pad := { s.pad with owed := s.pad.owed.erase (b, sl) } }
      match s.spareBank (b / 1024) with
      | some x => s.replaceBank b x 4 (sl % 32)
      | none => s) s

/-! ## Data that may be poisoned -/

/-- Bytes of which some may be poison: none for a poisoned byte (R506). -/
abbrev PBytes := List (Option Byte)

/-- The bytes of an answer of n bytes: a poison answer gives n poisoned bytes, any other failure ends the program. -/
def poisonable (n : Nat) (a : Ans) : Prog PBytes :=
  if a.st = .poison then pure (List.replicate n none)
  else do let a ← ok a; pure ((fitBytes n a.data).map some)

/-- Clean bytes, or none when any is poisoned. -/
def clean (d : PBytes) : Option (List Byte) := d.mapM id

/-- Where a copy reads or writes: a virtual address through an engine, a module-local address (R88), a
target without translation, or scratchpad. -/
inductive Place where
  | mem (va : Nat)
  | loc (l : Nat)
  | tgt (t : Target)
  | pad (off : Nat)

/-- A place n bytes further on. -/
def Place.plus (p : Place) (n : Nat) : Place :=
  match p with
  | .mem a => .mem (a + n)
  | .loc a => .loc (a + n)
  | .tgt t => .tgt (t.plus n)
  | .pad o => .pad (o + n)

/-- The low bits of a place's address, by which it is cut into chunks, lines or words. -/
def Place.low (p : Place) : Nat :=
  match p with
  | .mem a => a % 256
  | .loc a => a % 256
  | .tgt t => t.low
  | .pad o => o % 256

/-- An access of a mover to one line at a module-local address: an engine's, without translation, grant check or COUNT (R76,
R88, R93, R113). -/
def localAccess (l : Nat) (op : LineOp) (n : Nat) : Prog Ans := do
  let st ← change fun s => (s, { st := s.placeCheck l })
  if st.st ≠ .ok then pure st else lineAccess l op 0 n false

/-- A mover's read request to one chunk: each line's bytes of it. -/
def localReads (l n : Nat) : Prog (List Ans) :=
  servedLines true (l / 256) (fun first (x, k) => do
    let r ← localAccess x .read (if first then n else 0)
    pure { r with data := (r.data.drop (x % 64)).take k }) (cut 64 l n)

/-- The answers of the lines of a range as bytes, poison kept as poison. -/
def poisonables (a n : Nat) (rs : List Ans) : Prog PBytes := do
  let l ← collect (fun (c, r) => poisonable (c : Nat × Nat).2 r) ((cut 64 a n).zip rs)
  pure l.flatten

/-- A read of n bytes at a place, chunk by chunk, in scratchpad word by word, poison kept as poison (R508). -/
def readP (e : Eng) (agent : Nat → Nat → Bool) (p : Place) (n : Nat) : Prog PBytes := do
  let parts ← collect (fun (x, k) => do
    match p.plus (x - p.low) with
    | .mem a => poisonables x k (← pieceReadV e a k true false false)
    | .tgt t => poisonables x k (← targetReads t k false)
    | .loc a => poisonables x k (← localReads a k)
    | .pad o => poisonables x k (← collect (fun (y, m) => padRead agent e.key y m) (cut 64 o k))) (cut 256 p.low n)
  pure parts.flatten

/-- A write at a place, line by line or word by word; a line with a poisoned byte is marked as poison (R235, R506,
R508). `unit` names the unit of the byte at an offset; `done` is told the offset reached after each line. -/
def writeP (e : Eng) (agent : Nat → Nat → Bool) (p : Place) (d : PBytes) (unit : Nat → Nat) (done_ : Nat → Prog Unit) :
    Prog Unit :=
  each (fun (x, k) => do
    let off := x - p.low
    let part := (d.drop off).take k
    let a ← match p.plus off, clean part with
      | .mem a, some b => lineWriteV e a b (unit off) false
      | .mem a, none => linePoisonV e a
      | .loc a, some b => do
        noteStore (← localAccess a (.write (rangeMask (a % 64) k) (List.replicate (a % 64) 0 ++ b)) k)
      | .loc a, none => do noteStore (← localAccess a .poison k)
      | .tgt t, some b => do
        noteStore (← targetWrite t (rangeMask (t.off) k) (List.replicate t.off 0 ++ b) false false)
      | .tgt t, none => do noteStore (← targetPoison t)
      | .pad o, some b => do stored; padWrite agent e.key o b
      | .pad o, none => do stored; padPoison agent e.key o
    let _ ← ok a
    done_ (off + k)) (cut 64 p.low d.length)

end Sys2Proof.Machine
end

