-- ==== Sys2Proof/Machine/Mem.lean ====
section
/-! DEFINITION. The programs of the descriptors of classes 0x0_, 0x1_, 0x2_ and 0x7_: ordering actions, steep-cache
maintenance, copies, gathers, atomics and translation maintenance (02, 05, 08). -/

namespace Sys2Proof.Machine

/-- A line of a queue (R160). -/
def ofQueue (q : Nat) (x : SteepLine) : Bool := decide (x.tag = q) && !x.sub

/-- Before an engine starts a descriptor of a queue: lines that another engine may have overtaken are dropped (R165). -/
def startOn (e : Eng) (q : Nat) : Prog Unit := do
  let a ← change fun s =>
    let m := SMap.get s.mixed q 0
    if bit m e.key then ({ s with mixed := SMap.set s.mixed q (putBit m e.key false) 0 }, { val := 1 })
    else (s, { val := 0 })
  if a.val = 1 then sweep (fun _ => [e]) (fun _ _ => ofQueue q) none true else pure ()

/-- Lines of a queue that a test keeps are written back and dropped in every steep cache of the module. -/
def dropEverywhere (q : Nat) (p : SteepLine → Bool) : Prog Unit :=
  sweep State.steepEngines (fun _ _ x => ofQueue q x && p x) none true

/-! ## Ordering actions (R176 to R183) -/

/-- The 8 bytes of a flag read at its point of visibility (R178, R183); poison ends the descriptor (R508). -/
def readFlag (e : Eng) (va : Nat) : Prog Nat := do
  let t ← translate e va .read false
  readGate e
  let a ← targetRead t 8 false
  readDone e
  let a ← ok a
  pure (leNat a.data)

/-- The condition of an `ACQUIRE` (04, "Opcodes"). -/
def acquireHolds (sub flag value : Nat) : Bool :=
  match sub with
  | 0 => flag = value
  | 1 => decide (value ≤ flag)
  | _ => true

/-- Reads of the flag until the condition holds; between reads the task waits for its poll and occupies no engine (R178). -/
def acquireLoop (e : Eng) (b : List Byte) : Nat → Prog Unit
  | 0 => pure ()
  | fuel + 1 => do
    let v ← readFlag e (dOp b 0)
    progress fun c => { c with result := v }
    if acquireHolds (dSubop b) v (dOp b 1) then pure ()
    else
      let _ ← ok (← act .poll fun id s => s.setTask id { (s.task id) with pollAt := s.tick, eng := none })
      acquireLoop e b fuel

/-- ACQUIRE (R178, R179). -/
def acquireProg (e : Eng) (q : Nat) (b : List Byte) : Prog Unit := do
  acquireLoop e b (← retries)
  dropEverywhere q fun _ => true

/-- RELEASE (R177). -/
def releaseProg (e : Eng) (q : Nat) (b : List Byte) : Prog Unit := do
  let flag := dOp b 0
  let a ←
    if dSubop b = 0 then do
      let t ← translate e flag .write false
      noteStore (← targetWrite t (rangeMask t.off 8) (List.replicate t.off 0 ++ natLE 8 (dOp b 1)) false false)
    else do
      let t ← translate e flag .atomic false
      match t with
      | .store x => noteStore (← storeAtomic x 0 8 (dOp b 1) 0 false true)
      | .host .. => fail .invalid
  let _ ← ok a
  dropEverywhere q fun x => decide (x.va = alignDown flag 64)
  progress fun c => { c with undef := false }

/-! ## FLUSH_RANGE and INVAL_RANGE (R181, R182) -/

/-- Lines in a range that a queue's action may touch (R181). -/
def inRange (q base len : Nat) (s : State) (x : SteepLine) : Bool :=
  decide (base ≤ x.va) && decide (x.va < base + len) &&
  (s.flag (Reg.Q_CFG q) Reg.Q_CFG_MAINT || decide (s.lineCtx x = s.fld (Reg.Q_CFG q) Reg.Q_CFG_CTX))

/-- FLUSH_RANGE, or INVAL_RANGE when `inval` is set: a write-back that fails ends it, with PROGRESS at the lowest such line. -/
def rangeProg (q : Nat) (b : List Byte) (inval : Bool) : Prog Unit := do
  let base := dOp b 0
  let len := dOp b 1
  sweep (fun s => s.steepEngines.filter fun e => dSubop b = 0 || e.idx.val = dEng b) (fun s _ => inRange q base len s)
    (some (base, len)) inval
  progress fun c => { c with progress := len }

/-! ## Copies and gathers (R265 to R270) -/

/-- The place of an operand. -/
def placeOf (pad : Bool) (a : Nat) : Place := if pad then .pad a else .mem a

/-- Two runs of targets share a byte. -/
def Target.meets (x : Target × Nat) (y : Target × Nat) : Bool :=
  match x.1, y.1 with
  | .store a, .store b => decide (a < b + y.2) && decide (b < a + x.2)
  | .host h a, .host k b => h = k && decide (a < b + y.2) && decide (b < a + x.2)
  | _, _ => false

/-- Whether source and destination rows, both virtual, translate to overlapping targets (R266). -/
def aliased (e : Eng) (b : List Byte) (src dst : List (Nat × Nat)) : Prog Bool :=
  if bits (dSubop b) 1 0 ≠ 0 then pure false
  else do
    let x ← collect (fun (a, n) => named e a n) src
    let y ← collect (fun (a, n) => named e a n) dst
    pure (x.flatten.any fun r => y.flatten.any fun q => Target.meets r q)

/-- The bytes that a copy writes: those read, or undefined ones where its ranges alias (R266, log 10). -/
def copied (al : Bool) (d : PBytes) : Prog PBytes :=
  if al then do
    let n ← freeN d.length
    pure ((List.range d.length).map fun i => some (Config.freeByte (n + i)))
  else pure d

/-- COPY: ascending 256-byte pieces of the source (R265). -/
def copyProg (e : Eng) (b : List Byte) : Prog Unit := do
  let src := placeOf (bit (dSubop b) 0) (dOp b 0)
  let dst := placeOf (bit (dSubop b) 1) (dOp b 1)
  let al ← aliased e b [(dOp b 0, dOp b 2)] [(dOp b 1, dOp b 2)]
  each (fun (x, k) => do
    let off := x - dOp b 0
    let d ← copied al (← readP e (asEng e) (src.plus off) k)
    writeP e (asEng e) (dst.plus off) d (fun i => off + i) fun i => unitsDone (off + i)) (cut 256 (dOp b 0) (dOp b 2))

/-- A row copied: n bytes from a place to a place, as unit u. -/
def copyRow (e : Eng) (al : Bool) (src dst : Place) (n u : Nat) : Prog Unit := do
  each (fun (x, k) => do
    let off := x - src.low
    let d ← copied al (← readP e (asEng e) (src.plus off) k)
    writeP e (asEng e) (dst.plus off) d (fun _ => u) fun _ => pure ()) (cut 256 src.low n)
  unitsDone (u + 1)

/-- COPY_2D (R267). -/
def copy2dProg (e : Eng) (b : List Byte) : Prog Unit := do
  let src := placeOf (bit (dSubop b) 0) (dOp b 0)
  let dst := placeOf (bit (dSubop b) 1) (dOp b 1)
  let n := bits (dOp b 4) 31 0
  let rows := if n = 0 then 0 else bits (dOp b 4) 63 32
  let at_ := fun (a pitch : Nat) => (List.range rows).map fun r => (a + r * pitch, n)
  let al ← aliased e b (at_ (dOp b 0) (dOp b 2)) (at_ (dOp b 1) (dOp b 3))
  each (fun r => copyRow e al (src.plus (r * dOp b 2)) (dst.plus (r * dOp b 3)) n r) (List.range rows)

/-- GATHER_ROWS (R268, R269). -/
def gatherProg (e : Eng) (b : List Byte) : Prog Unit :=
  let src := placeOf (bit (dSubop b) 0) (dOp b 0)
  let dst := placeOf (bit (dSubop b) 1) (dOp b 1)
  let w := bits (dOp b 3) 63 32
  let n := dOp b 4
  each (fun k => do
    let d ← readP e (asEng e) (.mem (dOp b 2 + k * w)) w
    match clean d with
    | none => fail .poison
    | some l =>
      need (decide (leNat l < dOp b 5)) .invalid
      copyRow e false (src.plus (leNat l * n)) (dst.plus (k * n)) n k) (List.range (bits (dOp b 3) 31 0))

/-! ## ATOMIC (R184 to R188) -/

/-- ATOMIC with its SUBOP. -/
def atomicProg (e : Eng) (q : Nat) (b : List Byte) : Prog Unit := do
  let w := dOp b 4
  let res := dOp b 3
  let (t, rt) ← stable do
    let t ← translate e (dOp b 0) .atomic false
    let rt : Option Target ← if res = 0 then pure none else some <$> translate e res .write false
    pure (t, rt)
  -- the level of the request is that of every address it names, and no atomic is permitted at hall level (R12, R13, R17)
  let here ← look fun s => s.rack
  need ((t :: rt.toList).all (Target.inRack here)) .invalid
  match t with
  | .host .. => fail .invalid
  | .store x =>
    let a ← ok (← noteStore (← storeAtomic x (dSubop b) w (dOp b 1) (dOp b 2) (decide (res = 0)) false))
    progress fun c => { c with result := a.val }
    dropEverywhere q fun l => decide (l.va = alignDown (dOp b 0) 64)
    match rt with
    | none => pure ()
    | some r =>
      let y ← noteStore (← targetWrite r (rangeMask r.off w) (List.replicate r.off 0 ++ natLE w a.val) false false)
      let _ ← ok y
      pure ()
    unitsDone 1

/-! ## Translation maintenance (R57, R58) -/

/-- Whether a task may hold an access that it has translated and that has not completed (R57): one issued or waiting to be, or a
translation that it has still to use. -/
def Task.accessing (t : Task) : Bool :=
  t.fin.isNone &&
  (match t.wait with
   | .line | .late | .dma | .fabric | .meter | .issue => true
   | .poll | .fault | .walk | .reports | .drain => false
   | _ => t.translated)

/-- Whether some home has not answered a subrequest of a task, which names what the task has translated (R48, R57). -/
def State.asking (s : State) (id : Nat) : Bool :=
  match SMap.find s.eng.fans id with
  | some f => f.parts.any fun p => p.got.isNone && p.missing.isNone
  | none => false

/-- Tasks of a context that may hold such an access, with their counts of translations, as bytes. -/
def State.inFlight (s : State) (ctx id : Nat) : List Byte :=
  (s.tasks.filter fun t => t.1 ≠ id ∧ t.2.ctx = ctx ∧ (t.2.accessing ∨ s.asking t.1)).flatMap fun t =>
    natLE 8 t.1 ++ natLE 8 t.2.xlat

/-- Every access noted by `inFlight` has completed. -/
def State.drained (s : State) (l : List Byte) : Bool :=
  (chunks 16 l.length l).all fun c =>
    match SMap.find s.tasks (fieldLE c 0 8) with
    | none => true
    | some t => !s.asking (fieldLE c 0 8) && (!t.accessing || t.xlat ≠ fieldLE c 8 8)

/-- Entries of a range of a context dropped; completes once earlier accesses of the context have (R57). -/
def shootdown (ctx lo len : Nat) : Prog Unit := do
  let a ← act .ready fun id s =>
    (s.tlbDrop ctx lo len).deliver id { data := s.inFlight ctx id }
  let _ ← act .drain fun id s => if s.drained a.data then s.deliver id {} else s
  pure ()

/-- XLT_SHOOTDOWN (R57). -/
def shootdownProg (b : List Byte) : Prog Unit := shootdown (dOp b 0) (dOp b 1) (4096 * dOp b 2)

/-- XLT_SYNC (R58). -/
def syncProg (b : List Byte) : Prog Unit := do
  let ctx := dOp b 0
  let base ← look fun s => s.fld Reg.XLT_CTX_BASE Reg.XLT_CTX_BASE_BASE * 2 ^ 21
  let r ← ownRead (base + 32 * ctx) 32
  if r.st = .ok then
    need (fieldLE r.data 8 4 = dOp b 1) .invalid
    shootdown ctx 0 0
  else
    shootdown ctx 0 0
    fail (walkStatus r.st)

end Sys2Proof.Machine
end

