-- ==== Sys2Proof/Machine/Mover.lean ====
section
/-! DEFINITION. Frames, page moves, and the programs of `MOVE_TILE` (03). -/

namespace Sys2Proof.Machine

/-! ## Frames -/

/-- Frames of a tier of one die below the areas that the module keeps at the top of its LPDDR6: the region store of
64 MiB + 256 KiB, the write-hold store of 1 GiB, the page home table (R77, R79, R207). -/
def State.frameLimit (s : State) (t : Tier) : Nat :=
  match t with
  | .hbm => 2 ^ 26
  | .lpddr => 2 ^ 29 - 16448 - 2 ^ 18 - (s.window / 2 ^ 21 + 1) / 2

/-- Frames in use on a die: by RESIDENT pages, and by both sides of a move. -/
def State.usedFrames (s : State) (die : Nat) (t : Tier) : List Nat :=
  (s.tier.pht.filter fun e => dieOf (e.1 * 4096) = die ∧ e.2.tier = t).map (·.2.frame) ++
  (s.tier.slots.filter fun e => dieOf (e.2.page * 4096) = die ∧ e.2.tier = t).map (·.2.frame)

/-- A frame on a part that is being retired, or is retired, is outside the pool (R100). -/
def State.frameRetired (s : State) (die : Nat) (t : Tier) (f : Nat) : Bool :=
  s.tier.retiredParts.contains (deviceOf die t (f * 4096)) || s.retired (deviceOf die t (f * 4096))

/-- A frame is in its free pool. -/
def State.frameFree (s : State) (die : Nat) (t : Tier) (f : Nat) : Bool :=
  decide (f < s.frameLimit t) && !(s.usedFrames die t).contains f && !s.frameRetired die t f

/-- Frames below a limit that lie on retired parts: every aligned 16 frames hold an equal share of each part. -/
def State.retiredFrames (s : State) (die : Nat) (t : Tier) : Nat :=
  let lim := s.frameLimit t
  let one := ((List.range 16).filter (s.frameRetired die t)).length
  lim / 16 * one + ((List.range (lim % 16)).filter fun i => s.frameRetired die t (lim / 16 * 16 + i)).length

/-- Free frames of a tier of a die, as `TIER_FREE_d` reports them. -/
def State.freeCount (s : State) (die : Nat) (t : Tier) : Nat :=
  s.frameLimit t - s.retiredFrames die t -
    ((s.usedFrames die t).filter fun f => !s.frameRetired die t f).length

/-- The first free frame from one on, in the order that wraps at the limit. -/
def State.scanFrame (s : State) (die : Nat) (t : Tier) : Nat → Nat → Option Nat
  | 0, _ => none
  | k + 1, f => if s.frameFree die t f then some f else s.scanFrame die t k ((f + 1) % s.frameLimit t)

/-- A frame taken from a pool: a free choice (log 12). -/
def State.takeFrame (s : State) (die : Nat) (t : Tier) : Option (Nat × State) :=
  if s.freeCount die t = 0 then none
  else
    let (f, s') := s.choose (s.frameLimit t)
    (s.scanFrame die t (s.frameLimit t) f).map fun g => (g, s')

/-- Every byte and poison mark of a frame cleared. -/
def State.zeroFrame (s : State) (die : Nat) (t : Tier) (f : Nat) : State :=
  let c := cellKey die t (f * 4096)
  { s with tier := { s.tier with
      mem := s.tier.mem.filter fun e => !(decide (c ≤ e.1) && decide (e.1 < c + 4096)),
      poison := s.tier.poison.filter fun e => !(decide (c / 64 ≤ e.1) && decide (e.1 < c / 64 + 64)) } }

/-- Every line of a backed page written with zeros, through its encryption (R84, R106, R486; log 24). -/
def State.zeroPage (s : State) (n : Nat) : State :=
  (List.range 64).foldl (fun s i =>
    (s.writeLine (n * 64 + i) (List.replicate 64 0)).setLinePoison (n * 64 + i) false) s

/-! ## Access counts (R93 to R96) -/

/-- The decay interval (R94). -/
def State.interval (s : State) : Nat :=
  let k := s.fld Reg.TIER_DECAY Reg.TIER_DECAY_SHIFT
  s.tick / 2 ^ (if 20 ≤ k ∧ k ≤ 40 then k else 30)

/-- An entry after decay, and after the slices have folded their additions (R93, R94). -/
def PhtEnt.folded (e : PhtEnt) (i adds : Nat) : PhtEnt :=
  let d := (i + 65536 - e.stamp) % 65536
  { e with count := min (e.count / 2 ^ min d 8 + adds) 255, stamp := i % 65536 }

/-- A page's entry with decay applied and additions folded. -/
def State.foldPage (s : State) (n : Nat) : State :=
  match s.page n with
  | none => s
  | some e =>
    { s with tier := { s.tier with pht := SMap.put s.tier.pht n (e.folded s.interval (SMap.get s.tier.adds n 0)),
                                   adds := SMap.del s.tier.adds n } }

/-! ## Moving one page (R81 to R86, R567) -/

/-- A move of a RESIDENT page begins: a slot of its die, a frame of the destination; its entry is written with the slices'
additions folded in (R93). None when no slot is free; the flag tells whether a frame was found. -/
def State.startMove (s : State) (n : Nat) (t : Tier) (task : Option Nat) : Option (State × Bool) :=
  let s := s.foldPage n
  match s.page n with
  | none => none
  | some e =>
    let die := dieOf (n * 4096)
    match (List.range 64).find? fun k => (SMap.find s.tier.slots (die * 64 + k)).isNone with
    | none => none
    | some k =>
      match s.takeFrame die t with
      | none => some (s, false)
      | some (f, s) =>
        let sl := die * 64 + k
        some ({ s with tier := { s.tier with
          slots := SMap.put s.tier.slots sl { page := n, tier := t, frame := f, task := task },
          pht := SMap.put s.tier.pht n { e with st := .moving, slot := sl } } }, true)

/-- The chunk's 256 bytes and four poison marks copied from the old frame to the new one. -/
def State.copyChunk (s : State) (n c : Nat) (e : PhtEnt) (m : MoveSlot) : State :=
  let die := dieOf (n * 4096)
  let from_ := cellKey die e.tier (e.frame * 4096 + c * 256)
  let to_ := cellKey die m.tier (m.frame * 4096 + c * 256)
  let s := { s with tier := { s.tier with mem := memWrite s.tier.mem to_ (memRead s.tier.mem from_ 256) } }
  (List.range 4).foldl (fun s i =>
    { s with tier := { s.tier with
        poison := SMap.set s.tier.poison (to_ / 64 + i) (SMap.get s.tier.poison (from_ / 64 + i) false) false } }) s

/-- The chunk marked as poison in the new frame, its bytes zero (R85). -/
def State.poisonChunk (s : State) (n c : Nat) (m : MoveSlot) : State :=
  let to_ := cellKey (dieOf (n * 4096)) m.tier (m.frame * 4096 + c * 256)
  (List.range 4).foldl (fun s i =>
    { s with tier := { s.tier with poison := SMap.set s.tier.poison (to_ / 64 + i) true false } }) s

/-- The chunk's bytes in the new frame left undefined: free values (R85). -/
def State.freeChunk (s : State) (n c : Nat) (m : MoveSlot) : State :=
  let to_ := cellKey (dieOf (n * 4096)) m.tier (m.frame * 4096 + c * 256)
  { s with free := s.free + 256,
           tier := { s.tier with
             mem := memWrite s.tier.mem to_ ((List.range 256).map fun i => Config.freeByte (s.free + i)) } }

/-- Every chunk has moved: the page is RESIDENT in its new frame, the old one is zero-filled, the slot is free (R84, R93). -/
def State.finishMove (s : State) (k : Nat) (m : MoveSlot) : State :=
  let s := s.foldPage m.page
  match s.page m.page with
  | none => s
  | some e =>
    let s := s.zeroFrame (dieOf (m.page * 4096)) e.tier e.frame
    let s := { s with tier := { s.tier with
      pht := SMap.put s.tier.pht m.page { e with st := .resident, tier := m.tier, frame := m.frame, slot := 0 },
      slots := SMap.del s.tier.slots k } }
    match m.task with
    | none => s
    | some id => s.deliver id { val := m.lost.toNat }

/-- A chunk of a slot's page, as an event names it (R85). -/
def chunkEvent (s : State) (m : MoveSlot) (old : Bool) (c : Nat) : EvInfo :=
  let die := dieOf (m.page * 4096)
  let e := SMap.get s.tier.pht m.page { st := .resident, tier := .hbm, frame := 0 }
  let (t, f) := if old then (e.tier, e.frame) else (m.tier, m.frame)
  let p := f * 4096 + c * 256
  { object := deviceOf die t p, where_ := m.page * 4096 + c * 256, cause := tierCode t, extra := globalChannel die t p }

/-- The event and the score of a failed access to a tier, if it failed (R85, R520). -/
def State.mediumEvent (s : State) (r : MediumOutcome) (i : EvInfo) : State :=
  match r with
  | .ok | .ce => s
  | .ue => (s.event .tierUe i).score i.object .ue
  | .failed => (s.event .tierDeadline i).score i.object .deadline

/-! ## Retirement of a stack or package (R100, R101, R520) -/

/-- RESIDENT pages with their frame on a part, but for those that an UNBACK holds. -/
def State.pagesOn (s : State) (p : PartId) : List Nat :=
  (s.tier.pht.filter fun e => e.2.st = .resident && !(s.tier.pageHold.any fun h => h.1 = e.1) && decide (deviceOf (dieOf (e.1 * 4096)) e.2.tier (e.2.frame * 4096) = p)).map
    (·.1)

/-- A page on a retiring part begins its move to an LPDDR6 frame, or, off a package, to HBM4 when those are full; none
when no slot is free, and false when no frame is. -/
def State.moveOff (s : State) (p : PartId) (n : Nat) : Option (State × Bool) :=
  let die := dieOf (n * 4096)
  let t : Tier := if p.kind = 1 ∨ s.freeCount die .lpddr ≠ 0 then .lpddr else .hbm
  s.startMove n t none

/-- The moves of one retiring part, as far as slots and frames go; without a frame the retirement pauses, with an
advisory (R100 step 3). -/
def retireMoves (p : PartId) (s : State) : List Nat → State
  | [] => s
  | n :: ns =>
    match s.moveOff p n with
    | none => s
    | some (s, true) => retireMoves p s ns
    | some (s, false) =>
      ({ s with tier := { s.tier with paused := s.tier.paused ++ [p] } } : State).advise Ev.healthRetireStart.code
        Ev.healthRetireStart.severity 0 p 0 none 0

/-- Every retirement of a tier part goes on. -/
def State.pumpRetire (s : State) : State :=
  (s.tier.retiredParts.filter fun p => !s.tier.paused.contains p).foldl (fun s p => retireMoves p s (s.pagesOn p)) s

/-! ## REHOME, BACK, UNBACK (R567) -/

/-- One page of a REHOME: 0 done, 1 done with a chunk lost, 2 no frame. -/
def rehomePage (n : Nat) (t : Tier) : Prog Nat := do
  let a ← act .move fun id s =>
    match s.page n with
    | none => s.deliver id {}
    | some e =>
      if e.st = .moving ∨ s.tier.pageHold.any (fun h => h.1 = n) then s
      else if e.tier = t then s.deliver id {}
      else
        match s.startMove n t (some id) with
        | none => s
        | some (s, ok) => s.deliver id { val := if ok then 1 else 2 }
  if a.val = 1 then
    let b ← act .move fun _ s => s
    pure b.val
  else pure a.val

/-- One page of a BACK: 0 done, 2 no frame. Its entry begins with COUNT 0 and the STAMP of the current interval (log 90). -/
def backPage (n : Nat) (t : Tier) : Prog Nat := do
  let a ← act .move fun id s =>
    match s.page n with
    | some e => if e.st = .moving then s else s.deliver id {}
    | none =>
      match s.takeFrame (dieOf (n * 4096)) t with
      | none => s.deliver id { val := 2 }
      | some (f, s) =>
        let s := { s with tier := { s.tier with
          pht := SMap.put s.tier.pht n { st := .resident, tier := t, frame := f, stamp := s.interval % 65536 } } }
        (if (s.lineKey (n * 64)).isSome then s.zeroPage n else s).deliver id {}
  pure a.val

/-- Host-held lines of a held page are recalled, as far as there is room; combined atomics of a line are its pending
request then (R189, R203, R567). -/
def State.recallPage (s : State) (n : Nat) : State :=
  (s.dir.filter fun e => e.1 / 64 = n ∧ !e.2.st.transient).foldl (fun s (l, e) =>
    let w := if s.combinesOf l = [] then Who.evict else Who.comb
    let r := if e.st = .s then s.snoop l e .sInv e.sharers w else s.snoop l e .mInv (2 ^ e.owner) w
    r.getD s) s

/-- One page of an UNBACK: held, drained, recalled, zero-filled and freed (combined atomics completed before the hold, so
they are performed before, R189); then the waiting requests are released. -/
def unbackPage (n : Nat) : Prog Nat := do
  let a ← act .move fun id s =>
    match s.page n with
    | none => s.deliver id {}
    | some e =>
      if e.st = .moving ∨ s.tier.pageHold.any (fun h => h.1 = n) then s
      else
        { s with tier := { s.tier with pageHold := s.tier.pageHold ++ [(n, id)] } }.deliver id { val := 1 }
  if a.val = 1 then
    let _ ← act .move fun id s =>
      if s.tier.late.any (fun e => e.2.line / 64 = n) || s.tier.serving.any (fun e => e.2 / 16 = n) then s
      else if s.dir.any fun e => e.1 / 64 = n then s.recallPage n
      else
        match s.page n with
        | none => s.deliver id {}
        | some e =>
          let s := (s.combine.filter fun c => c.2.line / 64 = n).foldl (fun s c => s.performCombines c.2.line) s
          let s := s.zeroFrame (dieOf (n * 4096)) e.tier e.frame
          let s := { s with tier := { s.tier with
            pht := SMap.del s.tier.pht n, adds := SMap.del s.tier.adds n,
            pageHold := s.tier.pageHold.filter fun h => h.1 ≠ n } }
          s.pump.deliver id {}
    pure 0
  else pure 0

/-- Pages in ascending order; `go` gives each page's result (R91, R92). -/
def pageLoop (base count : Nat) (go : Nat → Prog Nat) : Prog Unit := do
  let rs ← collect (fun i => do
    let r ← go (base / 4096 + i)
    if r = 2 then fail .part
    unitsDone (i + 1)
    pure r) (List.range count)
  if rs.contains 1 then fail .poison else pure ()

/-- The tier that DST_TIER names. -/
def dstTier (b : List Byte) : Tier := if bit (dOp b 0) 8 then .lpddr else .hbm

/-- REHOME. -/
def rehomeProg (b : List Byte) : Prog Unit :=
  pageLoop (dOp b 1) (bits (dOp b 0) 63 32) fun n => rehomePage n (dstTier b)

/-- BACK. -/
def backProg (b : List Byte) : Prog Unit :=
  pageLoop (dOp b 1) (bits (dOp b 0) 63 32) fun n => backPage n (dstTier b)

/-- UNBACK. -/
def unbackProg (b : List Byte) : Prog Unit :=
  pageLoop (dOp b 1) (bits (dOp b 0) 63 32) unbackPage

/-! ## STAGE modes (R88 to R91) -/

/-- Where byte i of a tile's memory side lies in its scratchpad side (03, the FMT table). -/
def tilePerm (fmt i : Nat) : Nat :=
  match fmt with
  | 3 => i % 64 * 64 + i / 64
  | 4 => i % 128 / 2 * 64 + i / 128 * 2 + i % 2
  | _ => i

/-- A tile as it lies in scratchpad, from its memory rows, and back. -/
def tileIn (fmt : Nat) (d : PBytes) : PBytes :=
  if fmt ≤ 2 then d
  else (List.range 4096).map fun j =>
    ((List.range 4096).find? fun i => tilePerm fmt i = j).bind fun i => (d[i]?).getD none
def tileOut (fmt : Nat) (d : PBytes) : PBytes :=
  if fmt ≤ 2 then d else (List.range 4096).map fun i => (d[tilePerm fmt i]?).getD none

/-- The memory place of row r of a STAGE. -/
def stageMem (b : List Byte) (r : Nat) : Place :=
  let a := dOp b 1 + r * (stageRows b).1
  if bit (dOp b 0) 9 then .tgt (.host (bits (dOp b 0) 11 10) a) else .loc a

/-- Whether every bank that a STAGE touches is owned by the engine that it names (R90), as a bank answers an access of it: that
of a bank on its way to the engine waits (R227). -/
def State.stageOwned (s : State) (b : List Byte) : Bool :=
  let own := bits (dOp b 3) 39 32
  let lo := dOp b 2
  let n := stagePadLen b
  n = 0 || (List.range ((lo + n - 1) / 2 ^ 21 - lo / 2 ^ 21 + 1)).all fun i =>
    match s.bankGrant (asOwner (own / 32) (own % 32)) (lo + i * 2 ^ 21) with
    | some .ok | some .tierErr | none => true
    | _ => false

/-- STAGE_IN and STAGE_OUT: tiles or rows in ascending order. -/
def stageProg (e : Eng) (b : List Byte) (in_ : Bool) : Prog Unit := do
  let okb ← look fun s => (s.stageOwned b).toNat
  need (okb = 1) .prot
  let own := bits (dOp b 3) 39 32
  let agent := asOwner (own / 32) (own % 32)
  let fmt := bits (dOp b 0) 7 4
  let (_, n, len) := stageRows b
  let per := if fmt = 1 ∨ fmt = 0 then 1 else if fmt = 4 then 32 else 64
  each (fun u => do
    let pad := Place.pad (dOp b 2 + u * per * len)
    if in_ then
      let rows ← collect (fun r => readP e agent (stageMem b (u * per + r)) len) (List.range per)
      let d := if fmt = 1 then rows.flatten else tileIn fmt rows.flatten
      writeP e agent pad d (fun _ => u) fun _ => pure ()
    else
      let d ← readP e agent pad (per * len)
      let d := if fmt = 1 then d else tileOut fmt d
      each (fun r => writeP e agent (stageMem b (u * per + r)) ((d.drop (r * len)).take len) (fun _ => u)
        fun _ => pure ()) (List.range per)
    unitsDone (u + 1)) (List.range (n / per))

/-! ## SURVEY (R96) -/

/-- The bytes of a survey record. -/
def surveyRecord (n count tier : Nat) : List Byte :=
  natLE 4 n ++ [BitVec.ofNat 8 count, BitVec.ofNat 8 (tier * 8)] ++ natLE 2 0

/-- Pages scanned in order; `i` counts pages scanned, `k` records written. -/
def surveyLoop (e : Eng) (b : List Byte) : Nat → Nat → Nat → Prog Unit
  | 0, _, _ => pure ()
  | fuel + 1, i, k => do
    let n := dOp b 1 / 4096 + i
    let cold := bits (dOp b 0) 23 16
    let hot := bits (dOp b 0) 31 24
    let limit := bits (dOp b 3) 31 0
    let a ← change fun s =>
      let s := s.foldPage n
      match s.page n with
      | some x => if x.st = .resident then (s, { val := 1 + x.count + 256 * tierCode x.tier }) else (s, {})
      | none => (s, {})
    let c := (a.val - 1) % 256
    if a.val ≠ 0 ∧ (c ≤ cold ∨ hot ≤ c) then
      if k ≥ limit then fail .part
      else
        writeP e (asEng e) (.loc (dOp b 2 + 8 * k)) ((surveyRecord n c ((a.val - 1) / 256)).map some) (fun _ => i)
          fun _ => pure ()
        unitsDone (i + 1)
        progress fun f => { f with result := k + 1 }
        surveyLoop e b fuel (i + 1) (k + 1)
    else
      unitsDone (i + 1)
      surveyLoop e b fuel (i + 1) k

/-- SURVEY. -/
def surveyProg (e : Eng) (b : List Byte) : Prog Unit := surveyLoop e b (bits (dOp b 0) 63 32) 0 0

end Sys2Proof.Machine
end

