-- ==== Sys2Proof/Machine/Newt.lean ====
section
/-! DEFINITION. Access programs and scratchpad rings (08): the checks of a program, its byte streams, slots begun, filled
and released (R242 to R264). -/

namespace Sys2Proof.Machine

/-! ## Stream records -/

def stKind (b : List Byte) : Nat := bits (fieldLE b 0 1) 2 0
def stNoAlloc (b : List Byte) : Bool := bit (fieldLE b 0 1) 3
def stSlotLog (b : List Byte) : Nat := bits (fieldLE b 1 1) 4 0
def stSlotsLog (b : List Byte) : Nat := bits (fieldLE b 2 1) 3 0
def stRing (b : List Byte) : Nat := fieldLE b 4 4
def stBase (b : List Byte) : Nat := fieldLE b 8 8
def stA (b : List Byte) : Nat := fieldLE b 16 8
def stB (b : List Byte) : Nat := fieldLE b 24 8
def stC (b : List Byte) : Nat := fieldLE b 32 8

/-- Slot size, ring bytes, bytes of the stream, bytes of one segment, and slots of the stream (R246). -/
def slotBytes (b : List Byte) : Nat := 2 ^ stSlotLog b
def ringSpan (b : List Byte) : Nat := 2 ^ (stSlotLog b + stSlotsLog b)
def segBytes (b : List Byte) : Nat :=
  match stKind b with
  | 0 => stA b
  | 1 => bits (stA b) 31 0
  | 2 => bits (stC b) 63 32
  | _ => bits (stC b) 31 0
def streamBytes (b : List Byte) : Nat :=
  match stKind b with
  | 0 => stA b
  | 1 => bits (stA b) 31 0 * bits (stA b) 63 32
  | _ => segBytes b * bits (stB b) 31 0
def streamSlots (b : List Byte) : Nat := (streamBytes b + slotBytes b - 1) / slotBytes b

/-- An address of a program: a virtual address, or a store address with STORE_ADDR (R247). -/
def progAddr (store : Bool) (a : Nat) : Bool := if store then decide (a < 2 ^ 56) else isVa a

/-- The ring of a stream lies on the die of its first byte (R248). -/
def ringOnDie (b : List Byte) : Bool := decide (stRing b / 2 ^ 31 = (stRing b + ringSpan b - 1) / 2 ^ 31)

/-- A stream record in range (R248); `win` is the program's steep window. -/
def streamOk (store : Bool) (win : Nat) (b : List Byte) : Bool :=
  decide (bits (fieldLE b 0 1) 7 4 = 0) && decide (stKind b ≤ 3) && decide (bits (fieldLE b 1 1) 7 5 = 0) &&
  decide (bits (fieldLE b 2 1) 7 4 = 0) && fieldLE b 3 1 = 0 && leNat ((b.drop 40).take 24) = 0 &&
  decide (8 ≤ stSlotLog b) && decide (stSlotLog b ≤ 20) && decide (1 ≤ stSlotsLog b) && decide (stSlotsLog b ≤ 12) &&
  decide (stRing b % slotBytes b = 0) && ringOnDie b && decide (slotBytes b ≤ win) &&
  (match stKind b with
   | 0 => progAddr store (stBase b) && decide (stA b % 64 = 0)
   | 1 => progAddr store (stBase b) && decide (bits (stA b) 31 0 % 64 = 0) && decide (stB b % 64 = 0)
   | 2 =>
     let lg := bits (stB b) 36 32
     stBase b = 0 && progAddr store (stA b) && bits (stB b) 63 37 = 0 && decide (12 ≤ lg) && decide (lg ≤ 30) &&
     decide (bits (stC b) 31 0 % 64 = 0) && decide (bits (stC b) 63 32 % 64 = 0) &&
     decide (bits (stC b) 31 0 + bits (stC b) 63 32 ≤ 2 ^ lg)
   | _ =>
     progAddr store (stBase b) && progAddr store (stA b) && bits (stB b) 63 40 = 0 &&
     (bits (stB b) 39 32 = 4 || bits (stB b) 39 32 = 8) && decide (bits (stC b) 31 0 % 64 = 0))

/-- No two rings overlap (R248). -/
def ringsApart : List (List Byte) → Bool
  | [] => true
  | b :: bs => bs.all (fun c => !overlap (stRing b) (ringSpan b) (stRing c) (ringSpan c)) && ringsApart bs

/-- An access program's header (08, "Access programs"). -/
def apHeaderOk (b : List Byte) : Bool :=
  let n := bits (fieldLE b 0 1) 3 0
  decide (1 ≤ n) && decide (n ≤ 8) && decide (bits (fieldLE b 0 1) 7 5 = 0) && fieldLE b 1 1 = 0 &&
  leNat ((b.drop 4).take 60) = 0

/-- STEEP of a Newt in bytes: 0 acts as 64 units of 64 KiB. -/
def State.steepWindow (s : State) (n cap : Nat) : Nat :=
  let k := s.fld (Reg.NEWT_CFG n) Reg.NEWT_CFG_STEEP
  let w := (if k = 0 then 64 else k) * 65536
  if cap = 0 then w else min w cap

/-- Every bank of a ring is owned by a Kettle (R249). -/
def State.ringOwned (s : State) (k : Nat) (b : List Byte) : Bool :=
  (List.range ((stRing b + ringSpan b - 1) / 2 ^ 21 - stRing b / 2 ^ 21 + 1)).all fun i =>
    let r := Reg.CADDY_OWN (stRing b / 2 ^ 21 + i)
    s.fld r Reg.CADDY_OWN_STATE = 1 && s.fld r Reg.CADDY_OWN_KIND = 1 && s.fld r Reg.CADDY_OWN_IDX = k

/-! ## The Newt's state -/

def State.newt (s : State) (n : Nat) : NewtRun := SMap.get s.eng.newts n {}
def State.setNewt (s : State) (n : Nat) (r : NewtRun) : State :=
  { s with eng := { s.eng with newts := SMap.set s.eng.newts n r {} } }

/-- A stream of a Newt replaced. -/
def State.setStream (s : State) (n k : Nat) (x : Stream) : State :=
  s.setNewt n { s.newt n with streams := (s.newt n).streams.set k x }

/-- The run-ahead of a Newt in bytes (08, "The steep window"). -/
def NewtRun.ahead (r : NewtRun) : Nat := (r.streams.map fun x => (x.begun - x.released) * slotBytes x.bytes).sum

/-- The reads of streams under way for a Newt, by task number, oldest first. -/
def State.slotTasks (s : State) (n : Nat) : List Nat :=
  (s.tasks.filter fun t => match t.2.kind with | .stream m _ _ => m = n | _ => false).map (·.1)

/-- A ring may begin its next slot (R252, R257, R262). -/
def State.mayBegin (s : State) (n k : Nat) : Bool :=
  match (s.newt n).streams[k]? with
  | none => false
  | some x =>
    x.failed.isNone && decide (x.begun < streamSlots x.bytes) &&
    decide ((x.begun - x.released) % 2 ^ 32 < 2 ^ stSlotsLog x.bytes) &&
    decide ((s.newt n).ahead + slotBytes x.bytes ≤ s.steepWindow n (s.newt n).cap)

/-- The ring that begins next: round robin after the one that began last (R255). -/
def State.nextRing (s : State) (n : Nat) : Option Nat :=
  let r := s.newt n
  ((List.range 8).map fun i => (r.last + 1 + i) % 8).find? (s.mayBegin n)

/-- FILLED passes every leading complete slot (R251). -/
def advanceFilled : Nat → Stream → Stream
  | 0, x => x
  | k + 1, x =>
    if x.complete.contains x.filled then
      advanceFilled k { x with complete := x.complete.filter (· ≠ x.filled), filled := x.filled + 1 }
    else x

/-- Bytes of a slot are written: a slot whose bytes all are is complete (R251). -/
def Stream.wrote (x : Stream) (slot len : Nat) : Stream :=
  let n := SMap.get x.got slot 0 + len
  if n < slotBytes x.bytes then { x with got := SMap.set x.got slot n 0 }
  else
    let y := { x with got := SMap.set x.got slot 0 0, complete := x.complete ++ [slot] }
    advanceFilled y.complete.length y

/-- A read of a slot has failed: the slot fails, and nothing more is read of it (R262). -/
def Stream.fails (x : Stream) (slot : Nat) (f : Fin_) (quiet : List Byte) : Stream :=
  let x := { x with cursor := max x.cursor ((slot + 1) * slotBytes x.bytes) }
  match x.failed with
  | none => { x with failed := some (slot, f.st, f.code, quiet) }
  | some g => if slot < g.1 then { x with failed := some (slot, f.st, f.code, quiet) } else x

/-- How a read of a stream from byte a on ended: its bytes are written, or its slot fails (R251, R262). A replay shows in the
Kettle descriptor's record (R260). -/
def State.readEnded (s : State) (n k a : Nat) (f : Fin_) (len : Nat) (quiet : List Byte) : State :=
  let s := if f.replayed then
      { s with eng := { s.eng with kettles := SMap.set s.eng.kettles n { SMap.get s.eng.kettles n {} with replayed := true } {} } }
    else s
  let s := s.wakeReads n
  match (s.newt n).streams[k]? with
  | none => s
  | some x =>
    let slot := a / slotBytes x.bytes
    s.setStream n k (if f.st = .ok then x.wrote slot len else x.fails slot f quiet)

/-- RELEASED of a ring as the Newt takes it from a 32-bit count: no more than FILLED (R254). Once FILLED has passed 2^32 the
count received is the one nearest below it (log 98). -/
def Stream.release (x : Stream) (v : Nat) : Stream :=
  let d := (x.filled + 2 ^ 32 - v % 2 ^ 32) % 2 ^ 32
  { x with released := if x.filled < 2 ^ 32 then min v x.filled else if d < 2 ^ 31 then x.filled - d else x.filled }

/-- RELEASED of a ring. -/
def State.ringRelease (s : State) (n k v : Nat) : State :=
  match (s.newt n).streams[k]? with
  | none => s
  | some x => s.setStream n k (x.release v)

/-- A Newt's reads that are outstanding: issued, and their data not yet written (R258). -/
def Task.outstanding (t : Task) (n : Nat) : Bool := t.rd = some (n, true)

/-- The rings of a Newt close (R256, R264): reads not yet issued are dropped; those outstanding go on as reads of no ring, and
are discarded when they return. -/
def State.closeRings (s : State) (n : Nat) : State :=
  let ids := s.slotTasks n
  let s := (ids.filter fun id => !(s.task id).outstanding n).foldl (fun s id =>
    let s := s.leaveToks id
    { s with tasks := SMap.del s.tasks id }) s
  let s := (ids.filter fun id => (s.task id).outstanding n).foldl (fun s id =>
    s.setTask id { (s.task id) with kind := .stream n 8 0 }) s
  s.setNewt n {}

/-- The next read of a ring may be taken up: a byte of a slot begun is still to be read, and the stream's reads before it have
been issued (R255). -/
def State.nextRead (s : State) (n k : Nat) (x : Stream) : Bool :=
  decide (x.cursor < x.begun * slotBytes x.bytes) &&
  !(s.tasks.any fun t => match t.2.kind with
    | .stream m r _ => m = n && r = k && !t.2.outstanding n
    | _ => false)

/-- The next reads of a Newt's rings are taken up, while none of its program's is stalled (R255, R260). -/
def State.takeReads (s : State) (n : Nat) : State :=
  let r := s.newt n
  if s.streamStalled n then s
  else
    r.streams.zipIdx.foldl (fun s (x, k) =>
      if s.nextRead n k x then
        let t := s.task (r.task.getD 0)
        (s.addTask { kind := .stream n k x.cursor, src := t.src, ctx := t.ctx, eng := some ⟨.newt, Fin.ofNat 32 n⟩,
                     start := s.tick }).2
      else s) s

/-- The next reads of every access program. -/
def State.pumpReads (s : State) : State :=
  s.eng.newts.foldl (fun s e => if e.2.task.isSome then s.takeReads e.1 else s) s

/-! ## Programs -/

/-- A read of a list entry of a stream, by virtual or store address, in requests of at most a chunk (R258). A line of a program
of store addresses is kept under its store address (log 99). -/
def streamRead (e : Eng) (store : Bool) (a n : Nat) (alloc : Bool) : Prog PBytes := do
  let parts ← collect (fun (x, k) => do
    let rs ← if ¬ store then pieceReadV e x k alloc true false
      else do
        let w ← look fun s => s.whither x
        if w ≥ 64 then pure (lineAnswers x k { st := .invalid })
        else
          readGate e
          let rs ← pieceRead e x k (.store x) alloc false
          readDone e
          pure rs
    poisonables x k rs) (cut 256 a n)
  pure parts.flatten

/-- The address of byte s of a stream (R246, R250). -/
def streamAddr (e : Eng) (store : Bool) (b : List Byte) (x : Nat) : Prog Nat := do
  let seg := segBytes b
  match stKind b with
  | 0 => pure (stBase b + x)
  | 1 => pure (stBase b + x / seg * stB b + x % seg)
  | 2 =>
    let d ← streamRead e store (stA b + x / seg * 8) 8 true
    match clean d with
    | none => fail .poison
    | some l =>
      need (decide (leNat l % 2 ^ bits (stB b) 36 32 = 0) && progAddr store (leNat l)) .invalid
      pure (leNat l + bits (stC b) 31 0 + x % seg)
  | _ =>
    let w := bits (stB b) 39 32
    let d ← streamRead e store (stA b + x / seg * w) w true
    match clean d with
    | none => fail .poison
    | some l =>
      need (decide (leNat l < bits (stC b) 63 32)) .invalid
      pure (stBase b + leNat l * seg + x % seg)

/-- The reads of the stream up to byte x have been issued (R255). -/
def issuedTo (n ring x : Nat) : Prog Unit :=
  effect fun s => match (s.newt n).streams[ring]? with
    | some y => s.setStream n ring { y with cursor := x }
    | none => s

/-- Bytes left of the slot that byte x of a stream lies in. -/
def slotRoom (b : List Byte) (x : Nat) : Nat := slotBytes b - x % slotBytes b

/-- The data of a stream's read from byte x on, as far as the slot, the segment, the stream and the chunk it lies in go (R246,
R258). -/
def readData (e : Eng) (store : Bool) (b : List Byte) (ring x : Nat) : Prog PBytes := do
  let a ← streamAddr e store b x
  let n := min (min (slotRoom b x) (streamBytes b - x)) (min (segBytes b - x % segBytes b) (256 - a % 256))
  let w ← look fun s => if store then s.whither a else 1
  need (decide (w < 64)) .invalid
  let tgt ← if store then pure (.store a) else translate e a .read true
  readGate e
  issuedTo e.idx.val ring (x + n)
  poisonables a n (← pieceRead e a n tgt (!stNoAlloc b) false)

/-- Data of a stream from byte x on written to its ring (R246, R251). -/
def ringPut (e : Eng) (b : List Byte) (x : Nat) (d : PBytes) : Prog Unit :=
  writeP e (asEng e) (.pad (stRing b + x % ringSpan b)) d (fun _ => 0) fun _ => pure ()

/-- One read of a stream: it waits for its return, then goes to the ring; a slot's bytes beyond the stream's end are zeros. How
many bytes. -/
def readProg (e : Eng) (store : Bool) (b : List Byte) (ring x : Nat) : Prog Nat := do
  if streamBytes b ≤ x then
    issuedTo e.idx.val ring (x + slotRoom b x)
    ringPut e b x (List.replicate (slotRoom b x) (some 0))
    pure (slotRoom b x)
  else
    let d ← readData e store b ring x
    let _ ← act .reports fun _ s => s
    ringPut e b x d
    pure d.length

/-- The access program of a Kettle descriptor, read once and checked (R242, R247 to R249, R299): installed on the Newt. -/
def loadAccess (n va : Nat) (customer : Bool) : Prog Unit := do
  let e : Eng := ⟨.newt, Fin.ofNat 32 n⟩
  let t ← me
  let h ← readV e va 64 false false false
  need (apHeaderOk h) .invalid
  let k := bits (fieldLE h 0 1) 3 0
  let store := bit (fieldLE h 0 1) 4
  let maint ← look fun s => (s.flag (Reg.Q_CFG t.queue) Reg.Q_CFG_MAINT).toNat
  need (!store || maint = 1) .prot
  let cap := fieldLE h 2 2 * 65536
  let win ← look fun s => s.steepWindow n cap
  let recs ← collect (fun i => readV e (va + 64 + 64 * i) 64 false false false) (List.range k)
  need (recs.all (streamOk store win) && ringsApart recs) .invalid
  need (!customer || decide ((recs.map ringSpan).sum ≤ win)) .invalid
  let own ← look fun s => (recs.all (s.ringOwned n)).toNat
  need (own = 1) .prot
  let _ ← act .ready fun id s =>
    (s.setNewt n { task := some id, storeAddr := store, cap := cap, last := 7,
                   streams := recs.map fun r => { bytes := r } }).deliver id {}
  pure ()

end Sys2Proof.Machine
end

