-- ==== Sys2Proof/Machine/Kettle.lean ====
section
/-! DEFINITION. Kettle tile programs (09, 10): element formats, the load checks, and each operation's effect on the
cluster. -/

namespace Sys2Proof.Machine

/-! ## Element formats (R278 to R281, R300) -/

/-- The floating-point element of a format code, MX formats by their elements. -/
def elemFmt (c : Nat) : Option Fmt :=
  match c with
  | 0 | 5 => some .e4m3
  | 1 | 6 => some .e5m2
  | 2 | 7 => some .e2m3
  | 3 | 8 => some .e3m2
  | 4 | 9 => some .e2m1
  | 14 => some .bf16
  | 15 => some .fp16
  | 16 => some .fp32
  | _ => none

/-- Element width in bits. -/
def elemWidth (c : Nat) : Nat :=
  match elemFmt c with
  | some f => f.width
  | none => if c = 11 ∨ c = 13 then 4 else 8

def isMx (c : Nat) : Bool := decide (5 ≤ c) && decide (c ≤ 9)
def isRs (c : Nat) : Bool := c = 12 || c = 13

/-- Formats that may be streamed and those that may be stationary (R278). -/
def streamFmts : List Nat := [0, 1, 5, 6, 7, 8, 9, 10, 11, 12, 13, 14, 15]
def tileFmts : List Nat := [0, 1, 5, 6, 7, 8, 9, 10, 11, 14, 15]

/-- The number of an element code without scale; RS codes are unsigned (R281). -/
def elemVal (c code : Nat) : Fv :=
  match elemFmt c with
  | some f => f.dec code
  | none =>
    let i : Int := if isRs c then (code : Int) else signed (elemWidth c) code
    .fin (decide (i < 0)) i.natAbs 0

/-- An E8M0 scale (R280). -/
def e8m0 (b : Nat) : Fv := if b = 0xFF then .nan else .fin false 1 ((b : Int) - 127)

/-- Element codes of a packed vector (R279), and back. -/
def unpack (w k : Nat) (b : List Byte) : List Nat :=
  let n := leNat b
  (List.range k).map fun i => bits n (w * i + w - 1) (w * i)
def pack (w : Nat) (l : List Nat) : List Byte :=
  natLE ((l.length * w + 7) / 8) (l.foldr (fun c a => c % 2 ^ w + 2 ^ w * a) 0)

/-- The group length of a pairing (R278). -/
def groupLen (fs ft : Nat) : Nat :=
  if elemWidth fs = 16 ∨ elemWidth ft = 16 then 32 else if elemWidth fs = 4 then 128 else 64

/-- Scale and offset of an RS scale word (R281). -/
def rsScale (w : Nat) : Fv := Fmt.bf16.dec (w % 2 ^ 16)
def rsOffset (w : Nat) : Fv := Fmt.bf16.dec (w / 2 ^ 16 % 2 ^ 16)

/-- The decoded values of a vector of codes: MX scales one per 32 elements, an RS scale word (R280, R281). -/
def decodeVec (c : Nat) (codes : List Nat) (scales : List Byte) : List Fv :=
  codes.zipIdx.map fun (x, i) =>
    if isMx c then (elemVal c x).mul (e8m0 ((scales.getD (i / 32) 0).toNat))
    else if isRs c then ((rsScale (leNat (scales.take 4))).mul (elemVal c x)).add (rsOffset (leNat (scales.take 4)))
    else elemVal c x

def Fv.isNan : Fv → Bool
  | .nan => true
  | _ => false
def Fv.isInf : Fv → Bool
  | .inf _ => true
  | _ => false

/-- The group sum of streamed codes against stationary numbers, with its flags (R282, R284). -/
def groupOf (fs : Nat) (codes : List Nat) (scales : List Byte) (tile : List Fv) : Nat × Nat :=
  if isRs fs then
    let w := leNat (scales.take 4)
    let s := rsScale w
    let o := rsOffset w
    let cs := codes.map (elemVal fs)
    let terms := [s.mul (Fv.sum (List.zipWith Fv.mul tile cs)), o.mul (Fv.sum tile)]
    let all := s :: o :: tile
    groupSum terms (all.any Fv.isNan) (all.any Fv.isInf)
  else
    let xs := decodeVec fs codes scales
    groupSum (List.zipWith Fv.mul xs tile) ((xs ++ tile).any Fv.isNan) ((xs ++ tile).any Fv.isInf)

/-- The exact integer sum of a group (R283). -/
def intGroup (fs ft : Nat) (xs ts : List Nat) : Int :=
  (List.zipWith (fun x t => signed (elemWidth fs) x * signed (elemWidth ft) t) xs ts).foldl (· + ·) 0

/-- Lanes encoded in a format: bytes, scale bytes, flags (R287 to R289). -/
def encodeLanes (c : Nat) (sat : Bool) (lanes : List Nat) : List Byte × List Byte × Nat :=
  let w := elemWidth c
  let orf := fun (l : List Nat) => l.foldl (· ||| ·) 0
  if isMx c then
    let bs := (chunks 32 lanes.length lanes).map fun l => mxBlock ((elemFmt c).getD .e4m3) l
    (pack w (bs.flatMap fun b => b.2.1), bs.map fun b => BitVec.ofNat 8 b.1, orf (bs.map fun b => b.2.2))
  else if isRs c then
    let (sw, codes, fl) := rsRow (if c = 12 then 255 else 15) lanes
    (pack w codes, natLE 4 sw, fl)
  else if c = 16 then (pack 32 lanes, [], 0)
  else
    let r := lanes.map fun x =>
      match elemFmt c with
      | some f => f.conv sat (f32 x)
      | none => convInt w (f32 x)
    (pack w (r.map (·.1)), [], orf (r.map (·.2)))

/-- Codes decoded to FP32 lanes. -/
def decodeLanes (c : Nat) (codes : List Nat) (scales : List Byte) : List Nat :=
  if c = 16 then codes else (decodeVec c codes scales).map Fv.to32

/-- Scale bytes that a register of 64 lanes has: two, one word, or none (R308). -/
def laneScales (c : Nat) : Nat := if isMx c then 2 else if isRs c then 4 else 0

/-! ## Instructions -/

/-- The fields of an instruction (10, "Instruction format"). -/
def kOpc (i : Nat) : Nat := bits i 7 0
def kD (i : Nat) : Nat := bits i 12 8
def kM (i : Nat) : Nat := bits i 15 13
def kA (i : Nat) : Nat := bits i 20 16
def kArr (i : Nat) : Nat := bits i 22 21
def kSat (i : Nat) : Bool := bit i 23
def kB (i : Nat) : Nat := bits i 28 24
def kFmt (i : Nat) : Nat := bits i 36 32
def kSB (i : Nat) : Nat := bits i 43 40
def kSC (i : Nat) : Nat := bits i 47 44
def kN (i : Nat) : Nat := bits i 63 48
def kImm (i : Nat) : Nat := bits i 95 64
def kX (i : Nat) : Nat := bits i 127 96

/-- Registers that N counts: 0 acts as 1. -/
def kRegs (i : Nat) : Nat := max 1 (kN i)

/-- Bits that an instruction in its form uses beside OPC (R298, R301, R302, R305, R308; log 105). -/
def kUsed (i : Nat) : Nat :=
  let d := 31 * 2 ^ 8
  let m := fun (k : Nat) => k * 2 ^ 13
  let a := 31 * 2 ^ 16
  let arr := if bit (kM i) 0 then 0 else 3 * 2 ^ 21
  let sat := 2 ^ 23
  let b := 31 * 2 ^ 24
  let fmt := 31 * 2 ^ 32
  let sb := 15 * 2 ^ 40
  let sc := 15 * 2 ^ 44
  let n := 65535 * 2 ^ 48
  let imm := (2 ^ 32 - 1) * 2 ^ 64
  let x := fun (k : Nat) => k * 2 ^ 96
  let scaled := 0 < laneScales (kFmt i)
  let ring := fun (r : Nat) => if bit (kA i) 4 then r * 2 ^ 16 else 16 * 2 ^ 16
  match kOpc i with
  | 0x02 => d + imm
  | 0x03 => d + a + imm
  | 0x04 => d + a + b
  | 0x05 => n + sc + 511 * 2 ^ 64
  | 0x08 => 7 * 2 ^ 16 + sb + imm
  | 0x09 => sb + imm + x 255
  | 0x10 => m 1 + d + arr + fmt + sb + (if isMx (kFmt i) then sc else 0) + n + imm + x (2 ^ 32 - 1)
  | 0x11 => m 7 + d + ring 23 + arr + fmt + sb + n + imm + x 0x7FFF +
      (if scaled then sc + (if bit (kB i) 3 then 15 else 8) * 2 ^ 24 else 0)
  | 0x12 => m 3 + d + arr + sb + imm
  | 0x13 => m 1 + arr + n + 127 * 2 ^ 64
  | 0x20 => m 4 + d + fmt + sb + n + imm + x (2 ^ 32 - 1) + (if scaled then sc else 0) +
      (if bit (kM i) 2 then 2 ^ 24 else ring 23)
  | 0x21 => m 4 + d + sat + fmt + sb + n + imm + x (2 ^ 32 - 1) + (if scaled then sc else 0) +
      (if bit (kM i) 2 then 2 ^ 24 else 0)
  | 0x22 => m 7 + d + a + b + n
  | 0x23 => m 7 + d + a + n + imm
  | 0x24 => d + a + b + n
  | 0x25 => m 7 + d + a + n
  | 0x26 => m 1 + d + a + n
  | 0x27 => d + a + sat + fmt + n
  | 0x28 => d + a + b
  | 0x29 => d + a + 15 * 2 ^ 24 + sb + sc + n + imm + x (2 ^ 32 - 1)
  | 0x2A => d + a + n + imm + x (2 ^ 32 - 1)
  | 0x2B => m 1 + d + a + sb + n + imm + x 127
  | _ => 0

/-- The operations (R301). -/
def kOpcodes : List Nat :=
  [0x00, 0x01, 0x02, 0x03, 0x04, 0x05, 0x08, 0x09, 0x10, 0x11, 0x12, 0x13, 0x20, 0x21, 0x22, 0x23, 0x24, 0x25, 0x26,
   0x27, 0x28, 0x29, 0x2A, 0x2B]

/-- The load checks on one instruction alone (R298). -/
def kInstrOk (i : Nat) : Bool :=
  let o := kOpc i
  let regs := fun (r k : Nat) => decide (r + k ≤ 32)
  kOpcodes.contains o && decide (i &&& (2 ^ 128 - 256 - kUsed i) = 0) &&
  (match o with
   | 0x02 => decide (kD i ≤ 15)
   | 0x03 => decide (kD i ≤ 15) && decide (kA i ≤ 15)
   | 0x04 => decide (kD i ≤ 15) && decide (kA i ≤ 15) && decide (kB i ≤ 15)
   | 0x10 => tileFmts.contains (kFmt i) && decide (kD i + kRegs i ≤ 4)
   | 0x11 => streamFmts.contains (kFmt i) && decide (kD i ≤ 3) && decide (1 ≤ bits (kX i) 7 0)
   | 0x12 => regs (kD i) (if bit (kM i) 0 then 4 else 1)
   | 0x20 => decide (kFmt i ≤ 16) && regs (kD i) (kRegs i)
   | 0x21 => decide (kFmt i ≤ 16) && regs (kD i) (kRegs i)
   | 0x22 => decide (kM i ≤ 4) && regs (kD i) (kRegs i) && regs (kA i) (kRegs i) && regs (kB i) (kRegs i)
   | 0x23 => decide (kM i ≤ 4) && regs (kD i) (kRegs i) && regs (kA i) (kRegs i)
   | 0x24 => regs (kD i) (kRegs i) && regs (kA i) (kRegs i) && regs (kB i) (kRegs i)
   | 0x25 => decide (kM i ≤ 5) && regs (kD i) (kRegs i) && regs (kA i) (kRegs i)
   | 0x26 => regs (kD i) (kRegs i) && regs (kA i) (kRegs i)
   | 0x27 => [0, 1, 2, 3, 4, 10, 11, 14, 15, 16].contains (kFmt i) && regs (kD i) (kRegs i) && regs (kA i) (kRegs i)
   | 0x28 => regs (kD i) 3 && regs (kA i) 3 && regs (kB i) 3
   | 0x29 => decide (kB i ≤ 15) && regs (kD i) (kRegs i) && regs (kA i) (kRegs i)
   | 0x2A => regs (kD i) (kRegs i) && regs (kA i) (kRegs i)
   | 0x2B => decide (1 ≤ bits (kX i) 6 0) && decide (bits (kX i) 6 0 ≤ 64) && regs (kD i) 2 && regs (kA i) (kRegs i)
   | _ => true)

/-- The loops of a program: index and last instruction of the body. -/
def kLoops (l : List Nat) : List (Nat × Nat) :=
  l.zipIdx.filterMap fun (i, k) => if kOpc i = 0x05 then some (k, k + bits (kImm i) 8 0) else none

/-- Loop bodies lie within LEN and within enclosing bodies, and nest at most four deep (R298). -/
def kLoopsOk (l : List Nat) : Bool :=
  let ls := kLoops l
  ls.all fun (k, e) =>
    let outer := ls.filter fun (j, f) => j < k ∧ k ≤ f
    decide (e < max l.length 1) && outer.all (fun o => decide (e ≤ o.2)) && decide (outer.length < 4)

/-- The load checks (R298). -/
def kLoadOk (l : List Nat) : Bool := l.all kInstrOk && kLoopsOk l

/-! ## The cluster's state -/

def State.kettle (s : State) (n : Nat) : Kettle := SMap.get s.eng.kettles n {}
def State.setKettle (s : State) (n : Nat) (k : Kettle) : State :=
  { s with eng := { s.eng with kettles := SMap.set s.eng.kettles n k {} } }

/-- Scalar registers: S0 reads as zero. -/
def Kettle.sget (k : Kettle) (r : Nat) : Nat := if r = 0 then 0 else (SMap.get k.sreg r 0).toNat
def Kettle.sput (k : Kettle) (r v : Nat) : Kettle :=
  if r = 0 then k else { k with sreg := SMap.set k.sreg r (BitVec.ofNat 32 v) 0 }

/-- Vector registers as 64 FP32 codes. -/
def Kettle.vget (k : Kettle) (r : Nat) : List Nat := (List.range 64).map fun i => (SMap.get k.vreg (64 * r + i) 0).toNat
def Kettle.vput (k : Kettle) (r : Nat) (l : List Nat) : Kettle :=
  { k with vreg := (l.take 64).zipIdx.foldl (fun m (x, i) => SMap.set m (64 * r + i) (BitVec.ofNat 32 x) 0) k.vreg }

/-- Accumulators. -/
def Kettle.aget (k : Kettle) (a row col : Nat) : Nat := (SMap.get k.acc (2048 * a + 128 * row + col) 0).toNat
def Kettle.aput (k : Kettle) (a row col v : Nat) : Kettle :=
  { k with acc := SMap.set k.acc (2048 * a + 128 * row + col) (BitVec.ofNat 32 v) 0 }

/-- A stationary tile; one never loaded holds zeros in format 0 (log 25). -/
def Kettle.tile (k : Kettle) (a t : Nat) : KTile := SMap.get k.tiles (4 * a + t) {}

/-- Flags of R291 set in `KTL_FLAGS_n`. -/
def State.kFlags (s : State) (n fl : Nat) : State :=
  if fl = 0 then s else s.setReg (Reg.KTL_FLAGS n) (s.reg (Reg.KTL_FLAGS n) ||| fl)

/-- Flags of operands that enter the Blend unit (R292). -/
def inFlags (l : List Nat) : Nat :=
  (if l.any isNan32 then flNan else 0) ||| (if l.any isInf32 then flInf else 0)
/-- A result that overflowed: of numbers that were all finite (R292). -/
def ovfOf (ins : List Nat) (out : Nat) : Nat := if isInf32 out && ins.all (fun x => !isNan32 x && !isInf32 x) then flOvf else 0
/-- The overflows of a row of results, each of its own operands. -/
def outFlags (ins : List (List Nat)) (outs : List Nat) : Nat :=
  (ins.zip outs).foldl (fun a x => a ||| ovfOf x.1 x.2) 0

/-- Why an instruction does not complete: it waits for a ring's slot, or at a bank to read or write it, or ends its
descriptor with a status, a CAUSE and a CODE, where `rec_` is the withheld record of a stream's fault (R263); or that, once an
MMA has taken some groups, with their flags (R292, R313). -/
inductive KStop where
  | wait
  | after (groups flags : Nat) (e : KStop)
  | bank (b : Nat) (write : Bool)
  | err (st : Status) (cause code : Nat) (rec_ : List Byte)

/-- The engine of Kettle n. -/
def kEng (n : Nat) : Eng := ⟨.kettle, Fin.ofNat 32 n⟩

/-- "addr" of the operation table. -/
def Kettle.addr (k : Kettle) (i : Nat) : Nat := (k.sget (kSB i) + kImm i) % 2 ^ 32

/-- A scratchpad range of a Kettle: on its die, and 16-byte aligned (R305); `al` is false for scale sources. -/
def padRangeOk (n off len : Nat) (al : Bool) : Bool :=
  (!al || decide (off % 16 = 0)) && decide (off / 2 ^ 31 = n / 16) && decide ((off + max len 1 - 1) / 2 ^ 31 = n / 16)

/-- Bytes of scratchpad read by a Kettle (R224, R285, R305). -/
def State.kRead (s : State) (n off len : Nat) (al : Bool) : Except KStop (List Byte) :=
  if !padRangeOk n off len al then .error (.err .invalid 6 0 [])
  else
    let ws := cut 64 off len
    match ws.filterMap fun w => match s.bankGrant (asEng (kEng n)) w.1 with
        | some .ok => if s.wordPoison w.1 then some (KStop.err .poison 9 0 []) else none
        | some st => some (KStop.err st 9 0 [])
        | none => some (KStop.bank (bankOf w.1) false) with
    | e :: _ => .error e
    | [] => .ok (s.padBytes off len)

/-- Bytes of scratchpad written by a Kettle. -/
def State.kWrite (s : State) (n off : Nat) (d : List Byte) (al : Bool) : Except KStop State :=
  if !padRangeOk n off d.length al then .error (.err .invalid 6 0 [])
  else
    let ws := cut 64 off d.length
    match ws.filterMap fun w => match s.bankGrant (asEng (kEng n)) w.1 with
        | some .ok => none
        | some st => some (KStop.err st 9 0 [])
        | none => some (KStop.bank (bankOf w.1) true) with
    | e :: _ => .error e
    | [] => .ok (ws.foldl (fun s (x, k) =>
        (s.padPut x ((d.drop (x - off)).take k)).bankGranted (bankOf x) (kEng n).key) s)

/-- A wait on one slot of a ring (R251, R263, R309): the slot number counts modulo 2^32 from RELEASED on. -/
def State.slotWait (s : State) (n ring slot : Nat) : Except KStop Unit :=
  match (s.newt n).streams[ring]? with
  | none => .error (.err .invalid 4 0 [])
  | some x =>
    let d := (slot + 2 ^ 32 - x.released % 2 ^ 32) % 2 ^ 32
    let pos := x.released + d
    if slot ≥ streamSlots x.bytes ∨ (d < 2 ^ stSlotsLog x.bytes ∧ pos ≥ streamSlots x.bytes) then .error (.err .invalid 4 0 [])
    else if d ≥ 2 ^ stSlotsLog x.bytes then .error (.err .invalid 5 0 [])
    else
      match x.failed with
      | some (k, st, code, r) => if pos ≥ k then .error (.err st 9 code r) else
          if pos < x.filled then .ok () else .error .wait
      | none => if pos < x.filled then .ok () else .error .wait

/-- Every slot of a list waited for in turn. -/
def waitAll (s : State) (n ring : Nat) : List Nat → Except KStop Unit
  | [] => .ok ()
  | k :: ks =>
    match s.slotWait n ring k with
    | .ok () => waitAll s n ring ks
    | .error e => .error e

/-- Bytes of a ring's stream read by the Kettle (R246, R309), piece by piece where the ring wraps. -/
def State.ringRead (s : State) (n ring x len : Nat) (al : Bool) : Except KStop (List Byte) :=
  match (s.newt n).streams[ring]? with
  | none => .error (.err .invalid 4 0 [])
  | some st =>
    if al && decide (x % 16 ≠ 0) then .error (.err .invalid 6 0 [])
    else
      let b := st.bytes
      match waitAll s n ring ((cut (slotBytes b) x len).map fun p => p.1 / slotBytes b) with
      | .error e => .error e
      | .ok () =>
        (cut 64 x len).foldl (fun r (y, k) =>
          match r with
          | .error e => .error e
          | .ok d =>
            match s.kRead n (stRing b + y % ringSpan b) k false with
            | .error e => .error e
            | .ok e => .ok (d ++ e)) (.ok [])

/-! ## Operations -/

/-- An operation: from the state with the instruction as yet unissued, the state after it. -/
abbrev KOp := State → Nat → Nat → Except KStop State

/-- An operation that only changes the cluster's registers. -/
def kPure (f : Kettle → Nat → Kettle) : KOp := fun s n i => .ok (s.setKettle n (f (s.kettle n) i))

def kNop : KOp := fun s _ _ => .ok s

/-- SET, ADDI, ADD. -/
def kSet : KOp := kPure fun k i => k.sput (kD i) (kImm i)
def kAddi : KOp := kPure fun k i => k.sput (kD i) ((k.sget (kA i) + kImm i) % 2 ^ 32)
def kAdd : KOp := kPure fun k i => k.sput (kD i) ((k.sget (kA i) + k.sget (kB i)) % 2 ^ 32)

/-- LOOP (R311): PC is that of the LOOP itself; a count of 0 skips the body. -/
def kLoop : KOp := kPure fun k i =>
  let cnt := kN i + k.sget (kSC i)
  let len := bits (kImm i) 8 0
  if cnt = 0 ∨ len = 0 then { k with pc := k.pc + len }
  else { k with loops := (k.pc + 1, k.pc + 1 + len, cnt) :: k.loops }

/-- RWAIT. -/
def kRwait : KOp := fun s n i =>
  match s.slotWait n (bits (kA i) 2 0) ((s.kettle n).addr i) with
  | .ok () => .ok s
  | .error e => .error e

/-- RREL (R253, R254, R310). -/
def kRrel : KOp := fun s n i =>
  .ok ((setBits 8 (bits (kX i) 7 0)).foldl (fun s r => s.ringRelease n r ((s.kettle n).addr i)) s)

/-- The arrays an instruction acts on. -/
def kArrays (i : Nat) : List Nat := if bit (kM i) 0 then [0, 1, 2, 3] else [kArr i]

/-- LDS (R278, R308). -/
def kLds : KOp := fun s n i =>
  let k := s.kettle n
  let f := kFmt i
  let len := 128 * elemWidth f / 8
  (List.range (kRegs i)).foldl (fun r j =>
    match r with
    | .error e => .error e
    | .ok s =>
      let rows := (List.range 16).foldl (fun (r : Except KStop (List (List Nat))) q =>
        match r with
        | .error e => .error e
        | .ok l =>
          match s.kRead n (k.addr i + j * bits (kX i) 31 16 + q * bits (kX i) 15 0) len true with
          | .error e => .error e
          | .ok d => .ok (l ++ [unpack (elemWidth f) 128 d])) (.ok [])
      match rows with
      | .error e => .error e
      | .ok rows =>
        let sc := if isMx f then s.kRead n (k.sget (kSC i) + 64 * j) 64 false else .ok []
        match sc with
        | .error e => .error e
        | .ok sc =>
          let t : KTile := ⟨f, rows, sc⟩
          let k' := (kArrays i).foldl (fun (k : Kettle) a =>
            { k with tiles := SMap.set k.tiles (4 * a + kD i + j) t {} }) (s.kettle n)
          .ok (s.setKettle n k')) (.ok s)

/-- The numbers of G elements of a tile's row from element e on. -/
def KTile.row (t : KTile) (r e g : Nat) : List Fv :=
  (List.range g).map fun q =>
    let c := (t.rows.getD r []).getD (e + q) 0
    let v := elemVal t.fmt c
    if isMx t.fmt then v.mul (e8m0 ((t.scales.getD (4 * r + (e + q) / 32) 0).toNat)) else v

/-- One group into one column of an array (R282 to R284, R302). -/
def mmaGroup (k : Kettle) (i a col tile e g : Nat) (codes : List Nat) (scales : List Byte) (first : Bool) :
    Kettle × Nat :=
  let t := k.tile a tile
  (List.range 16).foldl (fun (k, fl) r =>
    let old := k.aget a r col
    if bit (kM i) 2 then
      let sum := intGroup (kFmt i) t.fmt codes ((List.range g).map fun q => (t.rows.getD r []).getD (e + q) 0)
      let (v, sat) := satI32 ((if first then 0 else signed 32 old) + sum)
      (k.aput a r col (wrap 32 v), if sat then fl ||| flIsat else fl)
    else
      let (x, f1) := groupOf (kFmt i) codes scales (t.row r e g)
      let (v, f2) := if first then (x, 0) else accAdd old x
      (k.aput a r col v, fl ||| f1 ||| f2)) (k, 0)

/-- The scale bytes of MMA group j (R308). -/
def State.mmaScales (s : State) (n i a j g p : Nat) : Except KStop (List Byte) :=
  let k := s.kettle n
  let base := k.sget (kSC i)
  let (off, len) := if isMx (kFmt i) then (j * (g / 32), g / 32) else (4 * (j / p), 4)
  if !isMx (kFmt i) && !isRs (kFmt i) then .ok []
  else if bit (kB i) 3 then
    s.ringRead n (bits (kB i) 2 0 + (if bit (kM i) 0 then a else 0)) (base * 64 + off) len false
  else s.kRead n (base + off) len false

/-- One group of an MMA on one array. -/
def mmaOne (s : State) (n i a j : Nat) : Except KStop (State × Nat) :=
  let k := s.kettle n
  let p := bits (kX i) 7 0
  let ft := (k.tile a (kD i)).fmt
  let g := groupLen (kFmt i) ft
  let bytes := g * elemWidth (kFmt i) / 8
  let e := j % p * g
  let tile := kD i + e / 128
  let col := bits (kX i) 14 8 + j / p
  let four := bit (kM i) 0
  if tile > 3 ∨ col > 127 then .error (.err .invalid 2 0 [])
  else if ¬ streamFmts.contains (kFmt i) ∨ groupLen (kFmt i) (k.tile a tile).fmt ≠ g then .error (.err .invalid 1 0 [])
  else if bit (kM i) 2 ∧ ¬ ((kFmt i = 10 ∨ kFmt i = 11) ∧ ((k.tile a tile).fmt = 10 ∨ (k.tile a tile).fmt = 11)) then
    .error (.err .invalid 1 0 [])
  else
    let src := if bit (kA i) 4 then s.ringRead n (bits (kA i) 2 0 + (if four then a else 0)) (k.addr i * 64 + j * bytes) bytes false
      else if k.addr i % 16 ≠ 0 then .error (.err .invalid 6 0 [])
      else s.kRead n (k.addr i + (if four then a * kN i * bytes else 0) + j * bytes) bytes false
    match src with
    | .error e => .error e
    | .ok d =>
      match s.mmaScales n i a j g p with
      | .error e => .error e
      | .ok sc =>
        let (k', fl) := mmaGroup k i a col tile (e % 128) g (unpack (elemWidth (kFmt i)) g d) sc (bit (kM i) 1 && j % p = 0)
        .ok (s.setKettle n k', fl)

/-- Groups taken: each counts, and sets its flags (R292). -/
def State.kGroups (s : State) (n groups fl : Nat) : State :=
  (s.kFlags n fl).bump (Reg.KTL_ACT n) Reg.KTL_ACT_ACTIVE groups

/-- MMA (R302): every group on every array named; an error leaves what the groups before it counted. -/
def kMma : KOp := fun s n i =>
  let r := ((List.range (kN i)).flatMap fun j => (kArrays i).map fun a => (j, a)).foldl
    (fun (r : Except KStop (State × Nat × Nat)) (j, a) =>
      match r with
      | .error e => .error e
      | .ok (s, g, fl) =>
        match mmaOne s n i a j with
        | .ok (s, f) => .ok (s, g + 1, fl ||| f)
        | .error (.err st c code r) => .error (.after g fl (.err st c code r))
        | .error e => .error e) (.ok (s, 0, 0))
  match r with
  | .ok (s, g, fl) => .ok (s.kGroups n g fl)
  | .error e => .error e

/-- ACCRD (R304). -/
def kAccrd : KOp := fun s n i =>
  let k := s.kettle n
  let seg := k.addr i
  if seg > 31 then .error (.err .invalid 3 0 [])
  else
    let read := fun (a : Nat) => (List.range 64).map fun l =>
      let v := k.aget a (seg / 2) (64 * (seg % 2) + l)
      if bit (kM i) 1 then round32 (decide (signed 32 v < 0)) (signed 32 v).natAbs 1 0 else v
    let arrs := kArrays i
    let k' := arrs.zipIdx.foldl (fun (k : Kettle) (a, j) => k.vput (kD i + j) (read a)) k
    let fl := if bit (kM i) 1 then 0 else inFlags (arrs.flatMap read)
    .ok ((s.setKettle n k').kFlags n fl)

/-- ACCCLR. -/
def kAccclr : KOp := fun s n i =>
  let c := bits (kImm i) 6 0
  if c + kN i > 128 then .error (.err .invalid 2 0 [])
  else
    .ok (s.setKettle n ((kArrays i).foldl (fun k a =>
      (List.range 16).foldl (fun k r => (List.range (kN i)).foldl (fun k j => k.aput a r (c + j) 0) k) k) (s.kettle n)))

/-- Registers written from registers, lane by lane; the function takes the register's number in the row. -/
def kMap (f : Kettle → Nat → Nat → List Nat × Nat) : KOp := fun s n i =>
  let k := s.kettle n
  let rs := (List.range (kRegs i)).map (f k i)
  let k' := rs.zipIdx.foldl (fun (k : Kettle) (r, j) => k.vput (kD i + j) r.1) k
  .ok ((s.setKettle n k').kFlags n (rs.foldl (fun a r => a ||| r.2) 0))

/-- Two-operand lanes with their flags. -/
def lanes2 (f : Nat → Nat → Nat) (a b : List Nat) : List Nat × Nat :=
  let r := List.zipWith f a b
  (r, inFlags (a ++ b) ||| outFlags (List.zipWith (fun x y => [x, y]) a b) r)

/-- VOP and VOPI (R290). -/
def kVop (f : Nat → Nat → Nat) : KOp := kMap fun k i j => lanes2 f (k.vget (kA i + j)) (k.vget (kB i + j))
def kVopi (f : Nat → Nat → Nat) : KOp := kMap fun k i j => lanes2 f (k.vget (kA i + j)) (List.replicate 64 (kImm i))

/-- FMA. -/
def kFma : KOp := kMap fun k i j =>
  let a := k.vget (kA i + j)
  let b := k.vget (kB i + j)
  let d := k.vget (kD i + j)
  let r := List.zipWith (fun (x : Nat × Nat) z => fma32 x.1 x.2 z) (a.zip b) d
  (r, inFlags (a ++ b ++ d) ||| outFlags (List.zipWith (fun (x : Nat × Nat) z => [x.1, x.2, z]) (a.zip b) d) r)

/-- VFN: each lane has a free value of its own for the function's permitted error (R290). -/
def kVfn (f : Nat → Nat → Nat) : KOp := fun s n i =>
  let base := s.free
  kMap (fun k i j =>
    let a := k.vget (kA i + j)
    let r := a.zipIdx.map fun (x, l) => f x (base + 64 * j + l)
    -- the infinity of a zero operand is exact (R290)
    (r, inFlags a ||| outFlags (a.map fun x => if x % 2 ^ 31 = 0 then [inf32 false] else [x]) r)) { s with free := s.free + 64 * kRegs i } n i

/-- RED, with the flags of its reduction. -/
def kRed (f : List Nat → Nat × Nat) : KOp := kMap fun k i j =>
  let a := k.vget (kA i + j)
  (List.replicate 64 (f a).1, inFlags a ||| (f a).2)

/-- A row sum with the flag of an addition that overflows (R290, R292). -/
def redSum : Nat → List Nat → Nat × Nat
  | 0, l => (l.headD 0, 0)
  | k + 1, l =>
    match l with
    | [] => (0, 0)
    | [x] => (x, 0)
    | _ =>
      let a := redSum k (l.take (2 ^ k))
      let b := redSum k (l.drop (2 ^ k))
      let r := add32 a.1 b.1
      (r, a.2 ||| b.2 ||| ovfOf [a.1, b.1] r)

/-- CAST (R287). -/
def kCast : KOp := kMap fun k i j =>
  let a := k.vget (kA i + j)
  let (b, sc, fl) := encodeLanes (kFmt i) (kSat i) a
  (decodeLanes (kFmt i) (unpack (elemWidth (kFmt i)) 64 b) sc, inFlags a ||| fl)

/-- The flags of an LSE_MERGE of two partials with its result (R291, R292). -/
def lseFlags (p q r : Partial) : Nat :=
  let head := [p.1, q.1, p.2.1, q.2.1]
  inFlags (head ++ p.2.2 ++ q.2.2) |||
  (if p.1 = negInf32 ∨ q.1 = negInf32 then 0
   else ovfOf head r.2.1 ||| outFlags (List.zipWith (fun x y => [p.1, q.1, x, y]) p.2.2 q.2.2) r.2.2)

/-- LSEM (R291): lanes of the first register beyond m and l are free values. -/
def kLsem : KOp := fun s n i =>
  let k := s.kettle n
  let part := fun (r : Nat) => ((k.vget r).getD 0 0, (k.vget r).getD 1 0, k.vget (r + 1) ++ k.vget (r + 2))
  let (m, l, o) := lseMerge (part (kA i)) (part (kB i)) s.free
  let rest := (List.range 62).map fun j => Config.freeNat (s.free + 2 + j) % 2 ^ 32
  let fl := lseFlags (part (kA i)) (part (kB i)) (m, l, o)
  let k' := ((k.vput (kD i) (m :: l :: rest)).vput (kD i + 1) (o.take 64)).vput (kD i + 2) (o.drop 64)
  .ok (({ s with free := s.free + 64 }.setKettle n k').kFlags n fl)

/-- MASK (R306). -/
def kMask : KOp := kMap fun k i j =>
  let a := k.vget (kA i + j)
  (a.zipIdx.map fun (x, l) =>
    let p := (k.sget (kSB i) + kImm i + 64 * j + l) % 2 ^ 32
    if p < k.sget (kSC i) ∨ p > k.sget (kB i % 16) then kX i else x, inFlags a)

/-- SCAP: IMM × tanh(Va × X). -/
def kScap : KOp := fun s n i =>
  let base := s.free
  kMap (fun k i j =>
    let a := k.vget (kA i + j)
    let r := a.zipIdx.map fun (x, l) => mul32 (kImm i) (tanh32 (mul32 x (kX i)) (base + 64 * j + l))
    (r, inFlags (kImm i :: kX i :: a) ||| outFlags (a.map fun x => [kImm i, kX i, x]) r)) { s with free := s.free + 64 * kRegs i } n i

/-- A TOPK entry ranks before another (R307). -/
def topBefore (x y : Nat × Nat) : Bool :=
  lt32 y.1 x.1 || (!lt32 x.1 y.1 && decide (x.2 < y.2))

/-- An entry put in its place of a list that keeps k entries. -/
def topInsert (k : Nat) (l : List (Nat × Nat)) (x : Nat × Nat) : List (Nat × Nat) :=
  ((l.takeWhile fun y => !topBefore x y) ++ x :: (l.dropWhile fun y => !topBefore x y)).take k

/-- TOPK (R307). -/
def kTopk : KOp := fun s n i =>
  let k := s.kettle n
  let cnt := bits (kX i) 6 0
  let empty := (negInf32, 0xFFFFFFFF)
  let old := if bit (kM i) 0 then List.replicate cnt empty
    else ((k.vget (kD i)).zip (k.vget (kD i + 1))).take cnt
  let new := (List.range (kRegs i)).flatMap fun j =>
    (k.vget (kA i + j)).zipIdx.map fun (x, l) => (x, (k.sget (kSB i) + kImm i + 64 * j + l) % 2 ^ 32)
  let r := (new.filter fun x => !isNan32 x.1).foldl (topInsert cnt) old
  let tail := fun (q : Nat) => (k.vget q).drop cnt
  let k' := (k.vput (kD i) (r.map (·.1) ++ tail (kD i))).vput (kD i + 1) (r.map (·.2) ++ tail (kD i + 1))
  .ok ((s.setKettle n k').kFlags n (inFlags (new.map (·.1))))

/-- VLD from a ring or from scratchpad (R305, R308). -/
def kVldPad : KOp := fun s n i =>
  let k := s.kettle n
  let f := kFmt i
  let len := 64 * elemWidth f / 8
  (List.range (kRegs i)).foldl (fun r j =>
    match r with
    | .error e => .error e
    | .ok s =>
      let src := if bit (kA i) 4 then s.ringRead n (bits (kA i) 2 0) (k.addr i * 64 + j * kX i) len true
        else s.kRead n (k.addr i + j * kX i) len true
      match src with
      | .error e => .error e
      | .ok d =>
        let q := laneScales f
        match (if q = 0 then Except.ok [] else s.kRead n (k.sget (kSC i) + q * j) q false) with
        | .error e => .error e
        | .ok sc =>
          let l := decodeLanes f (unpack (elemWidth f) 64 d) sc
          .ok ((s.setKettle n ((s.kettle n).vput (kD i + j) l)).kFlags n (inFlags l))) (.ok s)

/-- VST to scratchpad. -/
def kVstPad : KOp := fun s n i =>
  let k := s.kettle n
  let f := kFmt i
  (List.range (kRegs i)).foldl (fun r j =>
    match r with
    | .error e => .error e
    | .ok s =>
      let a := k.vget (kD i + j)
      let (b, sc, fl) := encodeLanes f (kSat i) a
      match s.kWrite n (k.addr i + j * kX i) b true with
      | .error e => .error e
      | .ok s =>
        match (if sc = [] then Except.ok s else s.kWrite n (k.sget (kSC i) + sc.length * j) sc false) with
        | .error e => .error e
        | .ok s => .ok (s.kFlags n (inFlags a ||| fl))) (.ok s)

/-- KARG[B[0]]. -/
def Kettle.karg (k : Kettle) (i : Nat) : Nat := if bit (kB i) 0 then k.karg1 else k.karg0

/-- The store-space access of a VLD (R271, R305). -/
def vldProg (n i : Nat) : Prog Unit := do
  let e := kEng n
  let f := kFmt i
  let len := 64 * elemWidth f / 8
  let q := laneScales f
  let (base, sc0) ← peek fun s => ((s.kettle n).karg i + (s.kettle n).addr i, (s.kettle n).karg i + (s.kettle n).sget (kSC i))
  each (fun j => do
    let d ← readV e (base + j * kX i) len true false false
    let sc ← if q = 0 then pure [] else readV e (sc0 + q * j) q true false false
    effect fun s =>
      let l := decodeLanes f (unpack (elemWidth f) 64 d) sc
      (s.setKettle n ((s.kettle n).vput (kD i + j) l)).kFlags n (inFlags l)) (List.range (kRegs i))

/-- The store-space access of a VST (R272, R305). -/
def vstProg (n i : Nat) : Prog Unit := do
  let e := kEng n
  let f := kFmt i
  let (base, sc0, k) ← peek fun s =>
    ((s.kettle n).karg i + (s.kettle n).addr i, (s.kettle n).karg i + (s.kettle n).sget (kSC i), s.kettle n)
  each (fun j => do
    let a := k.vget (kD i + j)
    let (b, sc, fl) := encodeLanes f (kSat i) a
    effect fun s => (s.setKettle n { s.kettle n with stored := true }).kFlags n (inFlags a ||| fl)
    writeV e (base + j * kX i) b 0 false
    if sc ≠ [] then writeV e (sc0 + sc.length * j) sc 0 false) (List.range (kRegs i))

/-! ## Running a program (R295 to R299, R312) -/

/-- Instructions of a program as read. -/
def kParse (b : List Byte) : List Nat := (chunks 16 b.length b).map leNat

/-- The cluster as a descriptor finds it (R297). -/
def Kettle.fresh (task id : Nat) : Kettle := { task := some task, id := id }

/-- The work that waits at a Kettle, in the order in which it arrived (R296). -/
def State.kqueue (s : State) (n : Nat) : List Nat := SMap.get s.eng.kqueue n []
def State.setKqueue (s : State) (n : Nat) (l : List Nat) : State :=
  { s with eng := { s.eng with kqueue := SMap.set s.eng.kqueue n l [] } }

/-- A Kettle is free, and nothing waits at it. -/
def State.kettleIdle (s : State) (n : Nat) : Bool := (s.kettle n).task.isNone && (s.kqueue n).isEmpty

/-- A piece of work waits at a Kettle: it has not started. -/
def State.atKettle (s : State) (id : Nat) : Bool := s.eng.kqueue.any fun e => e.2.contains id

/-- Work arrives at a Kettle, and starts there when the Kettle has ended what arrived before (R296, R297). -/
def enterKettle (n kid : Nat) : Prog Unit := do
  let _ ← act .ready fun id s => (s.setKqueue n (s.kqueue n ++ [id])).deliver id {}
  let _ ← act .held fun id s =>
    if (s.kettle n).task.isNone && (s.kqueue n).head? = some id then
      (((s.setKqueue n (s.kqueue n).tail).setKettle n (Kettle.fresh id kid)).setTask id
        { (s.task id) with eng := some (kEng n), start := s.tick }).deliver id {}
    else s
  pure ()

/-- A customer program starts: every register zero, S1 and S2 from the descriptor (R297). -/
def kStart (task : Nat) (l : List Nat) (karg0 karg1 s1 s2 : Nat) : Kettle :=
  (({ task := some task, running := true, prog := l.map (BitVec.ofNat 128), karg0 := karg0, karg1 := karg1 } : Kettle).sput
    1 s1).sput 2 s2

/-- KTL_RUN (R295 to R299): the program is read and checked, then runs instruction by instruction; the descriptor waits
for its end. -/
def ktlRunProg (n : Nat) (b : List Byte) : Prog Unit := do
  let e := kEng n
  let len := bits (dOp b 1) 15 0
  let parts ← collect (fun (a, k) => do
    readRange (← translate e a .read false) k false) (cut 256 (dOp b 0) (16 * len))
  let prog := kParse parts.flatten
  if !kLoadOk prog then
    effect fun s => s.setKettle n { s.kettle n with cause := 8 }
    fail .invalid
  if dOp b 2 ≠ 0 then loadAccess n (dOp b 2) true
  let a ← act .reports fun id s => s.setKettle n (kStart id prog (dOp b 3) (dOp b 4) (bits (dOp b 5) 31 0) (bits (dOp b 5) 63 32))
  if a.st ≠ .ok then
    fun r => (.error (.fin a.st a.val (if a.data = [] then none else some (fieldLE a.data 0 8, fieldLE a.data 8 8))), r)

/-- Check 4 of R128 for KTL_RUN (R49, R295). -/
def ktlOperandsOk (b : List Byte) : Bool :=
  decide (dEng b < 32) && dSubop b = 0 && isVa (dOp b 0) && decide (dOp b 0 % 16 = 0) && decide (1 ≤ bits (dOp b 1) 15 0) &&
  decide (bits (dOp b 1) 15 0 ≤ 512) && bits (dOp b 1) 63 16 = 0 && isVa (dOp b 2) && isVa (dOp b 3) && isVa (dOp b 4)

/-- The customer program ends: its descriptor takes up again with a status and a CODE; a withheld fault record is
written now (R263, R312, R314). -/
def State.kEnd (s : State) (n : Nat) (st : Status) (cause code : Nat) (rec_ : List Byte)
    (home : Option (Nat × Nat) := none) : State :=
  let k := s.kettle n
  let s := s.setKettle n { k with running := false, cause := cause, rwait := false, sub := none }
  let s := if rec_ = [] ∨ ¬ s.flag Reg.XLT_FQ_BASE Reg.XLT_FQ_BASE_EN then s
    else { s with ringq := s.ringq ++ [{ ring := 0, bytes := rec_ }] }
  match k.task with
  | none => s
  | some id => s.deliver id { st := st, val := code,
                              data := match home with | some (r, m) => natLE 8 r ++ natLE 8 m | none => [] }

/-- Loops whose last pass is over are left, others go back to their start (R311). -/
def closeLoops : Nat → Kettle → Kettle
  | 0, k => k
  | fuel + 1, k =>
    match k.loops with
    | (a, e, c) :: rest =>
      if k.pc = e then
        if c ≤ 1 then closeLoops fuel { k with loops := rest } else { k with pc := a, loops := (a, e, c - 1) :: rest }
      else k
    | [] => k

/-- PC passes the instruction; after the last one the program ends (R312). -/
def State.kAdvance (s : State) (n : Nat) : State :=
  let k := s.kettle n
  let k' := closeLoops 5 { k with pc := k.pc + 1, rwait := false, bank := none, moved := s.tick }
  let s := s.setKettle n k'
  if k'.pc ≥ k'.prog.length then s.kEnd n .ok 0 0 [] else s

/-- The next instruction of a Kettle that may issue one: its descriptor is not to end (R135, R146). -/
def State.kNext (s : State) (n : Nat) : Option Nat :=
  let k := s.kettle n
  if k.running && k.sub.isNone && s.live && !s.isContained (kEng n).part && (s.task (k.task.getD 0)).over.isNone then (k.prog[k.pc]?).map (·.toNat) else none

/-- The store access of a VLD or VST has ended. -/
def State.kAccessDone (s : State) (n : Nat) (f : Fin_) : State :=
  let s := s.setKettle n { s.kettle n with sub := none, replayed := (s.kettle n).replayed || f.replayed }
  if f.st = .ok then s.kAdvance n else s.kEnd n f.st 9 f.code [] f.remote

/-- The outcome of an operation taken up in the state. -/
def State.kTake (s : State) (n : Nat) (r : Except KStop State) : State :=
  match r with
  | .ok s' => s'.kAdvance n
  | .error (.after g fl e) =>
    match e with
    | .err st c code r => (s.kGroups n g fl).kEnd n st c code r
    | _ => s
  | .error (.bank b w) =>
    let (q, s) := s.bankReq (s.kettle n).bank b (kEng n).key w
    s.setKettle n { s.kettle n with bank := some q, rwait := false }
  | .error .wait =>
    let d := Config.freeNat s.free
    ({ s with free := s.free + 1 }.setKettle n { s.kettle n with rwait := true }).bump (Reg.KTL_WAIT n) Reg.KTL_WAIT_WAIT d
  | .error (.err st c code r) => s.kEnd n st c code r

end Sys2Proof.Machine
end

