-- ==== Sys2Proof/Machine/Fan.lean ====
section
/-! DEFINITION. Fan-out (11 to 13): a coordinator's subrequests and the answers they get, and what a home checks before
it serves one (R46, R48, R334, R348, R362, R397). -/

namespace Sys2Proof.Machine

/-- The subrequests of a task. -/
def State.fan (s : State) (id : Nat) : Fan := SMap.get s.eng.fans id {}
def State.setFan (s : State) (id : Nat) (f : Fan) : State :=
  { s with eng := { s.eng with fans := SMap.put s.eng.fans id f } }

/-- The port number that stands for this module itself, for subrequests of its own coordinators. -/
def selfPort : Nat := 50

/-- One subrequest to a home, stamped with the coordinator's context and epoch (R48, R109): a task when the home is this
module, else a message; a home outside the partition is missing (R346). -/
def State.sendWork (s : State) (id dst units : Nat) (w : Work) : State :=
  let t := s.task id
  let tag := s.fab.tag
  let m : Msg := { hdr := s.header false s.rack dst t.ctx s.epoch (streamOf t.src) tag, body := .subreq w, bad := false }
  let s := { s with fab := { s.fab with tag := (tag + 1) % 2 ^ 24 } }
  let p : FanPart := { dst := dst, tag := tag, units := units, at_ := s.tick }
  let f := s.fan id
  if dst = s.module then
    let (k, s) := s.addTask { kind := .msg selfPort m, src := .peer (Fin.ofNat 32 dst), ctx := t.ctx, start := s.tick }
    s.setFan id { f with parts := f.parts ++ [{ p with local_ := some k }] }
  else if s.member dst then
    (s.sendPeer dst m).1.setFan id { f with parts := f.parts ++ [p] }
  else
    s.setFan id { f with parts := f.parts ++ [{ p with missing := some .fenced }] }

/-- A part is answered. -/
def FanPart.answered (p : FanPart) : Bool := p.got.isSome || p.missing.isSome

/-- Every awaited part is answered. -/
def Fan.ready (f : Fan) : Bool := (f.parts.drop f.waitFrom).all FanPart.answered

/-- A task that waits for its subrequests goes on once they are answered. -/
def State.fanNote (s : State) (id : Nat) : State :=
  if (s.task id).wait = .reports ∧ (s.fan id).ready then s.deliver id {} else s

/-- Subrequests sent in one go, and the wait for their answers; HOME_TMO in µs (R348). -/
def fanOut (tmo : Nat) (l : List (Nat × Nat × Work)) : Prog Unit := do
  let _ ← act .reports fun id s =>
    let f := s.fan id
    let s := s.setFan id { f with waitFrom := f.parts.length, tmo := tmo }
    (l.foldl (fun s (dst, n, w) => s.sendWork id dst n w) s).fanNote id
  pure ()

/-- A subrequest was sent out, or given to this module's own engines. -/
def FanPart.sent (p : FanPart) : Bool := p.missing ≠ some .fenced || p.late

/-- The homes that were sent subrequests. -/
def Fan.homesSent (f : Fan) : Nat := ((List.range 32).filter fun h => f.parts.any fun p => p.dst = h && p.sent).length

/-- The fan of the running task. -/
def myFan : Prog Fan := fun r => (.ok (r.s.fan r.id), r)

/-- An answer to a subrequest: a report or a refusal; an answer to a part that is missing already is discarded. -/
def State.fanAnswer (s : State) (src tag : Nat) (a : Except Status Report) : State :=
  match s.eng.fans.find? fun e => e.2.parts.any fun p => p.dst = src ∧ p.tag = tag with
  | none => s
  | some (id, f) =>
    let i := f.parts.findIdx fun p => p.dst = src ∧ p.tag = tag
    match f.parts[i]? with
    | none => s
    | some p =>
      let f' : Fan :=
        if p.answered then { f with parts := f.parts.set i { p with late := true } }
        else
          let p' : FanPart := match a with
            | .ok (.missing st) => { p with missing := some st }
            | .ok r => { p with got := some r }
            | .error st => { p with missing := some st }
          { f with parts := f.parts.set i { p' with late := true }, order := f.order ++ [i] }
      (s.setFan id f').fanNote id

/-- A subrequest given up: its task is to end, or a CANCEL goes out (R348, R350). -/
def State.cancelPart (s : State) (ctx : Nat) (p : FanPart) : State :=
  match p.local_ with
  | some k =>
    match SMap.find s.tasks k with
    | some t => { s with tasks := SMap.put s.tasks k { t with kill := some .aborted } }
    | none => s
  | none =>
    let m : Msg := { hdr := s.header false s.rack p.dst ctx s.epoch 0 p.tag,
                     body := .cancel (BitVec.ofNat 32 p.tag), bad := false }
    (s.sendPeer p.dst m).1

/-- Every subrequest of a task that is still unanswered is cancelled. -/
def State.cancelFan (s : State) (id : Nat) : State :=
  match SMap.find s.eng.fans id with
  | none => s
  | some f => (f.parts.filter fun p => !p.answered).foldl (fun s p => s.cancelPart (s.task id).ctx p) s

/-- The parts still unanswered are missing with a status, and cancelled (R348). -/
def State.giveUpFan (s : State) (id : Nat) (st : Status) : State :=
  match SMap.find s.eng.fans id with
  | none => s
  | some f =>
    ((s.cancelFan id).setFan id
      { f with parts := f.parts.map fun p => if p.answered then p else { p with missing := some st } }).fanNote id

/-- A fan is kept while it holds a drain count and some part's home has not answered (R404); others go with their task. -/
def State.dropFan (s : State) (id : Nat) : State :=
  match SMap.find s.eng.fans id with
  | none => s
  | some f =>
    if f.drain.isSome ∧ !(f.parts.all fun p => p.late || !p.sent) then s.setFan id { f with ended := true }
    else
      match f.drain with
      | none => { s with eng := { s.eng with fans := SMap.del s.eng.fans id } }
      | some k => { s with eng := { s.eng with
          fans := SMap.del s.eng.fans id,
          drain := SMap.set s.eng.drain k (SMap.get s.eng.drain k 0 - 1) 0 } }

/-! ## At the home -/

/-- Whether the home accepts a map epoch at all: its own, the one before or the one after (R110). -/
def State.epochKnown (s : State) (epoch : Nat) : Bool :=
  [s.epoch, s.epoch + 1, s.epoch + 2 ^ 16 - 1].any fun e => e % 2 ^ 16 = epoch

/-- Checks 0 to 6 of R46 on a subrequest: every page that it names, in ascending address order, then the meter on the message
itself (R443, R445). One that names no range is checked for its context, its source and its epoch. -/
def admitted (m : Msg) (ranges : List (Nat × Nat)) (write : Bool) : Prog Unit := do
  let src : ReqSrc := .peer m.hdr.src.toFin
  let c ← act .meter fun id s =>
    let ctx := m.hdr.ctx.toNat
    let st :=
      if ranges.isEmpty then
        firstBad [s.sourceCheck src ctx, if s.epochKnown m.hdr.epoch.toNat then .ok else .staleMap]
      else
        let ps := sortPairs (ranges.flatMap fun (a, n) => cut 4096 (a % 2 ^ 50) (max n 1))
        match s.pagesCheck src ctx m.hdr.epoch.toNat ps write with
        | .ok _ => .ok
        | .error st => st
    if st ≠ .ok then s.deliver id { st := st }
    else
      match s.meterCheck m.hdr.ctx.toNat (.task id false false) 64 with
      | (s, .pass _) => s.deliver id {}
      | (s, .refuse) => s.deliver id { st := .rate }
      | (s, .wait) => s
  if c.st ≠ .ok then fail c.st

/-- A write of this module's own tables under context 0x0000 (log 89; R374, R406): bytes of one line. -/
def ownWrite (a : Nat) (d : List Byte) : Prog Ans := do
  let w ← look fun s => s.whither a
  if w ≠ 1 then pure { st := .tierErr }
  else
    match ← homeRequest 0 a d.length .write false false with
    | .error st => pure { st := st }
    | .ok l => lineAccess l (.write (rangeMask (a % 64) d.length) (List.replicate (a % 64) 0 ++ d)) 0 d.length true

/-- An engine's own access to its workspace, whose banks must all still be its (R224, R229): it waits during a handover to the
engine, and is refused once a bank is another owner's. -/
def workGate (e : Eng) (offs : List Nat) : Prog Unit := do
  let a ← act .held fun id s =>
    let gs := offs.map (s.bankGrant (asEng e))
    match gs.findSome? fun g => match g with | some .ok | none => none | some st => some st with
    | some st => s.deliver id { st := st }
    | none =>
      if gs.any Option.isNone then s
      else (offs.foldl (fun s o => s.bankGranted (bankOf o) e.key) s).deliver id {}
  let _ ← ok a
  pure ()

/-- Statuses that skip an item or a row, not the work (R347, R368, R400). -/
def mediumFailure (st : Status) : Bool := st = .poison || st = .tierErr || st = .timeout

/-- The engines of a kind that serve a context's subrequests: none present, or none of its world, refuses (R336, R477). -/
def needUnit (k : EngKind) (ctx : Nat) : Prog Unit := do
  let n ← look fun s => (s.presentOf k).length
  need (n ≠ 0) .unsupported
  let w ← look fun s => ((s.presentOf k).filter fun e => s.worldOk e ctx).length
  need (w ≠ 0) .prot

end Sys2Proof.Machine
end

