-- ==== Sys2Proof/Machine/Attn.lean ====
section
/-! DEFINITION. Near-memory attention (11): cache pages, appending and sealing, the fold of a page, partial records and
their merge, the coordinator, coverage. -/

namespace Sys2Proof.Machine

/-! ## Cache pages (R318 to R322) -/

/-- Element formats of keys and values by CFMT (R318), as the element codes of 10. -/
def keyFmt (c : Nat) : Nat := [0, 1, 12, 13, 9, 14].getD c 14
def valFmt (c : Nat) : Nat := [0, 1, 12, 9, 9, 14].getD c 14

/-- D of a DCODE, and whether CFMT and DCODE are valid together (R318). -/
def dims (dcode : Nat) : Nat := 64 * 2 ^ dcode
def cfmtOk (c dcode : Nat) : Bool := decide (c ≤ 5) && decide (dcode ≤ 2) && (dcode ≠ 0 || (c ≠ 3 && c ≠ 4))

/-- The row limit of a CFMT. -/
def rowLimit (c : Nat) : Nat := if c = 3 ∨ c = 4 then 8 else 16

/-- Bytes of the areas K, KS, V, VS of a sealed page (R319); SUM has 4D. -/
def kArea (c d : Nat) : Nat := 8 * d * elemWidth (keyFmt c)
def ksArea (c d : Nat) : Nat := if isRs (keyFmt c) then 256 else if isMx (keyFmt c) then 2 * d else 0
def vArea (c d : Nat) : Nat := 8 * d * elemWidth (valFmt c)
def vsArea (c d : Nat) : Nat := if isRs (valFmt c) then 4 * d else if isMx (valFmt c) then 2 * d else 0
def sealedBytes (c d : Nat) : Nat := kArea c d + ksArea c d + vArea c d + vsArea c d + 4 * d

/-- Bytes of a tail page (R321). -/
def tailBytes (d : Nat) : Nat := 256 * d

/-- A page's translation keeps R322: alignment, one leaf, one granule of one set of this rack, no host memory. -/
def State.pageFits (s : State) (t : Target) (len left : Nat) : Bool :=
  match t with
  | .host .. => false
  | .store a =>
    decide (a % 256 = 0) && decide (len ≤ left) && decide (a / 2 ^ 50 = s.rack) &&
    (match findSet s.tier.cur (a % 2 ^ 50) with
     | none => false
     | some (_, i) => decide (a % 2 ^ 50 / 2 ^ i.gran = (a % 2 ^ 50 + len - 1) / 2 ^ i.gran))

/-- A page named by a virtual address: its store address (R322, R326, R334). -/
def pageAt (e : Eng) (va len : Nat) (acc : AccessKind) : Prog Nat := do
  need (isVa va) .invalid
  let (t, left) ← translateLeaf e va acc
  let fits ← look fun s => (s.pageFits t len left).toNat
  need (fits = 1) .invalid
  match t with
  | .store a => pure a
  | .host .. => fail .invalid

/-! ## Directed rounding of summaries (R320) -/

/-- Less than, on numbers. -/
def Fv.lt (a b : Fv) : Bool :=
  match a, b with
  | .nan, _ | _, .nan => false
  | .inf x, .inf y => x && !y
  | .inf x, _ => x
  | _, .inf y => !y
  | a, b => match a.add b.neg with | .fin n m _ => n && decide (m ≠ 0) | _ => false

/-- The BF16 code next below or next above a code. -/
def bfStep (up : Bool) (c : Nat) : Nat :=
  let neg := bit c 15
  let m := c % 2 ^ 15
  if m = 0 then (if up then 1 else 0x8001)
  else if neg = up then c - 1 else c + 1

/-- The BF16 code nearest a number from below (`up` false) or from above. -/
def bfBound (up : Bool) (v : Fv) : Nat :=
  let c := (Fmt.bf16.conv false v).1
  let r := Fmt.bf16.dec c
  if (if up then r.lt v else v.lt r) then bfStep up c else c

/-- LO and HI of a dimension (R320); with a NaN among the values each is a free value. -/
def sumEntry (vals : List Fv) (seed : Nat) : Nat × Nat :=
  if vals.any Fv.isNan then (Config.freeNat seed % 2 ^ 16, Config.freeNat (seed + 1) % 2 ^ 16)
  else
    let least := vals.foldl (fun a v => if v.lt a then v else a) (vals.headD (.fin false 0 0))
    let most := vals.foldl (fun a v => if a.lt v then v else a) (vals.headD (.fin false 0 0))
    (bfBound false least, bfBound true most)

/-! ## KV_APPEND (R323 to R328) -/

def kvNt (b : List Byte) : Nat := bits (dOp b 3) 47 32
def kvNkv (b : List Byte) : Nat := bits (dOp b 3) 63 48
def kvPos (b : List Byte) : Nat := bits (dOp b 3) 31 0
def kvCfmt (b : List Byte) : Nat := bits (dOp b 4) 2 0
def kvF32 (b : List Byte) : Bool := bit (dOp b 4) 3
def kvDcode (b : List Byte) : Nat := bits (dOp b 4) 5 4

/-- R323. -/
def kvOperandsOk (b : List Byte) : Bool :=
  dSubop b = 0 && isVa (dOp b 0) && isVa (dOp b 1) && isVa (dOp b 2) && cfmtOk (kvCfmt b) (kvDcode b) &&
  decide (1 ≤ kvNt b) && decide (kvNt b ≤ 64) && decide (1 ≤ kvNkv b) && decide (kvNkv b ≤ 64) &&
  decide (kvPos b + kvNt b ≤ 16777216) && bits (dOp b 4) 63 6 = 0 && dOp b 5 = 0

/-- Input elements as BF16 codes, with flags (R287, R324). -/
def toBf (wide : Bool) (d : List Byte) : List Nat × Nat :=
  if wide then
    let r := (unpack 32 (d.length / 4) d).map fun x => Fmt.bf16.conv false (f32 x)
    (r.map (·.1), r.foldl (fun a x => a ||| x.2) 0)
  else (unpack 16 (d.length / 2) d, 0)

/-- A row of BF16 codes in an element format: elements, scale bytes, flags (R325). -/
def sealRow (c : Nat) (row : List Nat) : List Byte × List Byte × Nat :=
  if c = 14 then (pack 16 row, [], 0) else encodeLanes c true (row.map ofBf16)

/-- The decoded values of a row as it is stored (R320). -/
def rowVals (c n : Nat) (d sc : List Byte) : List Fv := decodeVec c (unpack (elemWidth c) n d) sc

/-- The bytes of a sealed page from a tail page, with flags (R319, R325); 2D free values for R320. -/
def sealPage (c d : Nat) (tail : List Byte) (seed : Nat) : List Byte × Nat :=
  let ks := (List.range 64).map fun t => sealRow (keyFmt c) (unpack 16 d ((tail.drop (2 * d * t)).take (2 * d)))
  let vs := (List.range d).map fun r => sealRow (valFmt c) (unpack 16 64 ((tail.drop (128 * d + 128 * r)).take 128))
  let dec := ks.map fun k => rowVals (keyFmt c) d k.1 k.2.1
  let sum := (List.range d).flatMap fun i =>
    let (lo, hi) := sumEntry (dec.map fun v => v.getD i .nan) (seed + 2 * i)
    natLE 2 lo ++ natLE 2 hi
  (ks.flatMap (·.1) ++ ks.flatMap (·.2.1) ++ vs.flatMap (·.1) ++ vs.flatMap (·.2.1) ++ sum,
   (ks ++ vs).foldl (fun a x => a ||| x.2.2) 0)

/-- One token of one head (R324 to R326). -/
def kvToken (e : Eng) (b : List Byte) (i h : Nat) : Prog Unit := do
  let d := dims (kvDcode b)
  let w := if kvF32 b then 4 else 2
  let p := kvPos b + i
  let slot := p % 64
  let src ← readDirect e (dOp b 0 + (i * kvNkv b + h) * (2 * d * w)) (2 * d * w)
  let (codes, fl) := toBf (kvF32 b) src
  effect fun s => s.kFlags e.idx.val fl
  let tail := leNat (← readDirect e (dOp b 1 + 8 * h) 8)
  let _ ← pageAt e tail (tailBytes d) .write
  writeV e (tail + 2 * d * slot) (pack 16 (codes.take d)) i false
  each (fun r => writeV e (tail + 128 * d + 128 * r + 2 * slot) (natLE 2 (codes.getD (d + r) 0)) i false) (List.range d)
  if slot = 63 then do
    let page := leNat (← readDirect e (dOp b 2 + 8 * h) 8)
    let _ ← pageAt e page (sealedBytes (kvCfmt b) d) .write
    let t ← readV e tail (tailBytes d) true false false
    let seed ← freeN (2 * d)
    let (bytes, fl) := sealPage (kvCfmt b) d t seed
    effect fun s => s.kFlags e.idx.val fl
    writeV e page bytes i false

/-- The pages that an append names lie in this rack (R19): its lists are looked at ahead (log 101). -/
def kvRackOk (e : Eng) (b : List Byte) : Prog Unit := do
  let d := dims (kvDcode b)
  let nkv := kvNkv b
  let seals := (List.range (kvNt b)).any fun i => (kvPos b + i) % 64 = 63
  let lists := (dOp b 1, tailBytes d) :: (if seals then [(dOp b 2, sealedBytes (kvCfmt b) d)] else [])
  rackOk e ((dOp b 0, kvNt b * nkv * (2 * d * (if kvF32 b then 4 else 2))) :: lists.map fun l => (l.1, 8 * nkv))
  each (fun (a, n) => each (fun h => do
    match ← namedPtr e (a + 8 * h) with
    | some va => rackOk e [(va, n)]
    | none => pure ()) (List.range nkv)) lists

/-- KV_APPEND on one Kettle (R323 to R327). -/
def kvAppendProg (e : Eng) (b : List Byte) : Prog Unit := do
  kvRackOk e b
  each (fun i => do
    each (kvToken e b i) (List.range (kvNkv b))
    unitsDone (i + 1)
    if (kvPos b + i) % 64 = 63 then progress fun c => { c with result := (kvPos b + i) / 64 + 1 }) (List.range (kvNt b))

/-! ## Partial records (R335, R337, R338) -/

/-- A head block in numbers: (m, l, o) and u. -/
abbrev ABlock := Partial × Nat

/-- A block with nothing folded (R335). -/
def emptyBlock (d : Nat) : ABlock := ((negInf32, 0, List.replicate d 0), 0)

def HeadBlock.nums (h : HeadBlock) : ABlock := ((h.m.toNat, h.l.toNat, h.o.map BitVec.toNat), h.u.toNat)
def ABlock.block (b : ABlock) : HeadBlock :=
  ⟨BitVec.ofNat 32 b.1.1, BitVec.ofNat 32 b.1.2.1, BitVec.ofNat 32 b.2, b.1.2.2.map (BitVec.ofNat 32)⟩

/-- The merge of two blocks (R291, R337); two free values from a seed on. -/
def mergeBlock (p q : ABlock) (seed : Nat) : ABlock :=
  if p.1.1 = negInf32 then q
  else if q.1.1 = negInf32 then p
  else
    let m := max32 p.1.1 q.1.1
    (lseMerge p.1 q.1 seed,
     fma32 (exp2_32 (sub32 p.1.1 m) seed) p.2 (mul32 (exp2_32 (sub32 q.1.1 m) (seed + 1)) q.2))

/-- The merge of two lists of blocks. -/
def mergeBlocks (l r : List ABlock) (seed : Nat) : List ABlock :=
  ((l.zip r).zipIdx).map fun (x, i) => mergeBlock x.1 x.2 (seed + 2 * i)

/-- A record under way: blocks, pages covered, pages skipped, SKIPPED. -/
structure ARec where
  blocks : List ABlock
  pages : Nat := 0
  nskip : Nat := 0
  skipped : Bool := false

/-- The flags of a merge of two blocks with its result (R292). -/
def mergeFlags (p q r : ABlock) : Nat :=
  lseFlags p.1 q.1 r.1 ||| inFlags [p.2, q.2] |||
  (if p.1.1 = negInf32 ∨ q.1.1 = negInf32 then 0 else ovfOf [p.1.1, q.1.1, p.2, q.2] r.2)

/-- Two records merged on an engine's Blend unit (R292, R337). -/
def ARec.merge (e : Eng) (a b : ARec) : Prog ARec := do
  let seed ← freeN (2 * a.blocks.length)
  let bs := mergeBlocks a.blocks b.blocks seed
  effect fun s => s.kFlags e.idx.val
    (((a.blocks.zip b.blocks).zip bs).foldl (fun f x => f ||| mergeFlags x.1.1 x.1.2 x.2) 0)
  pure ⟨bs, a.pages + b.pages, a.nskip + b.nskip, a.skipped || b.skipped⟩

def ARec.rec_ (dcode : Nat) (r : ARec) : PartialRec :=
  ⟨dcode, r.skipped, r.pages, r.nskip, r.blocks.map ABlock.block⟩
def arecOf (r : PartialRec) : ARec := ⟨r.blocks.map HeadBlock.nums, r.pages, r.nskip, r.skipped⟩

/-- A record's bytes (11, "Partial records and merging"). -/
def recBytes (dcode : Nat) (r : ARec) : List Byte :=
  fitBytes 64 (natLE 4 r.blocks.length ++ [BitVec.ofNat 8 dcode, BitVec.ofNat 8 r.skipped.toNat, 0, 0] ++
    natLE 4 r.pages ++ natLE 4 r.nskip) ++
  r.blocks.flatMap fun b =>
    fitBytes 64 (natLE 4 b.1.1 ++ natLE 4 b.1.2.1 ++ natLE 4 b.2) ++ b.1.2.2.flatMap (natLE 4)

/-- One row of output and its statistics (R338); free values for two reciprocals. -/
def outRow (wide : Bool) (b : ABlock) (seed : Nat) : List Byte × List Byte × Nat :=
  let w := if wide then 4 else 2
  if b.1.1 = negInf32 ∨ b.1.2.1 % 2 ^ 31 = 0 then
    (List.replicate (w * b.1.2.2.length) 0, natLE 4 negInf32 ++ List.replicate 12 0, 0)
  else
    let r := rcp32 b.1.2.1 seed
    let row := b.1.2.2.map fun o => mul32 o r
    let conv := row.map fun x => if wide then (x, 0) else Fmt.bf16.conv true (f32 x)
    (conv.flatMap fun x => natLE w x.1,
     natLE 4 b.1.1 ++ natLE 4 b.1.2.1 ++ natLE 4 (mul32 b.2 (rcp32 (add32 b.1.2.1 b.2) (seed + 1))) ++ natLE 4 0,
     inFlags (b.1.2.1 :: b.2 :: row) ||| conv.foldl (fun a x => a ||| x.2) 0)

/-- The outputs of a final record (R338, R339). -/
def writeOutputs (e : Eng) (out stats : Nat) (wide part : Bool) (dcode : Nat) (r : ARec) : Prog Unit := do
  if part then writeV e out (recBytes dcode r) 0 false
  else do
    let seed ← freeN (2 * r.blocks.length)
    let rows := r.blocks.zipIdx.map fun (b, i) => outRow wide b (seed + 2 * i)
    effect fun s => s.kFlags e.idx.val (rows.foldl (fun a x => a ||| x.2.2) 0)
    writeV e out (rows.flatMap (·.1)) 0 false
    if stats ≠ 0 then writeV e stats (rows.flatMap (·.2.1)) 0 false

/-! ## The fold of a page (R332, R333, R335, R342, R343) -/

/-- The token at a position is visible to query row j (R332). -/
def visible (p : AttnParams) (j pos : Nat) : Bool :=
  decide (pos < p.seqLen) && decide (pos ≤ p.qpos + j) &&
  (p.window = 0 || decide (p.qpos + j < pos + p.window) || decide (pos < p.sinks))

/-- Slots of page k visible to row j; whether the page is wholly masked; whether it is the tail. -/
def visSlots (p : AttnParams) (j k : Nat) : List Nat := (List.range 64).filter fun t => visible p j (64 * k + t)
def masked (p : AttnParams) (k : Nat) : Bool := (List.range p.nq).all fun j => (visSlots p j k).isEmpty
def isTail (p : AttnParams) (k : Nat) : Bool := decide (p.seqLen < 64 * (k + 1))

/-- Pages of a sequence. -/
def pagesOf (p : AttnParams) : Nat := (p.seqLen + 63) / 64

/-- Pages that are never skipped (R342), but for the first of a row. -/
def neverSkip (p : AttnParams) (k : Nat) : Bool :=
  isTail p k ||
  (List.range p.nq).any (fun j => (visSlots p j k).any fun t => decide (64 * k + t < p.sinks)) ||
  decide (((List.range (pagesOf p)).filter fun x => decide (k < x) && !masked p x).length < p.keepLast)

/-- The value of a dot product or weighted sum: groups of the array in turn, with flags (R282, R333). -/
def arraySum (fs g : Nat) (codes : List Nat) (scales : List Byte) (tile : List Fv) : Nat × Nat :=
  (List.range (codes.length / g)).foldl (fun (a, fl) i =>
    let sc := if isMx fs then (scales.drop (i * (g / 32))).take (g / 32) else scales
    let (r, f1) := groupOf fs ((codes.drop (i * g)).take g) sc ((tile.drop (i * g)).take g)
    let (a', f2) := accAdd a r
    (a', fl ||| f1 ||| f2)) (0, 0)

/-- A vector cast for the array: its numbers and flags (R287, R333). -/
def castTile (wide : Bool) (l : List Nat) : List Fv × Nat :=
  let f : Fmt := if wide then .bf16 else .e4m3
  let r := l.map fun x => f.conv (!wide) (f32 x)
  (r.map fun c => f.dec c.1, r.foldl (fun a c => a ||| c.2) 0)

/-- The score of a dot product under scale and soft-cap (R333); two free values. -/
def scoreOf (p : AttnParams) (dot seed : Nat) : Nat :=
  let z := mul32 p.qscale.toNat dot
  let cap := p.cap.toNat
  let z := if lt32 0 cap then mul32 cap (tanh32 (mul32 z (rcp32 cap seed)) (seed + 1)) else z
  mul32 z 0x3FB8AA3B

/-- The query vector of a head block. -/
def queryVec (p : AttnParams) (qs : List Nat) (b : Nat) : List Nat :=
  (qs.drop (b * dims p.dcode)).take (dims p.dcode)

/-- Rows of a key-value head: query row j and head block number. -/
def rowsOf (p : AttnParams) (kv : Nat) : List (Nat × Nat) :=
  (List.range p.nq).flatMap fun j => (List.range p.hg).map fun g => (j, j * (p.nkv * p.hg) + kv * p.hg + g)

/-- Element formats of a page's keys and values: a tail's are BF16 (R321). -/
def pageKf (p : AttnParams) (k : Nat) : Nat := if isTail p k then 14 else keyFmt p.cfmt
def pageVf (p : AttnParams) (k : Nat) : Nat := if isTail p k then 14 else valFmt p.cfmt

/-- Scale bytes of row or slot i in a scale area whose vectors have n elements. -/
def scalesAt (f n i : Nat) (sc : List Byte) : List Byte :=
  if isRs f then (sc.drop (4 * i)).take 4 else if isMx f then (sc.drop (n / 32 * i)).take (n / 32) else []

/-- Codes of vector i of n elements in an area. -/
def codesAt (f n i : Nat) (d : List Byte) : List Nat :=
  unpack (elemWidth f) n ((d.drop (n * elemWidth f / 8 * i)).take (n * elemWidth f / 8))

/-- The scores of a row against every slot, with flags. -/
def rowScores (p : AttnParams) (kf : Nat) (q : List Nat) (k ks : List Byte) (seed : Nat) : List Nat × Nat :=
  let d := dims p.dcode
  let (tile, f0) := castTile p.qprec q
  let g := groupLen kf (if p.qprec then 14 else 0)
  let r := (List.range 64).map fun t => arraySum kf g (codesAt kf d t k) (scalesAt kf d t ks) tile
  (r.zipIdx.map fun (x, t) => scoreOf p x.1 (seed + 2 * t), r.foldl (fun a x => a ||| x.2) f0)

/-- The weighted sum of a dimension over the tokens (R319, R333). -/
def rowValues (vf dim : Nat) (wide : Bool) (tile : List Fv) (v vs : List Byte) : Nat × Nat :=
  let g := groupLen vf (if wide then 14 else 0)
  let zero : Fv := .fin false 0 0
  if g = 128 then
    let j := dim / 2
    let pad := List.replicate 64 zero
    arraySum vf 128 (codesAt vf 64 (2 * j) v ++ codesAt vf 64 (2 * j + 1) v)
      (scalesAt vf 64 (2 * j) vs ++ scalesAt vf 64 (2 * j + 1) vs) (if dim % 2 = 0 then tile ++ pad else pad ++ tile)
  else arraySum vf g (codesAt vf 64 dim v) (scalesAt vf 64 dim vs) tile

/-- The groups that the arrays take of a page for its query rows, which are all stationary at once (R278, R292, R333; log 103). -/
def foldGroups (p : AttnParams) (k : Nat) : Nat :=
  let d := dims p.dcode
  64 * (d / groupLen (pageKf p k) (if p.qprec then 14 else 0)) +
  d * (max 1 (64 / groupLen (pageVf p k) (if p.pprec then 14 else 0)))

/-- One row's fold of a page (R335), with flags; 256 free values from a seed on. -/
def foldRow (p : AttnParams) (k j : Nat) (q : List Nat) (b : ABlock) (areas : List (List Byte)) (seed : Nat) : ABlock × Nat :=
  let kf := pageKf p k
  let vf := pageVf p k
  let area := fun (i : Nat) => areas.getD i []
  let (sc, f1) := rowScores p kf q (area 0) (area 1) seed
  let vis := visSlots p j k
  let mp := vis.foldl (fun a t => max32 a (sc.getD t 0)) negInf32
  let mn := max32 b.1.1 mp
  let f1 := f1 ||| inFlags (b.1.1 :: b.1.2.1 :: b.2 :: (b.1.2.2 ++ sc))
  if mn = negInf32 then (b, f1)
  else
    let a := exp2_32 (sub32 b.1.1 mn) (seed + 128)
    let ps := (List.range 64).map fun t => if vis.contains t then exp2_32 (sub32 (sc.getD t 0) mn) (seed + 129 + t) else 0
    let (tile, f2) := castTile p.pprec ps
    let os := (List.range b.1.2.2.length).map fun d => rowValues vf d p.pprec tile (area 2) (area 3)
    let l := fma32 a b.1.2.1 (treeSum 6 ps)
    let o := List.zipWith (fun o x => fma32 a o x.1) b.1.2.2 os
    ((( mn, l, o), mul32 a b.2),
     os.foldl (fun a x => a ||| x.2) (f1 ||| f2) ||| ovfOf [b.1.2.1] l ||| ovfOf [b.2] (mul32 a b.2) |||
     inFlags (os.map (·.1)) ||| outFlags (List.zipWith (fun x y => [x, y.1]) b.1.2.2 os) o)

/-- A page folded into every row of its head, with flags. -/
def foldPage (p : AttnParams) (qs : List Nat) (kv k : Nat) (areas : List (List Byte)) (seed : Nat) (bs : List ABlock) :
    List ABlock × Nat :=
  (rowsOf p kv).zipIdx.foldl (fun (bs, fl) ((j, b), i) =>
    let (x, f) := foldRow p k j (queryVec p qs b) (bs.getD b (emptyBlock 0)) areas (seed + 256 * i)
    (bs.set b x, fl ||| f)) (bs, 0)

/-- The sum of lanes: a tree over each 64, then register by register (R290). -/
def laneSum (l : List Nat) : Nat :=
  match (chunks 64 l.length l).map (treeSum 6) with
  | [] => 0
  | x :: xs => xs.foldl add32 x

/-- The magnitude of an FP32 number. -/
def abs32 (w : Nat) : Nat := w % 2 ^ 31

/-- The upper score of a row from a page's summary (R343). -/
def upperScore (p : AttnParams) (q : List Nat) (sum : List Byte) (seed : Nat) : Nat :=
  let qc := (castTile p.qprec q).1.map Fv.to32
  let lo := (List.range q.length).map fun d => ofBf16 (fieldLE sum (4 * d) 2)
  let hi := (List.range q.length).map fun d => ofBf16 (fieldLE sum (4 * d + 2) 2)
  let up := laneSum (List.zipWith (fun x (y : Nat × Nat) => max32 (mul32 x y.1) (mul32 x y.2)) qc (lo.zip hi))
  let err := laneSum (List.zipWith (fun x (y : Nat × Nat) => mul32 (abs32 x) (max32 (abs32 y.1) (abs32 y.2))) qc (lo.zip hi))
  let z := add32 (mul32 p.qscale.toNat up) (mul32 (mul32 p.qscale.toNat 0x35800000) err)
  let cap := p.cap.toNat
  let z := if lt32 0 cap then mul32 cap (tanh32 (mul32 z (rcp32 cap seed)) (seed + 1)) else z
  mul32 z 0x3FB8AA3B

/-- The rows after a page is skipped, or none when it has to be folded (R342, R343). -/
def skipPage (p : AttnParams) (qs : List Nat) (kv k : Nat) (sum : List Byte) (seed : Nat) (bs : List ABlock) :
    Option (List ABlock) :=
  let rows := (rowsOf p kv).zipIdx.filterMap fun ((j, b), i) =>
    let n := (visSlots p j k).length
    if n = 0 then none
    else some (b, n, upperScore p (queryVec p qs b) sum (seed + 256 * i), seed + 256 * i + 2)
  if rows.all fun (b, _, shat, _) =>
      let m := (bs.getD b (emptyBlock 0)).1.1
      decide (m ≠ negInf32) && lt32 shat (sub32 m p.thresh.toNat) then
    some (rows.foldl (fun bs (b, n, shat, sd) =>
      let x := bs.getD b (emptyBlock 0)
      bs.set b (x.1, fma32 (round32 false n 1 0) (exp2_32 (sub32 shat x.1.1) sd) x.2)) bs)
  else none

/-! ## Pages at their home (R335, R336, R346, R347) -/

/-- A read of one area of a page by store address: its bytes or the status it met. -/
def areaRead (a len : Nat) (keep : Bool) : Prog (Except Status (List Byte)) := do
  let r ← attempt (readS a len keep)
  match r with
  | .ok d => pure (.ok d)
  | .error (st, _, _) => pure (.error st)

/-- The areas K, KS, V, VS of a page. -/
def pageAreas (p : AttnParams) (k a : Nat) (keep : Bool) : Prog (Except Status (List (List Byte))) := do
  let d := dims p.dcode
  let parts := if isTail p k then [(0, 128 * d), (0, 0), (128 * d, 128 * d), (0, 0)]
    else
      let c := p.cfmt
      [(0, kArea c d), (kArea c d, ksArea c d), (kArea c d + ksArea c d, vArea c d),
       (kArea c d + ksArea c d + vArea c d, vsArea c d)]
  let l ← collect (fun (o, n) => areaRead (a + o) n keep) parts
  match l.findSome? fun x => match x with | .error st => some st | .ok _ => none with
  | some st => pure (.error st)
  | none => pure (.ok (l.map fun x => match x with | .ok b => b | .error _ => []))

/-- Statuses that fail one page (R347); any other is the home's. -/
def pageFailure (st : Status) : Bool := st = .poison || st = .tierErr || st = .timeout || st = .revoked

/-- What folding a list of pages has given: the batches done, the batch under way, the failed pages. -/
structure AFold where
  done_ : ARec
  cur : ARec
  failed : List (Nat × Nat × Status) := []

/-- The flags of a summary's bounds as they enter the Blend unit. -/
def sumFlags (sum : List Byte) : Nat := inFlags ((unpack 16 (sum.length / 2) sum).map ofBf16)

/-- KTL_ERR of a batch that ends at a failed page (R314, R347): the built-in program's PC and the TAG are free (log 106). -/
def State.batchErr (s : State) (n : Nat) (st : Status) : State :=
  { s with free := s.free + 2 }.setReg (Reg.KTL_ERR n)
    (Config.freeNat s.free % 512 + st.code * 2 ^ 16 + 9 * 2 ^ 24 + Config.freeNat (s.free + 1) % 2 ^ 32 * 2 ^ 32)

/-- One page of a batch on a Kettle. -/
def attnPage (e : Eng) (p : AttnParams) (qs : List Nat) (keep : Bool) (f : AFold) (g : AttnPage) : Prog AFold := do
  let d := dims p.dcode
  let seed ← freeN (256 * (p.nq * p.hg))
  let bad := fun (st : Status) => do
    need (pageFailure st) st
    effect fun s => s.batchErr e.idx.val st
    let m ← f.done_.merge e f.cur
    pure ({ f with done_ := m, cur := ⟨f.cur.blocks.map fun _ => emptyBlock d, 0, 0, false⟩,
                   failed := f.failed ++ [(g.kv, g.k, st)] } : AFold)
  let skip ← if p.bounded && !neverSkip p g.k then do
      match ← areaRead (g.addr + sealedBytes p.cfmt d - 4 * d) (4 * d) keep with
      | .error st => pure (Except.error st)
      | .ok sum => do
        effect fun s => s.kFlags e.idx.val (sumFlags sum)
        pure (Except.ok (skipPage p qs g.kv g.k sum seed f.cur.blocks))
    else pure (Except.ok none)
  match skip with
  | .error st => bad st
  | .ok (some bs) => pure { f with cur := ⟨bs, f.cur.pages + 1, f.cur.nskip + 1, true⟩ }
  | .ok none =>
    match ← pageAreas p g.k g.addr keep with
    | .error st => bad st
    | .ok areas =>
      let seed2 ← freeN (256 * (p.nq * p.hg))
      let (bs, fl) := foldPage p qs g.kv g.k areas seed2 f.cur.blocks
      effect fun s => s.kGroups e.idx.val (foldGroups p g.k) fl
      pure { f with cur := ⟨bs, f.cur.pages + 1, f.cur.nskip, f.cur.skipped⟩ }

/-- Pages folded in turn. -/
def attnPages (e : Eng) (p : AttnParams) (qs : List Nat) (keep : Bool) : AFold → List AttnPage → Prog AFold
  | f, [] => pure f
  | f, g :: gs => do
    let f' ← attnPage e p qs keep f g
    attnPages e p qs keep f' gs

/-- The pages of a request at one home, folded on one Kettle in the order of R335: their record and failed pages. -/
def attnFold (e : Eng) (p : AttnParams) (qs : List Nat) (pages : List AttnPage) (keep : Bool) :
    Prog (ARec × List (Nat × Nat × Status)) := do
  let none_ : ARec := ⟨List.replicate (p.nq * p.nkv * p.hg) (emptyBlock (dims p.dcode)), 0, 0, false⟩
  let order := if p.bounded then pages.filter (fun g => neverSkip p g.k) ++ pages.filter (fun g => !neverSkip p g.k)
    else pages
  let f ← attnPages e p qs keep ⟨none_, none_, []⟩ order
  let r ← f.done_.merge e f.cur
  pure (r, f.failed)

/-- Kettles that may take built-in work of a context: those that are idle, else any, at which it then waits (R296, R336, R477). -/
def State.builtinKettles (s : State) (ctx : Nat) : List Eng :=
  let es := (s.presentOf .kettle).filter fun e => s.worldOk e ctx && !s.isContained e.part
  let idle := es.filter fun e => s.kettleIdle e.idx.val
  if idle.isEmpty then es else idle

/-- A Kettle taken for the running task's part of a request: it waits there behind the work that arrived before (R296, R317). -/
def claimKettle (ctx : Nat) (bounded : Bool) : Prog Eng := do
  let a ← act .held fun id s =>
    let es := s.builtinKettles ctx
    let (c, s') := s.choose es.length
    match es[c]? with
    | none => s
    | some e => s'.deliver id { val := e.idx.val }
  enterKettle a.val (if bounded then 2 else 1)
  pure ⟨.kettle, Fin.ofNat 32 a.val⟩

/-- Kettles that a task has taken are free again, and it waits at none: what waits there looks again (R296). -/
def State.freeKettles (s : State) (id : Nat) : State :=
  if (s.eng.kettles.all fun k => k.2.task ≠ some id) && !s.atKettle id then s
  else
    { s with
      eng := { s.eng with
        kettles := s.eng.kettles.filter fun k => k.2.task ≠ some id,
        kqueue := (SMap.mapv s.eng.kqueue fun _ l => l.filter (· ≠ id)).filter fun e => !e.2.isEmpty },
      tasks := s.tasks.mapv fun k t => if t.wait = .held ∧ s.atKettle k then { t with wait := .ready } else t }

/-- A Kettle taken by `claimKettle` is free again; the task acts through its first engine. -/
def releaseKettle (e : Eng) : Prog Unit := do
  let _ ← act .ready fun id s => ((s.setTask id { (s.task id) with eng := some e }).freeKettles id).deliver id {}
  pure ()

/-- Bytes of a page's areas. -/
def pageLen (p : AttnParams) (k : Nat) : Nat :=
  if isTail p k then tailBytes (dims p.dcode) else sealedBytes p.cfmt (dims p.dcode)

/-- A subrequest of an attention request at its home: one batch (R335, R347). -/
def attnHome (m : Msg) (p : AttnParams) (queries : List (BitVec 32)) (pages : List AttnPage) : Prog Report := do
  admitted m (pages.map fun g => (g.addr, pageLen p g.k)) false
  needUnit .kettle m.hdr.ctx.toNat
  let e ← claimKettle m.hdr.ctx.toNat p.bounded
  let (r, failed) ← attnFold e p (queries.map BitVec.toNat) pages true
  match failed with
  | (_, _, st) :: _ =>
    if failed.length > 8 then pure (.missing st) else pure (.attn (r.rec_ p.dcode) failed)
  | [] => pure (.attn (r.rec_ p.dcode) [])

/-! ## The coordinator (R329 to R340, R345 to R349) -/

/-- R329. -/
def attnOperandsOk (b : List Byte) : Bool :=
  dEng b = 0xFF && decide (dSubop b ≤ 1) && isVa (dOp b 0) && decide (dOp b 0 % 64 = 0) && dOp b 0 ≠ 0 && isVa (dOp b 1) &&
  isVa (dOp b 2) && isVa (dOp b 3) && decide (dOp b 3 % 64 = 0) && dOp b 3 ≠ 0 && dOp b 4 = 0 && dOp b 5 = 0

/-- The parameters of a request block. -/
def attnParams (bounded : Bool) (r : List Byte) : AttnParams :=
  { bounded := bounded, qscale := BitVec.ofNat 32 (fieldLE r 32 4), cap := BitVec.ofNat 32 (fieldLE r 36 4),
    thresh := BitVec.ofNat 32 (fieldLE r 40 4), nkv := fieldLE r 44 2, hg := fieldLE r 46 1, nq := fieldLE r 47 1,
    cfmt := bits (fieldLE r 48 1) 2 0, dcode := bits (fieldLE r 49 1) 1 0, qprec := bit (fieldLE r 48 1) 4,
    pprec := bit (fieldLE r 48 1) 5, seqLen := fieldLE r 16 4, qpos := fieldLE r 20 4, window := fieldLE r 24 4,
    sinks := fieldLE r 28 4, keepLast := fieldLE r 50 1 }

/-- An FP32 code finite and greater than 0. -/
def posFinite (w : Nat) : Bool := decide (0 < w) && decide (w < 0x7F800000)

/-- R331. -/
def attnBlockOk (stats : Nat) (r : List Byte) (p : AttnParams) : Bool :=
  decide (1 ≤ p.seqLen) && decide (p.seqLen ≤ 16777216) && posFinite p.qscale.toNat &&
  (p.cap.toNat % 2 ^ 31 = 0 || posFinite p.cap.toNat) && (!p.bounded || posFinite p.thresh.toNat) &&
  decide (1 ≤ p.nkv) && decide (p.nkv ≤ 64) && decide (1 ≤ p.hg) && decide (p.hg ≤ 16) && decide (1 ≤ p.nq) &&
  decide (p.nq ≤ 16) && cfmtOk p.cfmt p.dcode && isVa (fieldLE r 0 8) && isVa (fieldLE r 8 8) &&
  bits (fieldLE r 49 1) 7 3 = 0 && fieldLE r 51 1 = 0 && fieldLE r 56 8 = 0 &&
  decide (p.hg * p.nq ≤ rowLimit p.cfmt) && decide (p.nq * p.nkv * p.hg ≤ 1024) &&
  (stats = 0 || !bit (fieldLE r 48 1) 7)

/-- A home of a request: its pages, how its subrequests went. -/
structure AHome where
  dst : Nat
  pages : List AttnPage
  missing : Option Status
  failed : List (Nat × Nat × Status)

/-- Failed pages in ascending (kv, k) order. -/
def sortFailed (l : List (Nat × Nat × Status)) : List (Nat × Nat × Status) :=
  l.mergeSort fun x y => decide (x.1 < y.1) || (decide (x.1 = y.1) && decide (x.2.1 ≤ y.2.1))

/-- How a home's parts were answered: missing when one is, or when more than 8 of its pages failed (R346, R347). -/
def homeOutcome (f : Fan) (dst : Nat) (pages : List AttnPage) : AHome :=
  let ps := f.parts.filter fun p => p.dst = dst
  let failed := ps.flatMap fun p => match p.got with | some (.attn _ l) => l | _ => []
  let miss := match ps.findSome? fun p => p.missing with
    | some st => some st
    | none => if failed.length > 8 then failed.head?.map fun x => x.2.2 else none
  ⟨dst, pages, miss, if miss.isSome then [] else sortFailed failed⟩

/-- A coverage entry (R345). -/
def covEntry (kind : Nat) (st : Status) (rack m idx kv : Nat) : List Byte :=
  [BitVec.ofNat 8 kind, BitVec.ofNat 8 st.code, BitVec.ofNat 8 rack, BitVec.ofNat 8 m] ++ natLE 4 idx ++ natLE 2 kv ++
  List.replicate 6 0

/-- The coverage list: at most 32 HOME and 256 PAGE entries (R345). -/
def covList (rack : Nat) (hs : List AHome) : List (List Byte) :=
  (hs.foldl (fun (l, n) h =>
    let ps := (h.failed.take (256 - n)).map fun (kv, k, st) => covEntry 1 st rack h.dst k kv
    (l ++ covEntry 0 (h.missing.getD .ok) rack h.dst h.pages.length 0 :: ps, n + ps.length))
    (([] : List (List Byte)), 0)).1

/-- Records merged in turn. -/
def mergeAll (e : Eng) : ARec → List ARec → Prog ARec
  | r, [] => pure r
  | r, x :: xs => do
    let y ← r.merge e x
    mergeAll e y xs

/-- ATTN_DECODE at its coordinator (R329 to R349). -/
def attnProg (e : Eng) (b : List Byte) : Prog Unit := do
  let ctx ← myCtx
  let r ← readDirect e (dOp b 0) 64
  let p := attnParams (dSubop b = 1) r
  need (attnBlockOk (dOp b 2) r p) .invalid
  let fl := fieldLE r 48 1
  let help := bit (fieldLE r 49 1) 2
  let d := dims p.dcode
  let nrows := p.nq * p.nkv * p.hg
  let raw ← readDirect e (fieldLE r 0 8) (nrows * d * (if bit fl 3 then 4 else 2))
  let qs := if bit fl 3 then unpack 32 (nrows * d) raw else (unpack 16 (nrows * d) raw).map ofBf16
  let np := pagesOf p
  let todo := (List.range p.nkv).flatMap fun kv => ((List.range np).filter fun k => !masked p k).map fun k => (kv, k)
  let locate := fun (todo : List (Nat × Nat)) => stable (collect (fun (kv, k) => do
    let va := leNat (← readDirect e (fieldLE r 8 8 + 8 * (kv * np + k)) 8)
    let a ← pageAt e va (pageLen p k) .read
    let h ← look fun s => match s.homeOf a with | some (m, _) => m | none => 0
    pure (h, (⟨kv, k, a⟩ : AttnPage))) todo)
  let ents ← locate todo
  let homes := ((List.range 32).filter fun h => ents.any fun x => x.1 = h).map fun h =>
    (h, (ents.filter fun x => x.1 = h).map (·.2))
  let queries := qs.map (BitVec.ofNat 32)
  rackOk e [(dOp b 1, if bit fl 7 then 64 + nrows * (64 + 4 * d) else nrows * d * (if bit fl 6 then 4 else 2)),
    (dOp b 2, if dOp b 2 = 0 then 0 else 16 * nrows), (dOp b 3, 16 * (homes.length + min 256 ents.length))]
  fanOut (fieldLE r 52 4) (homes.flatMap fun (h, l) =>
    (chunks 512 l.length l).map fun c => (h, c.length, Work.attn p queries c))
  let f ← myFan
  let outs := homes.map fun (h, l) => homeOutcome f h l
  let whole := outs.filter fun o => o.missing.isNone
  let recs := f.order.filterMap fun i => match f.parts[i]? with
    | some q => if whole.any fun o => o.dst = q.dst then
        (match q.got with | some (.attn x _) => some (arecOf x) | _ => none) else none
    | none => none
  -- homes that the coordinator folds itself (R336)
  let helped ← collect (fun o =>
    if help ∧ o.missing = some .unsupported then do
      let ke ← claimKettle ctx p.bounded
      let pages ← locate (o.pages.map fun g => (g.kv, g.k))
      let r ← attempt (attnFold ke p qs (pages.map (·.2)) false)
      releaseKettle e
      match r with
      | .error (st, _, _) => pure ({ o with missing := some st }, none)
      | .ok (x, failed) =>
        if failed.length > 8 then pure ({ o with missing := failed.head?.map fun x => x.2.2 }, none)
        else pure ({ o with missing := none, failed := sortFailed failed }, some x)
    else pure (o, none)) outs
  let outs := helped.map (·.1)
  let start : ARec := ⟨List.replicate nrows (emptyBlock d), 0, 0, false⟩
  let fin ← mergeAll e start (recs ++ helped.filterMap (·.2))
  let maskedPages := p.nkv * np - todo.length
  let rec_ : ARec := { fin with pages := fin.pages + maskedPages }
  let rack ← look fun s => s.rack
  let bad := outs.any fun o => o.missing.isSome || !o.failed.isEmpty
  let cov := covList rack outs
  progress fun c => { c with result := rec_.nskip + f.homesSent * 2 ^ 48, skipped := rec_.skipped }
  if 0 < rec_.pages then writeOutputs e (dOp b 1) (dOp b 2) (bit fl 6) (bit fl 7) p.dcode rec_
  if bad then do
    writeV e (dOp b 3) cov.flatten 0 false
    progress fun c => { c with coverage := true, result := c.result + cov.length * 2 ^ 32 }
  unitsDone rec_.pages
  if bad then
    if 0 < rec_.pages then fail .part
    else
      match outs.findSome? fun o => o.missing with
      | some st => fail st
      | none =>
        match outs.findSome? fun o => o.failed.head? with
        | some x => fail x.2.2
        | none => pure ()

/-! ## BLEND_MERGE (R341) -/

/-- Check 4 of R128 for BLEND_MERGE. -/
def blendOperandsOk (b : List Byte) : Bool :=
  dSubop b = 0 && isVa (dOp b 0) && isVa (dOp b 1) && isVa (dOp b 2) && decide (1 ≤ bits (dOp b 3) 31 0) &&
  decide (bits (dOp b 3) 31 0 ≤ 65536) && bits (dOp b 3) 63 34 = 0 && dOp b 4 = 0 && dOp b 5 = 0

/-- A record as read: NH, DCODE and the record; none when a zero field is not zero or a field is out of range. -/
def recHead (h : List Byte) : Option (Nat × Nat) :=
  let nh := fieldLE h 0 4
  let dc := fieldLE h 4 1
  if 1 ≤ nh ∧ nh ≤ 1024 ∧ dc ≤ 2 ∧ fieldLE h 5 1 ≤ 1 ∧ fieldLE h 6 2 = 0 ∧ leNat ((h.drop 16).take 48) = 0 then
    some (nh, dc)
  else none

/-- A record read past every steep cache. -/
def readRecord (e : Eng) (va : Nat) (like : Option (Nat × Nat)) : Prog (Nat × Nat × ARec) := do
  let h ← readDirect e va 64
  match recHead h with
  | none => fail .invalid
  | some (nh, dc) =>
    need (like.isNone || like = some (nh, dc)) .invalid
    let n := 64 + 4 * dims dc
    let bs ← collect (fun i => do
      let x ← readDirect e (va + 64 + i * n) n
      need (leNat ((x.drop 12).take 52) = 0) .invalid
      let o := unpack 32 (dims dc) (x.drop 64)
      pure (((fieldLE x 0 4, fieldLE x 4 4, o), fieldLE x 8 4) : ABlock)) (List.range nh)
    pure (nh, dc, ⟨bs, fieldLE h 8 4, fieldLE h 12 4, bit (fieldLE h 5 1) 0⟩)

/-- The records of a list merged from one on, in list order. -/
def blendLoop (e : Eng) (b : List Byte) (nh dc : Nat) : ARec → List Nat → Prog ARec
  | r, [] => pure r
  | r, i :: is => do
    let va := leNat (← readDirect e (dOp b 0 + 8 * i) 8)
    need (isVa va) .invalid
    let (_, _, x) ← readRecord e va (some (nh, dc))
    let y ← r.merge e x
    unitsDone (i + 1)
    blendLoop e b nh dc y is

/-- BLEND_MERGE (R341). -/
def blendProg (e : Eng) (b : List Byte) : Prog Unit := do
  let va := leNat (← readDirect e (dOp b 0) 8)
  need (isVa va) .invalid
  let (nh, dc, r) ← readRecord e va none
  let d := dims dc
  rackOk e [(dOp b 0, 8 * bits (dOp b 3) 31 0),
    (dOp b 1, if bit (dOp b 3) 33 then 64 + nh * (64 + 4 * d) else nh * d * (if bit (dOp b 3) 32 then 4 else 2)),
    (dOp b 2, if dOp b 2 = 0 then 0 else 16 * nh)]
  unitsDone 1
  let n := bits (dOp b 3) 31 0
  let fin ← blendLoop e b nh dc r ((List.range n).drop 1)
  writeOutputs e (dOp b 1) (dOp b 2) (bit (dOp b 3) 32) (bit (dOp b 3) 33) dc fin
  progress fun c => { c with undef := false }

end Sys2Proof.Machine
end

