-- ==== Sys2Proof/Machine/Gecko.lean ====
section
/-! DEFINITION. Gecko graph search (12): shards, distances, the walk and the scan, results and merges, inserts and
deletes under shard epochs. -/

namespace Sys2Proof.Machine

/-! ## Shards (R352 to R356) -/

/-- A shard table entry. -/
structure GShard where
  share : Bool
  metric : Nat
  vfmt : Nat
  deg : Nat
  dim : Nat
  ctx : Nat
  cap : Nat
  sepoch : Nat
  nodes : Nat
  vecs : Nat
  entries : List Nat

/-- Element codes of VFMT, and bytes of an element. -/
def gFmt (v : Nat) : Nat := [10, 0, 14, 15, 16].getD v 10
def gElem (v : Nat) : Nat := [1, 1, 2, 2, 4].getD v 1

/-- Dimensions in range. -/
def gDimOk (d : Nat) : Bool := decide (64 ≤ d) && decide (d ≤ 4096) && decide (d % 64 = 0)

/-- A shard entry's fields, if all are in range (R362). -/
def gShard (rack : Nat) (b : List Byte) : Option GShard :=
  let b0 := fieldLE b 0 1
  let n := bits (fieldLE b 6 1) 3 0
  let es := (List.range 8).map fun j => fieldLE b (32 + 4 * j) 4
  let cap := fieldLE b 8 4
  let areaOk := fun (a : Nat) => decide (a % 4096 = 0) && decide (a < 2 ^ 56) && decide (a / 2 ^ 50 = rack)
  if bit b0 0 ∧ bits b0 3 2 ≠ 3 ∧ bits b0 6 4 ≤ 4 ∧ !bit b0 7 ∧ bits (fieldLE b 1 1) 7 2 = 0 ∧ gDimOk (fieldLE b 2 2) ∧
      1 ≤ n ∧ n ≤ 8 ∧ bits (fieldLE b 6 1) 7 4 = 0 ∧ fieldLE b 7 1 = 0 ∧ 1 ≤ cap ∧ cap ≤ 16777216 ∧
      areaOk (fieldLE b 16 8) ∧ areaOk (fieldLE b 24 8) ∧ (es.take n).all (fun x => decide (x < cap)) ∧
      (es.drop n).all (fun x => x = 0) then
    some { share := bit b0 1, metric := bits b0 3 2, vfmt := bits b0 6 4, deg := 16 * (bits (fieldLE b 1 1) 1 0 + 1),
           dim := fieldLE b 2 2, ctx := fieldLE b 4 2, cap := cap, sepoch := fieldLE b 12 4, nodes := fieldLE b 16 8,
           vecs := fieldLE b 24 8, entries := es.take n }
  else none

/-- Bytes of a vector and of a node; where they lie. -/
def GShard.stride (g : GShard) : Nat := g.dim * gElem g.vfmt
def GShard.nodeAt (g : GShard) (y : Nat) : Nat := g.nodes + y * (64 + 4 * g.deg)
def GShard.vecAt (g : GShard) (y : Nat) : Nat := g.vecs + y * g.stride

/-- The store address of a shard's entry. -/
def State.shardAt (s : State) (k : Nat) : Nat := s.fld Reg.GKO_STAB Reg.GKO_STAB_BASE * 2 ^ 18 + 64 * k

/-- A shard's entry read whole as one line, checked against a request's context (R356, R362). -/
def shardEntry (k ctx : Nat) : Prog GShard := do
  let en ← look fun s => s.fld Reg.GKO_STAB Reg.GKO_STAB_EN
  need (en = 1) .invalid
  let a ← look fun s => s.shardAt k
  let rack ← look fun s => s.rack
  let r ← ok (← ownRead a 64)
  match gShard rack r.data with
  | none => fail .invalid
  | some g =>
    need (g.share || decide (g.ctx = ctx)) .prot
    pure g

/-- Engine e may take queries (R364). -/
def State.geckoReady (s : State) (e : Nat) : Bool :=
  let n := min (s.fld (Reg.GKO_CFG e) Reg.GKO_CFG_SLOTS) 128
  let w := s.fld (Reg.GKO_CFG e) Reg.GKO_CFG_WORK
  let eng : Eng := ⟨.gecko, Fin.ofNat 32 e⟩
  n ≠ 0 && s.present eng && !s.isContained eng.part &&
  (List.range ((w + n * 65536 - 1) / 2 ^ 21 - w / 2 ^ 21 + 1)).all fun i =>
    let b := w / 2 ^ 21 + i
    let r := Reg.CADDY_OWN b
    decide (b / 1024 = e) && s.fld r Reg.CADDY_OWN_STATE = 1 && s.fld r Reg.CADDY_OWN_KIND = 2 && s.fld r Reg.CADDY_OWN_IDX = e

/-- Queries that hold slots of engine e. -/
def State.geckoActive (s : State) (e : Nat) : Nat := (s.eng.queries.filter fun q => q.eng = some e && q.task.isSome).length

/-! ## Node headers -/

def hState (h : List Byte) : Nat := bits (fieldLE h 0 1) 1 0
def hNdeg (h : List Byte) : Nat := bits (fieldLE h 1 1) 6 0
def hIns (h : List Byte) : Nat := fieldLE h 4 4
def hDel (h : List Byte) : Nat := fieldLE h 8 4
def hNorm (h : List Byte) : Nat := fieldLE h 12 4
def hLabel (h : List Byte) : Nat := fieldLE h 16 8

/-- A header's bytes. -/
def gHeader (st ndeg ins del norm label : Nat) : List Byte :=
  [BitVec.ofNat 8 st, BitVec.ofNat 8 ndeg, 0, 0] ++ natLE 4 ins ++ natLE 4 del ++ natLE 4 norm ++ natLE 8 label ++
  List.replicate 40 0

/-- What a query of snapshot e may return (R372). -/
def returnable (h : List Byte) (e : Nat) : Bool :=
  (hState h = 2 && decide (hIns h ≤ e)) || (hState h = 3 && decide (hIns h ≤ e) && decide (e < hDel h))

/-! ## Distances (R357, R358) -/

/-- Terms summed exactly in runs of 64, the runs accumulated in FP32 (R282, R357). -/
def sumRuns (l : List Fv) : Nat :=
  (chunks 64 l.length l).foldl (fun a t => (accAdd a (groupSum t false false).1).1) 0

/-- An exact integer as FP32. -/
def intTo32 (i : Int) : Nat := round32 (decide (i < 0)) i.natAbs 1 0

/-- The sum of products of two vectors, and of squared differences. -/
def gDot (v : Nat) (q x : List Nat) : Nat :=
  if v = 0 then intTo32 ((List.zipWith (fun a b => signed 8 a * signed 8 b) q x).foldl (· + ·) 0)
  else sumRuns (List.zipWith (fun a b => (elemVal (gFmt v) a).mul (elemVal (gFmt v) b)) q x)
def gSqd (v : Nat) (q x : List Nat) : Nat :=
  let sq := fun (d : Int) => d * d
  if v = 0 then intTo32 ((List.zipWith (fun a b => sq (signed 8 a - signed 8 b)) q x).foldl (· + ·) 0)
  else sumRuns (List.zipWith (fun a b =>
    let d := (elemVal (gFmt v) a).add (elemVal (gFmt v) b).neg
    d.mul d) q x)

/-- A vector whose elements are all zero. -/
def gZero (v : Nat) (q : List Nat) : Bool :=
  q.all fun c => match elemVal (gFmt v) c with | .fin _ m _ => m = 0 | _ => false

/-- The distance of an item (12, "Distances"); `rs` is RSQRT of the query's sum of squares, `norm` the item's
INVNORM. -/
def gDist (metric v : Nat) (q x : List Nat) (rs norm : Nat) : Nat :=
  match metric with
  | 0 =>
    if v = 0 then intTo32 (-((List.zipWith (fun a b => signed 8 a * signed 8 b) q x).foldl (· + ·) 0))
    else
      let d := gDot v q x
      if isNan32 d then nan32 else putBit d 31 (!bit d 31)
  | 1 => if gZero v q then 0x3F800000 else sub32 0x3F800000 (mul32 (mul32 (gDot v q x) rs) norm)
  | _ => gSqd v q x

/-! ## Lists of candidates and results (R359, R381) -/

/-- An item met by a walk. -/
structure GItem where
  dist : Nat
  slot : Nat
  label : Nat
  exp : Bool := false

/-- The order of entries (R359). -/
def gBefore (d1 l1 i1 d2 l2 i2 : Nat) : Bool :=
  lt32 d1 d2 || (!lt32 d2 d1 && (decide (l1 < l2) || (decide (l1 = l2) && decide (i1 < i2))))
def GItem.before (x y : GItem) : Bool := gBefore x.dist x.label x.slot y.dist y.label y.slot

/-- An item put in its place of a list of the k best. -/
def gKeep (k : Nat) (l : List GItem) (x : GItem) : List GItem :=
  (l.takeWhile (fun y => !x.before y) ++ x :: l.dropWhile (fun y => !x.before y)).take k

/-- The same under DEDUP: an entry whose label a better entry has is dropped (R381). -/
def gKeepD (dedup : Bool) (k : Nat) (l : List GItem) (x : GItem) : List GItem :=
  if dedup then
    if l.any fun y => y.label = x.label && y.before x then l
    else gKeep k (l.filter fun y => y.label ≠ x.label) x
  else gKeep k l x

/-! ## The walk and the scan (R365 to R372, R378, R379) -/

/-- What a query works with: shard, query vector, its RSQRT, snapshot, lengths of the two lists, bitmap, engine; `build`
for the walk of an insert (R374); the workspace. -/
structure GQ where
  g : GShard
  q : List Nat
  rs : Nat
  e : Nat
  k : Nat
  l : Nat
  bitmap : Nat
  dedup : Bool
  eng : Nat
  build : Bool := false
  work : Nat

/-- What a query has so far: the two lists, the visited filter, BAD, evaluations, the Strainer lines read. -/
structure GW where
  cand : List GItem := []
  res : List GItem := []
  seen : Nat := 0
  bad : Nat := 0
  evals : Nat := 0
  lines : List (Nat × Option (List Byte)) := []

/-- Bytes read by store address, or none when the item is to be skipped (R368). -/
def skipRead (a n : Nat) : Prog (Option (List Byte)) := do
  match ← attempt (readS a n true) with
  | .ok d => pure (some d)
  | .error (st, _, _) => do need (mediumFailure st) st; pure none

/-- The Strainer's test of a slot (R369, R370). -/
def gAllowed (c : GQ) (w : GW) (y : Nat) : Prog (GW × Bool) := do
  if c.bitmap = 0 then pure (w, true)
  else
    let n := y / 512
    let test := fun (d : Option (List Byte)) => match d with
      | none => false
      | some b => bit (fieldLE b (y / 8 % 64) 1) (y % 8)
    match w.lines.find? fun x => x.1 = n with
    | some x => pure ({ w with lines := (x :: w.lines.filter fun z => z.1 ≠ n) }, test x.2)
    | none =>
      let d ← skipRead (c.bitmap + 64 * n) 64
      pure ({ w with lines := ((n, d) :: w.lines).take 64, bad := w.bad + (if d.isNone then 1 else 0) }, test d)

/-- One distance evaluated and counted (R385); none for NaN, which counts as BAD (R358). -/
def gMeasure (c : GQ) (w : GW) (h v : List Byte) : Prog (GW × Option Nat) := do
  let d := gDist c.g.metric c.g.vfmt c.q (unpack (8 * gElem c.g.vfmt) c.g.dim v) c.rs (hNorm h)
  effect fun s => s.setReg (Reg.GKO_CNT c.eng) (s.reg (Reg.GKO_CNT c.eng) + 1)
  let w := { w with evals := w.evals + 1 }
  if isNan32 d then pure ({ w with bad := w.bad + 1 }, none) else pure (w, some d)

/-- A query reaches its lists in its slot's workspace (R224, R363). -/
def gWork (c : GQ) : Prog Unit := workGate ⟨.gecko, Fin.ofNat 32 c.eng⟩ [c.work]

/-- evaluate(y) of R365; an item met again stands once in either list. -/
def gEval (c : GQ) (w : GW) (y : Nat) : Prog GW := do
  gWork c
  let h ← skipRead (c.g.nodeAt y) 64
  let v ← skipRead (c.g.vecAt y) c.g.stride
  match h, v with
  | some h, some v =>
    if hState h = 0 then pure w
    else
      let (w, d) ← gMeasure c w h v
      match d with
      | none => pure w
      | some d =>
        let x : GItem := { dist := d, slot := y, label := hLabel h }
        let w := if w.cand.any fun z => z.slot = y then w else { w with cand := gKeep c.l w.cand x }
        let may := if c.build then hState h = 2 else returnable h c.e
        if !may then pure w
        else
          let (w, a) ← gAllowed c w y
          pure (if a && !w.res.any (fun z => z.slot = y) then { w with res := gKeepD c.dedup c.k w.res x } else w)
  | _, _ => pure { w with bad := w.bad + 1 }

/-- The bit of the visited filter (R366). -/
def seenBit (y : Nat) : Nat := y * 0x9E3779B1 % 2 ^ 32 / 2 ^ 15

/-- The neighbours of an expanded node that are to be evaluated, each visited from now on (R365). -/
def gVisit (c : GQ) (w : GW) (ys : List Nat) : GW × List Nat :=
  ys.foldl (fun (w, l) y =>
    if y = 0xFFFFFFFF then (w, l)
    else if y ≥ c.g.cap then ({ w with bad := w.bad + 1 }, l)
    else if bit w.seen (seenBit y) then (w, l)
    else ({ w with seen := putBit w.seen (seenBit y) true }, l ++ [y])) (w, [])

/-- An entry in expansion: its slot, and what is still to be evaluated once its node has been read. -/
abbrev GExp := Nat × Option (List Nat)

/-- What the reads outstanding of entries in expansion may bring next: an entry's node, or an item to evaluate. -/
def gOpen (xs : List GExp) : List (Nat × Option Nat) :=
  xs.zipIdx.flatMap fun ((_, o), i) => match o with
    | none => [(i, none)]
    | some l => l.map fun y => (i, some y)

/-- A free choice below n; there is none to make of one. -/
def pick (n : Nat) : Prog Nat := if n ≤ 1 then pure 0 else do return Config.freeNat (← free) % n

/-- An entry in expansion whose node has been read, or of which an item has been evaluated; it leaves with its last. -/
def gLeft (xs : List GExp) (i slot : Nat) (l : List Nat) : List GExp :=
  if l.isEmpty then xs.eraseIdx i else xs.set i (slot, some l)

/-- Expansion of the first unexpanded candidate, again and again (R365): up to 8 entries are in expansion at once, and their reads
return in any order (R367). -/
def gWalk (c : GQ) : Nat → GW → List GExp → Prog GW
  | 0, w, _ => pure w
  | fuel + 1, w, xs => do
    let next := if xs.length < 8 then w.cand.find? fun x => !x.exp else none
    let open_ := gOpen xs
    let k ← pick (next.toList.length + open_.length)
    match next, k with
    | some x, 0 =>
      gWork c
      let cand := w.cand.map fun y => if y.slot = x.slot then { y with exp := true } else y
      gWalk c fuel { w with cand := cand } (xs ++ [(x.slot, none)])
    | _, _ =>
      match open_[k - next.toList.length]? with
      | none => pure w
      | some (i, o) =>
        let x := xs.getD i (0, none)
        match o with
        | some y => do
          let w' ← gEval c w y
          gWalk c fuel w' (gLeft xs i x.1 ((x.2.getD []).erase y))
        | none => do
          gWork c
          match ← skipRead (c.g.nodeAt x.1) (64 + 4 * c.g.deg) with
          | none => gWalk c fuel { w with bad := w.bad + 1 } (gLeft xs i x.1 [])
          | some n =>
            let (w', l) := gVisit c w ((List.range (min (hNdeg n) c.g.deg)).map fun j => fieldLE n (64 + 4 * j) 4)
            gWalk c fuel w' (gLeft xs i x.1 l)

/-- The entry points evaluated, then the walk: at most CAP items and the entry points are evaluated, and each is expanded once. -/
def gRunWalk (c : GQ) : Prog GW := do
  let w ← c.g.entries.foldlM (fun w p => gEval c w p) ({} : GW)
  gWalk c (3 * c.g.cap + 40) w []

/-- The scan (R378): whether it examined every slot. -/
def gScan (c : GQ) (max : Nat) : Nat → Nat → GW → Nat → Prog (GW × Bool)
  | 0, _, w, _ => pure (w, true)
  | left + 1, i, w, n => do
    if max ≠ 0 ∧ n ≥ max then pure (w, false)
    else
      gWork c
      let (w, a) ← gAllowed c w i
      if !a || w.res.any (fun x => x.slot = i) then gScan c max left (i + 1) w n
      else
        let h ← skipRead (c.g.nodeAt i) 64
        let v ← skipRead (c.g.vecAt i) c.g.stride
        match h, v with
        | some h, some v =>
          if !returnable h c.e then gScan c max left (i + 1) w n
          else
            let (w, d) ← gMeasure c w h v
            let w := match d with
              | some d => { w with res := gKeepD c.dedup c.k w.res { dist := d, slot := i, label := hLabel h } }
              | none => w
            gScan c max left (i + 1) w (n + 1)
        | _, _ => gScan c max left (i + 1) { w with bad := w.bad + 1 } n

/-- The RSQRT that cosine uses of a query (R357). -/
def gNormOf (v : Nat) (q : List Nat) : Prog Nat := do
  let seed ← free
  pure (rsqrt32 (gDot v q q) seed)

/-- One query from start to end (R363, R365, R378, R379). -/
def gkoQueryProg (sub qi e shard : Nat) (p : GkoParams) (queries : List Byte) (bitmap : Nat) : Prog GkoList := do
  let ctx ← myCtx
  let g ← shardEntry shard ctx
  effect fun s => { s with eng := { s.eng with queries := s.eng.queries.map fun q =>
    if q.sub = sub ∧ q.qi = qi then { q with snap := some g.sepoch } else q } }
  let q := unpack (8 * gElem g.vfmt) g.dim ((queries.drop (qi * g.stride)).take g.stride)
  let rs ← gNormOf g.vfmt q
  let id ← (fun r => (.ok r.id, r) : Prog Nat)
  let work ← look fun s => ((s.eng.queries.find? fun q => q.task = some id).map (·.work)).getD 0
  let c : GQ := { g := g, q := q, rs := rs, e := g.sepoch, k := p.k, l := p.l, bitmap := bitmap, dedup := p.dedup, eng := e,
                  work := work }
  let w ← if p.fb ≤ 1 then gRunWalk c else pure {}
  let scan := p.fb = 2 || (p.fb = 1 && decide (w.res.length < p.k))
  let (w, whole) ← if scan then gScan c p.scanMax g.cap 0 w 0 else pure (w, false)
  pure { entries := w.res.map fun x => ⟨BitVec.ofNat 32 x.dist, BitVec.ofNat 32 x.slot, BitVec.ofNat 64 x.label⟩,
         scanned := scan, complete := scan && whole, limit := scan && !whole, bad := w.bad, evals := w.evals }

/-! ## A search's subrequest at its home (R362 to R364) -/

/-- A subrequest whose queries are all done goes on (R363). -/
def State.gkoNote (s : State) (sub : Nat) : State :=
  if (s.task sub).wait = .reports ∧ (s.eng.queries.filter fun q => q.sub = sub).all fun q => q.res.isSome then
    s.deliver sub {}
  else s

/-- A subrequest's queries, none started. -/
def newQueries (sub shard n : Nat) : List GkoQuery := (List.range n).map fun i => { sub := sub, shard := shard, qi := i }

/-- The home's side of a search: checks, one query after another, their lists. -/
def gkoHome (m : Msg) (shard : Nat) (p : GkoParams) : Prog Report := do
  let ctx := m.hdr.ctx.toNat
  admitted m [] false
  needUnit .gecko ctx
  let av ← look fun s => ((List.range 2).any s.geckoReady).toNat
  need (av = 1) .unsupported
  let g ← shardEntry shard ctx
  need (g.metric = p.metric && g.vfmt = p.vfmt && g.dim = p.dim) .invalid
  let _ ← act .reports fun id s =>
    ({ s with eng := { s.eng with queries := s.eng.queries ++ newQueries id shard p.nq } } : State).gkoNote id
  let id ← (fun r => (.ok r.id, r) : Prog Nat)
  let l ← peek fun s => (s.eng.queries.filter fun q => q.sub = id).filterMap (·.res)
  pure (.gko l)

/-! ## The coordinator (R360, R361, R380 to R383) -/

/-- R360. -/
def gkoOperandsOk (b : List Byte) : Bool :=
  let w4 := dOp b 4
  let w5 := dOp b 5
  dEng b = 0xFF && dSubop b = 0 && isVa (dOp b 0) && isVa (dOp b 1) && isVa (dOp b 2) && isVa (dOp b 3) &&
  decide (dOp b 2 % 64 = 0) && dOp b 2 ≠ 0 && decide (dOp b 3 % 64 = 0) && dOp b 3 ≠ 0 &&
  decide (1 ≤ bits w4 15 0) && decide (bits w4 15 0 ≤ 1024) && decide (1 ≤ bits w4 23 16) && decide (bits w4 23 16 ≤ 64) &&
  bits w4 25 24 ≠ 3 && decide (bits w4 28 26 ≤ 4) && bits w4 30 29 ≠ 3 &&
  decide (1 ≤ bits w4 47 32) && decide (bits w4 47 32 ≤ 1024) && decide (1 ≤ bits w4 63 48) && decide (bits w4 63 48 ≤ 512) &&
  gDimOk (bits w5 15 0)

/-- The parameters of a search. -/
def gkoParams (b : List Byte) : GkoParams :=
  let w4 := dOp b 4
  { nq := bits w4 15 0, k := bits w4 47 32, l := bits w4 63 48, dim := bits (dOp b 5) 15 0, fb := bits w4 25 24,
    metric := bits w4 30 29, vfmt := bits w4 28 26, scanMax := bits (dOp b 5) 63 32, dedup := bit w4 31 }

/-- A result area's query as a list with its header (12, "Results"). -/
structure GRes where
  items : List GItem := []
  scanned : Bool := false
  complete : Bool := true
  limit : Bool := false
  shards : Nat := 0
  bad : Nat := 0
  evals : Nat := 0

/-- Items merged into a result under R359 and R381. -/
def gMerge (dedup : Bool) (k : Nat) (a b : List GItem) : List GItem := b.foldl (gKeepD dedup k) a

/-- Saturation to 32 bits. -/
def sat32 (n : Nat) : Nat := min n (2 ^ 32 - 1)

/-- The bytes of one query's results (12, "Results"). -/
def gResBytes (k : Nat) (r : GRes) : List Byte :=
  let n := r.items.length
  natLE 4 n ++
  [BitVec.ofNat 8 (ofBits 4 fun i => [decide (n < k), r.scanned, r.complete, r.limit].getD i false), 0] ++
  natLE 2 r.shards ++ natLE 4 (sat32 r.bad) ++ natLE 4 (sat32 r.evals) ++
  (r.items.flatMap fun x => natLE 4 x.dist ++ natLE 4 x.slot ++ natLE 8 x.label) ++
  (List.replicate (k - n) (natLE 4 0x7F800000 ++ natLE 4 0xFFFFFFFF ++ natLE 8 0)).flatten

/-- One shard's list taken into a query's results (R380); `pos` is its place in the shard list. -/
def gTake (p : GkoParams) (r : GRes) (pos : Nat) (l : GkoList) : GRes :=
  { items := gMerge p.dedup p.k r.items (l.entries.map fun e =>
      { dist := e.dist.toNat, slot := pos * 2 ^ 24 + e.item.toNat % 2 ^ 24, label := e.label.toNat }),
    scanned := r.scanned || l.scanned, complete := r.complete && l.complete, limit := r.limit || l.limit,
    shards := r.shards + 1, bad := r.bad + l.bad, evals := r.evals + l.evals }

/-- GKO_SEARCH at its coordinator. -/
def gkoSearchProg (e : Eng) (b : List Byte) : Prog Unit := do
  let p := gkoParams b
  let ns := bits (dOp b 4) 23 16
  rackOk e [(dOp b 0, p.nq * p.dim * gElem p.vfmt), (dOp b 1, 16 * ns), (dOp b 2, p.nq * (16 + 16 * p.k)), (dOp b 3, 16 * ns)]
  let queries ← readDirect e (dOp b 0) (p.nq * p.dim * gElem p.vfmt)
  let list ← readDirect e (dOp b 1) (16 * ns)
  let shards ← stable (collect (fun i => do
    let h := fieldLE list (16 * i) 4
    let bm := fieldLE list (16 * i + 8) 8
    need (bits h 31 17 = 0 && fieldLE list (16 * i + 4) 4 = 0) .invalid
    let a ← if bm = 0 then pure 0 else do
      need (isVa bm && decide (bm % 64 = 0)) .invalid
      let (t, left) ← translateLeaf e bm .read
      need (decide (2 ^ 21 ≤ left)) .invalid
      match t with
      | .store a => pure a
      | .host .. => fail .invalid
    pure (h, a)) (List.range ns))
  fanOut (bits (dOp b 5) 31 16) (shards.map fun (h, a) => (bits h 16 12, p.nq, Work.gko (bits h 11 0) p queries a))
  let f ← myFan
  let good := f.order.filterMap fun i => match f.parts[i]? with
    | some q => (match q.got with | some (.gko l) => some (i, l) | _ => none)
    | none => none
  let miss := f.parts.filterMap fun q => if q.got.isSome then none else some (q.missing.getD .timeout)
  if good.isEmpty then fail (miss.headD .ok)
  else
    let all := miss.isEmpty
    let res := (List.range p.nq).map fun qi =>
      let r := good.foldl (fun r (i, l) => match l[qi]? with | some x => gTake p r i x | none => r) ({} : GRes)
      { r with complete := r.complete && all }
    progress fun c => { c with exhausted := res.any (fun r => decide (r.items.length < p.k)),
                               result := sat32 ((res.map (·.bad)).sum) + f.homesSent * 2 ^ 48 }
    each (fun (r, qi) => do
      writeV e (dOp b 2 + qi * (16 + 16 * p.k)) (gResBytes p.k r) qi false
      unitsDone (qi + 1)) res.zipIdx
    if !all then
      let cov := f.parts.zipIdx.flatMap fun (q, i) =>
        [BitVec.ofNat 8 i, BitVec.ofNat 8 ((if q.got.isSome then Status.ok else q.missing.getD .timeout).code)] ++
        natLE 4 ((shards.getD i (0, 0)).1) ++ List.replicate 10 0
      writeV e (dOp b 3) cov p.nq false
      unitsDone p.nq
      progress fun c => { c with coverage := true, result := c.result + ns * 2 ^ 32 }
      fail .part

/-! ## Inserting and deleting (R373 to R377) -/

def gkoInsertOk (b : List Byte) : Bool :=
  dSubop b = 0 && bits (dOp b 0) 31 17 = 0 && decide (1 ≤ bits (dOp b 0) 63 32) && decide (bits (dOp b 0) 63 32 ≤ 65536) &&
  isVa (dOp b 1) && decide (dOp b 1 % 64 = 0) && decide (16 ≤ bits (dOp b 2) 15 0) && decide (bits (dOp b 2) 15 0 ≤ 512) &&
  bits (dOp b 2) 63 16 = 0 && dOp b 3 = 0 && dOp b 4 = 0 && dOp b 5 = 0
def gkoDeleteOk (b : List Byte) : Bool :=
  dSubop b = 0 && bits (dOp b 0) 31 17 = 0 && decide (1 ≤ bits (dOp b 0) 63 32) && decide (bits (dOp b 0) 63 32 ≤ 65536) &&
  isVa (dOp b 1) && dOp b 2 = 0 && dOp b 3 = 0 && dOp b 4 = 0 && dOp b 5 = 0

/-- The program ends as the home of its work refused it (R373, R411). -/
def failHome {α : Type} (st : Status) (home : Nat) : Prog α := do
  let rack ← look fun s => s.rack
  fun r => (.error (.fin st 0 (some (rack, home))), r)

/-- Bytes of a vector of a shard as its coordinator knows them: from the entry when the shard lives here; else a free
value, since no rule says how a coordinator learns them (log 41). -/
def strideOf (h : Nat) : Prog Nat := do
  let here ← look fun s => (decide (bits h 16 12 = s.module)).toNat
  if here = 1 then do
    let ctx ← myCtx
    match ← attempt (shardEntry (bits h 11 0) ctx) with
    | .ok g => pure g.stride
    | .error (st, _, _) => failHome st (bits h 16 12)
  else do
    let n ← free
    pure (64 * (1 + Config.freeNat n % 256))

/-- Items of a list read one by one; the status and CODE that end the list early. -/
def readItems {α : Type} (f : Nat → Prog α) : Nat → Nat → Prog (List α × Option (Status × Nat))
  | 0, _ => pure ([], none)
  | n + 1, i => do
    match ← attempt (f i) with
    | .error (st, c, _) => pure ([], some (st, c))
    | .ok x => do
      let (l, r) ← readItems f n (i + 1)
      pure (x :: l, r)

/-- Batches of an update forwarded in order, each after the report of the one before (R373, R377). -/
def sendUpdates (dst : Nat) (w : Bool → List Nat → Work) (base : Nat) : List (List Nat) → Prog Unit
  | [] => pure ()
  | c :: cs => do
    stored
    fanOut 0 [(dst, c.length, w (!cs.isEmpty) c)]
    let f ← myFan
    match f.parts.getLast? with
    | none => pure ()
    | some p =>
      match p.got with
      | some (.update n st u) => do
        unitsDone (base + n)
        progress fun x => { x with undef := u }
        if st ≠ .ok then failHome st dst
        else sendUpdates dst w (base + c.length) cs
      | _ => do
        let st := p.missing.getD .timeout
        progress fun x => { x with undef := st = .aborted || st = .lostState || st = .timeout }
        failHome st dst

/-- GKO_INSERT at its coordinator (R373). -/
def gkoInsertProg (e : Eng) (b : List Byte) : Prog Unit := do
  let h := bits (dOp b 0) 31 0
  let vs ← strideOf h
  rackOk e [(dOp b 1, bits (dOp b 0) 63 32 * (64 + vs))]
  let id ← (fun r => (.ok r.id, r) : Prog Nat)
  let (items, stop) ← readItems (fun i => do
    let d ← readDirect e (dOp b 1 + i * (64 + vs)) (64 + vs)
    need (fieldLE d 4 4 = 0 && leNat ((d.drop 16).take 48) = 0) .invalid
    pure (⟨fieldLE d 0 4, BitVec.ofNat 64 (fieldLE d 8 8), d.drop 64⟩ : GkoItem)) (bits (dOp b 0) 63 32) 0
  sendUpdates (bits h 16 12) (fun more c =>
    .gkoInsert (bits h 11 0) (bits (dOp b 2) 15 0) id more (c.filterMap fun i => items[i]?)) 0
    (chunks 64 items.length (List.range items.length))
  match stop with
  | some (st, c) => failCode st c
  | none => pure ()

/-- GKO_DELETE at its coordinator. -/
def gkoDeleteProg (e : Eng) (b : List Byte) : Prog Unit := do
  let h := bits (dOp b 0) 31 0
  rackOk e [(dOp b 1, 4 * bits (dOp b 0) 63 32)]
  let id ← (fun r => (.ok r.id, r) : Prog Nat)
  let (items, stop) ← readItems (fun i => do
    return leNat (← readDirect e (dOp b 1 + 4 * i) 4)) (bits (dOp b 0) 63 32) 0
  sendUpdates (bits h 16 12) (fun more c => .gkoDelete (bits h 11 0) id more (c.filterMap fun i => items[i]?)) 0
    (chunks 64 items.length (List.range items.length))
  match stop with
  | some (st, c) => failCode st c
  | none => pure ()

/-- The update that a shard is running. -/
def State.gkoUpd (s : State) (shard : Nat) : Option GkoUpd := SMap.find s.eng.updates shard
def State.setGkoUpd (s : State) (shard : Nat) (u : GkoUpd) : State :=
  { s with eng := { s.eng with updates := SMap.put s.eng.updates shard u } }
/-- A shard's update has ended: those that wait look again. -/
def State.endGkoUpd (s : State) (shard : Nat) : State :=
  { s with eng := { s.eng with updates := SMap.del s.eng.updates shard },
           tasks := s.tasks.mapv fun _ t => if t.wait = .held then { t with wait := .ready } else t }

/-- The shard, and one, of an open update whose last batch has a tag; 0 where there is none. -/
def State.openUpdate (s : State) (src tag : Nat) : Nat :=
  ((s.eng.updates.find? fun u => u.2.src = src ∧ u.2.tag = tag).map fun u => u.1 + 1).getD 0

/-- The item whose back links an update makes, while it does (R377). -/
def State.linkUpd (s : State) (shard : Nat) (a : Option Nat) : State :=
  match s.gkoUpd shard with
  | some u => s.setGkoUpd shard { u with linking := a }
  | none => s

/-- The shard that a message's update is of. -/
def shardOf (m : Msg) : Option (Nat × Nat) :=
  match m.body with
  | .subreq (.gkoInsert shard _ upd _ _) => some (shard, upd)
  | .subreq (.gkoDelete shard upd _ _) => some (shard, upd)
  | _ => none

/-- An update that arrived earlier waits for a shard. -/
def State.updateBefore (s : State) (id shard : Nat) : Bool :=
  s.tasks.any fun t => decide (t.1 < id) && t.2.wait = .held && t.2.over.isNone && (match t.2.kind with
    | .msg _ m => (shardOf m).any fun x => x.1 = shard
    | _ => false)

/-- The update's turn at its shard, and its epoch (R374): a first batch waits for the updates that arrived before it. -/
def gkoTurn (m : Msg) (shard upd : Nat) : Prog (GShard × Nat) := do
  let src := m.hdr.src.toNat
  let ctx := m.hdr.ctx.toNat
  let tag := m.hdr.seq.toNat
  let _ ← act .held fun id s =>
    match s.gkoUpd shard with
    | none =>
      if s.updateBefore id shard then s
      else (s.setGkoUpd shard { src := src, upd := upd, tag := tag }).deliver id {}
    | some u => if u.src = src ∧ u.upd = upd then (s.setGkoUpd shard { u with tag := tag }).deliver id {} else s
  let g ← shardEntry shard ctx
  let old ← look fun s => match s.gkoUpd shard with | some u => u.epoch | none => 0
  if old ≠ 0 then pure (g, old)
  else
    need (g.sepoch ≠ 0xFFFFFFFF) .invalid
    effect fun s => s.setGkoUpd shard { src := src, upd := upd, epoch := g.sepoch + 1, tag := tag }
    pure (g, g.sepoch + 1)

/-- The end of an update (R374): an item that failed in its back links is INSERTING again (R377; log 108), SEPOCH is written
whatever the status, and the next update may start. -/
def gkoClose (shard : Nat) : Prog Unit := do
  let e ← look fun s => match s.gkoUpd shard with | some u => u.epoch | none => 0
  let x ← look fun s => match s.gkoUpd shard with | some u => (u.linking.map (· + 1)).getD 0 | none => 0
  if x ≠ 0 then do
    let _ ← attempt (writeS (x - 1) (gHeader 1 0 e 0 0 0) true)
    pure ()
  if e ≠ 0 then do
    let a ← look fun s => s.shardAt shard
    let _ ← ownWrite (a + 12) (natLE 4 e)
    effect fun s => s.endGkoUpd shard
  else effect fun s => s.endGkoUpd shard

/-- Queries of a shard whose snapshot lies below an epoch and that still run (R375). -/
def State.oldQueries (s : State) (shard del : Nat) : Bool :=
  s.eng.queries.any fun q => q.shard = shard && q.task.isSome &&
    (match q.snap with | some e => decide (e < del) | none => false)

/-- The check of an insert's slot (R375). -/
def insertSlot (g : GShard) (shard e slot : Nat) : Prog Unit := do
  need (decide (slot < g.cap)) .invalid
  let h ← readS (g.nodeAt slot) 64 true
  match hState h with
  | 2 => fail .invalid
  | 3 => do
    need (decide (hDel h < e)) .invalid
    let _ ← act .reports fun id s => if s.oldQueries shard (hDel h) then s else s.deliver id {}
    pure ()
  | _ => pure ()

/-- The new neighbour's own list gains the slot (R374 step 6): appended, or in place of the farthest. -/
def backLink (c : GQ) (slot : Nat) (vec : List Byte) (norm label y : Nat) : Prog Unit := do
  let g := c.g
  match ← skipRead (g.nodeAt y) (64 + 4 * g.deg), ← skipRead (g.vecAt y) g.stride with
  | some n, some vy => do
    let nd := min (hNdeg n) g.deg
    if nd < g.deg then do
      writeS (g.nodeAt y + 64 + 4 * nd) (natLE 4 slot) true
      writeS (g.nodeAt y + 1) (natLE 1 (nd + 1)) true
    else do
      let w := 8 * gElem g.vfmt
      let qy := unpack w g.dim vy
      let rs ← gNormOf g.vfmt qy
      let far ← (List.range nd).foldlM (fun (best : Option (Nat × GItem)) j => do
        let z := fieldLE n (64 + 4 * j) 4
        if z ≥ g.cap then pure best
        else
          match ← skipRead (g.nodeAt z) 64, ← skipRead (g.vecAt z) g.stride with
          | some hz, some vz => do
            let (_, d) ← gMeasure { c with q := qy, rs := rs } {} hz vz
            match d with
            | none => pure best
            | some d =>
              let x : GItem := { dist := d, slot := z, label := hLabel hz }
              match best with
              | none => pure (some (j, x))
              | some b => pure (if b.2.before x then some (j, x) else some b)
          | _, _ => pure best) (none : Option (Nat × GItem))
      match far with
      | none => pure ()
      | some (j, x) =>
        let d := gDist g.metric g.vfmt qy (unpack w g.dim vec) rs norm
        effect fun s => s.setReg (Reg.GKO_CNT c.eng) (s.reg (Reg.GKO_CNT c.eng) + 1)
        let me_ : GItem := { dist := d, slot := slot, label := label }
        if !isNan32 d && me_.before x then writeS (g.nodeAt y + 64 + 4 * j) (natLE 4 slot) true
  | _, _ => pure ()

/-- One item inserted (R374). -/
def insertItem (g : GShard) (shard e eng work lbuild : Nat) (x : GkoItem) : Prog Unit := do
  insertSlot g shard e x.slot
  let label := x.label.toNat
  writeS (g.nodeAt x.slot) (gHeader 1 0 e 0 0 0) true
  writeS (g.vecAt x.slot) (fitBytes g.stride x.vec) true
  let q := unpack (8 * gElem g.vfmt) g.dim (fitBytes g.stride x.vec)
  let rs ← gNormOf g.vfmt q
  let c : GQ := { g := g, q := q, rs := rs, e := e, k := g.deg, l := lbuild, bitmap := 0, dedup := false, eng := eng,
                  build := true, work := work }
  let w ← gRunWalk c
  let near := (w.res.filter fun y => y.slot ≠ x.slot).map (·.slot)
  writeS (g.nodeAt x.slot + 64)
    ((near ++ List.replicate (g.deg - near.length) 0xFFFFFFFF).flatMap (natLE 4)) true
  let norm := if gZero g.vfmt q then 0 else rs
  writeS (g.nodeAt x.slot) (gHeader 2 near.length e 0 norm label) true
  effect fun s => s.linkUpd shard (some (g.nodeAt x.slot))
  each (backLink c x.slot (fitBytes g.stride x.vec) norm label) near
  effect fun s => s.linkUpd shard none

/-- One slot deleted (R376). -/
def deleteSlot (g : GShard) (e slot : Nat) : Prog Unit := do
  need (decide (slot < g.cap)) .invalid
  let h ← readS (g.nodeAt slot) 64 true
  if hState h = 2 then
    let n := gHeader 3 (hNdeg h) (hIns h) e (hNorm h) (hLabel h)
    writeS (g.nodeAt slot) n true

/-- The items of a batch in turn; how it ended (R377). -/
def runItems {α : Type} (f : α → Prog Unit) : Nat → List α → Prog Unit
  | _, [] => pure ()
  | i, x :: xs => do
    f x
    unitsDone (i + 1)
    runItems f (i + 1) xs

/-- A batch's report: items done, its status, UNDEF. -/
def batchReport (p : Prog Unit) : Prog Report := do
  let r ← attempt p
  let c ← (fun r => (.ok r.cur, r) : Prog Fin_)
  match r with
  | .ok () => pure (.update c.progress .ok false)
  | .error (st, _, _) => pure (.update c.progress st c.undef)

/-- The checks of an update's batch at its home (R373): the engine that takes it, and its workspace there (log 102). -/
def gkoAdmit (m : Msg) : Prog (Nat × Nat) := do
  let ctx := m.hdr.ctx.toNat
  admitted m [] true
  needUnit .gecko ctx
  let av ← look fun s => ((List.range 2).filter s.geckoReady).headD 2
  need (av ≠ 2) .unsupported
  let w ← change fun s => (s, { val := s.fld (Reg.GKO_CFG av) Reg.GKO_CFG_WORK })
  let _ ← act .ready fun id s =>
    (s.setTask id { (s.task id) with eng := some ⟨.gecko, Fin.ofNat 32 av⟩ }).deliver id {}
  pure (av, w.val)

/-- After a batch that is the last, or that has ended its update early, the update closes (R374). -/
def closeAfter (shard : Nat) (more : Bool) (r : Report) : Prog Report := do
  match r with
  | .update _ st _ => if !more || st ≠ .ok then gkoClose shard
  | _ => pure ()
  pure r

/-- A batch of an insert at its home. -/
def gkoInsertHome (m : Msg) (shard lbuild upd : Nat) (more : Bool) (items : List GkoItem) : Prog Report := do
  let (eng, work) ← gkoAdmit m
  let (g, e) ← gkoTurn m shard upd
  need (decide (g.deg ≤ lbuild)) .invalid
  closeAfter shard more (← batchReport (runItems (insertItem g shard e eng work lbuild) 0 items))

/-- A batch of a delete at its home. -/
def gkoDeleteHome (m : Msg) (shard upd : Nat) (more : Bool) (slots : List Nat) : Prog Report := do
  let _ ← gkoAdmit m
  let (g, e) ← gkoTurn m shard upd
  closeAfter shard more (← batchReport (runItems (deleteSlot g e) 0 slots))

/-! ## GKO_MERGE (R384) -/

def gkoMergeOk (b : List Byte) : Bool :=
  let w2 := dOp b 2
  let w3 := dOp b 3
  dSubop b = 0 && isVa (dOp b 0) && isVa (dOp b 1) && decide (1 ≤ bits w2 31 0) && decide (bits w2 31 0 ≤ 4096) &&
  decide (1 ≤ bits w2 47 32) && decide (bits w2 47 32 ≤ 1024) && decide (1 ≤ bits w2 63 48) && decide (bits w2 63 48 ≤ 1024) &&
  decide (1 ≤ bits w3 15 0) && decide (bits w3 15 0 ≤ 1024) && bits w3 63 17 = 0 && dOp b 4 = 0 && dOp b 5 = 0

/-- One query of a result area, checked (R384). -/
def gReadRes (k : Nat) (d : List Byte) : Option GRes :=
  let n := fieldLE d 0 4
  let fl := fieldLE d 4 1
  let item := fun (i : Nat) => (fieldLE d (16 + 16 * i) 4, fieldLE d (20 + 16 * i) 4, fieldLE d (24 + 16 * i) 8)
  if n ≤ k ∧ bits fl 7 4 = 0 ∧ fieldLE d 5 1 = 0 ∧ (List.range n).all (fun i => bits (item i).2.1 31 30 = 0) ∧
      ((List.range k).drop n).all (fun i => item i = (0x7F800000, 0xFFFFFFFF, 0)) then
    some { items := (List.range n).map fun i => { dist := (item i).1, slot := (item i).2.1, label := (item i).2.2 },
           scanned := bit fl 1, complete := bit fl 2, limit := bit fl 3, shards := fieldLE d 6 2, bad := fieldLE d 8 4,
           evals := fieldLE d 12 4 }
  else none

/-- One area merged into the results so far. -/
def mergeArea (e : Eng) (nq kin kout : Nat) (dedup : Bool) (va : Nat) (rs : List GRes) : Prog (List GRes) :=
  collect (fun (r, i) => do
    let d ← readDirect e (va + i * (16 + 16 * kin)) (16 + 16 * kin)
    match gReadRes kin d with
    | none => fail .invalid
    | some x =>
      pure ({ items := gMerge dedup kout r.items x.items, scanned := r.scanned || x.scanned,
              complete := r.complete && x.complete, limit := r.limit || x.limit,
              shards := (r.shards + x.shards) % 2 ^ 16, bad := sat32 (r.bad + x.bad),
              evals := sat32 (r.evals + x.evals) } : GRes)) (rs.take nq).zipIdx

/-- The areas of a list merged in order. -/
def mergeAreas (e : Eng) (b : List Byte) (nq kin kout : Nat) (dedup : Bool) : List GRes → List Nat → Prog (List GRes)
  | rs, [] => pure rs
  | rs, i :: is => do
    let va := leNat (← readDirect e (dOp b 0 + 8 * i) 8)
    need (isVa va) .invalid
    let rs' ← mergeArea e nq kin kout dedup va rs
    unitsDone (i + 1)
    mergeAreas e b nq kin kout dedup rs' is

/-- GKO_MERGE (R384). -/
def gkoMergeProg (e : Eng) (b : List Byte) : Prog Unit := do
  let n := bits (dOp b 2) 31 0
  let nq := bits (dOp b 2) 47 32
  let kin := bits (dOp b 2) 63 48
  let kout := bits (dOp b 3) 15 0
  rackOk e [(dOp b 0, 8 * n), (dOp b 1, nq * (16 + 16 * kout))]
  let rs ← mergeAreas e b nq kin kout (bit (dOp b 3) 16) (List.replicate nq {}) (List.range n)
  each (fun (r, qi) => do
    writeV e (dOp b 1 + qi * (16 + 16 * kout)) (gResBytes kout r) n false
    if r.items.length < kout then progress fun c => { c with result := c.result + 1, exhausted := true }) rs.zipIdx
  progress fun c => { c with undef := false }

end Sys2Proof.Machine
end

