-- ==== Sys2Proof/Machine/Emb.lean ====
section
/-! DEFINITION. Embedding tables (13): the directory and its drain counts, gathers and pooling, updates of rows at their
home, version switches. -/

namespace Sys2Proof.Machine

/-! ## Engines and the directory (R386 to R390, R404) -/

/-- Engine e may take work (R387). -/
def State.embReady (s : State) (e : Nat) : Bool :=
  let w := s.fld (Reg.EMB_CFG e) Reg.EMB_CFG_WORK
  let eng : Eng := ⟨.emb, Fin.ofNat 32 e⟩
  s.present eng && !s.isContained eng.part &&
  (List.range 10).all fun i =>
    let b := w / 2 ^ 21 + i
    let r := Reg.CADDY_OWN b
    decide (b / 1024 = e) && s.fld r Reg.CADDY_OWN_STATE = 1 && s.fld r Reg.CADDY_OWN_KIND = 3 && s.fld r Reg.CADDY_OWN_IDX = e

/-- A version record. -/
structure EVer where
  tbase : Nat
  rows : Nat
  version : Nat
  dim : Nat
  pitchLog : Nat
  rfmt : Nat

/-- The element format of a row format, its bytes of scale word, and its row bytes (R388). -/
def rowFmt (r : Nat) : Nat := [12, 13, 0, 1, 14, 16].getD r 16
def rowScale (r : Nat) : Nat := if r ≤ 1 then 4 else 0
def rowBytes (r dim : Nat) : Nat := rowScale r + dim * elemWidth (rowFmt r) / 8

/-- A version record's fields, if it is valid (R388). -/
def embVer (b : List Byte) : Option EVer :=
  let v : EVer := ⟨fieldLE b 0 8, fieldLE b 8 4, fieldLE b 12 4, fieldLE b 16 2, bits (fieldLE b 18 1) 3 0, bits (fieldLE b 19 1) 2 0⟩
  if isVa v.tbase ∧ v.tbase % 4096 = 0 ∧ 1 ≤ v.rows ∧ gDimOk v.dim ∧ 6 ≤ v.pitchLog ∧ v.pitchLog ≤ 12 ∧
      bits (fieldLE b 18 1) 7 4 = 0 ∧ v.rfmt ≤ 5 ∧ bits (fieldLE b 19 1) 7 3 = 0 ∧ fieldLE b 20 8 = 0 ∧
      rowBytes v.rfmt v.dim ≤ 2 ^ v.pitchLog then some v
  else none

/-- The record of a directory entry. -/
def verOf (b : List Byte) (i : Bool) : List Byte := (b.drop (if i then 36 else 8)).take 28

/-- CUR of a directory entry. -/
def embCur (b : List Byte) : Bool := bit (fieldLE b 0 1) 1

/-- The drain count of a record. -/
def drainKey (t : Nat) (ver : Bool) : Nat := 2 * t + ver.toNat
def State.drainOf (s : State) (t : Nat) (ver : Bool) : Nat := SMap.get s.eng.drain (drainKey t ver) 0

/-- The store address of a directory entry. -/
def State.embEntryAt (s : State) (t : Nat) : Nat := s.fld Reg.EMB_TDIR Reg.EMB_TDIR_BASE * 2 ^ 16 + 64 * t

/-- A directory entry read whole, with R390's checks but that of the version. -/
def embEntry (t : Nat) : Prog (List Byte) := do
  let ctx ← myCtx
  let en ← look fun s => s.fld Reg.EMB_TDIR Reg.EMB_TDIR_EN
  need (en = 1) .invalid
  let a ← look fun s => s.embEntryAt t
  let r ← ok (← ownRead a 64)
  need (bit (fieldLE r.data 0 1) 0) .invalid
  need (bit (fieldLE r.data 0 1) 2 || decide (fieldLE r.data 2 2 = ctx)) .prot
  pure r.data

/-- The version that a descriptor uses, counted in the step that read it: an entry that has changed since its read is
read again (R390, R404). -/
def embUse (t : Nat) (inactive : Bool) : Nat → Prog EVer
  | 0 => fail .invalid
  | fuel + 1 => do
    let b ← embEntry t
    let i := embCur b != inactive
    match embVer (verOf b i) with
    | none => fail .invalid
    | some v =>
      let a ← act .ready fun id s =>
        let same := match s.homeOf (s.embEntryAt t) with
          | some (_, l) => decide (s.readLine (l / 64) = b)
          | none => true
        if !same then s.deliver id { val := 0 }
        else
          let k := drainKey t i
          (({ s with eng := { s.eng with drain := SMap.set s.eng.drain k (SMap.get s.eng.drain k 0 + 1) 0 } } : State).setFan id
            { s.fan id with drain := some k }).deliver id { val := 1 }
      if a.val = 1 then pure v else embUse t inactive fuel

/-! ## Rows (R388, R394 to R396) -/

/-- A row's lanes from its bytes. -/
def rowLanes (r dim : Nat) (d : List Byte) : List Nat :=
  decodeLanes (rowFmt r) (unpack (elemWidth (rowFmt r)) dim (d.drop (rowScale r))) (d.take (rowScale r))

/-- A row's bytes from its lanes, padded to the pitch (R409). -/
def rowImage (r pitch : Nat) (lanes : List Nat) : List Byte :=
  let c := rowFmt r
  let (d, sc, _) := encodeLanes c (decide (r = 2) || decide (r = 3)) lanes
  fitBytes pitch (sc ++ d)

/-- Statuses that fail one row (R400). -/
def rowFailure (st : Status) : Bool := mediumFailure st || st = .revoked

/-- A term with the place of its row. -/
structure ETerm where
  bag : Nat
  row : Nat
  w : Nat
  occ : Nat
  tgt : Target := .store 0
  home : Option Nat := none

/-- A partial: bag, lanes, occurrences. -/
abbrev EPart := Nat × List Nat × Nat

/-- A row pooled into a bag's partial (R396): `max` for MAX, else SUM of products rounded. -/
def poolInto (max : Bool) (ps : List EPart) (bag : Nat) (lanes : List Nat) (occ : Nat) : List EPart :=
  match ps.find? fun p => p.1 = bag with
  | none => ps ++ [(bag, lanes, occ)]
  | some p =>
    let l := List.zipWith (if max then max32 else add32) p.2.1 lanes
    ps.map fun q => if q.1 = bag then (bag, l, p.2.2 + occ) else q

/-- The lanes that a term adds. -/
def termLanes (max : Bool) (w : Nat) (lanes : List Nat) : List Nat := if max then lanes else lanes.map (mul32 w)

/-- A combining table, the most recently used row first (R395): each row's lanes, or the status with which its read failed. -/
abbrev ETable := List (Nat × Except Status (List Nat))

/-- What pooling a list of terms on one engine has given: partials, the combining table, rows failed, rows covered, and the
refusal that ended it. -/
structure EPool where
  parts : List EPart := []
  table : ETable := []
  failed : List (Nat × Status) := []
  rows : Nat := 0
  refused : Option Status := none

/-- A row read whole at a target. -/
def readRow (t : Target) (n : Nat) (keep : Bool) : Prog (Except Status (List Byte)) := do
  match ← attempt (readRange t n keep) with
  | .ok l => pure (.ok l)
  | .error (st, _, _) => pure (.error st)

/-- An embedding engine reaches its workspace (R224, R387). -/
def eWork (e : Eng) (work : Nat) : Prog Unit := workGate e ((List.range 10).map fun i => work + i * 2 ^ 21)

/-- One term pooled through the combining table (R395, R400, R401). -/
def poolTerm (e : Eng) (work : Nat) (max keep : Bool) (rfmt dim : Nat) (p : EPool) (t : ETerm) : Prog EPool := do
  if p.refused.isSome then pure p
  else
    eWork e work
    let use := fun (p : EPool) (l : List Nat) => { p with parts := poolInto max p.parts t.bag (termLanes max t.w l) t.occ }
    match p.table.find? fun x => x.1 = t.row with
    | some x => do
      effect fun s => s.bump (Reg.EMB_CNT e.idx.val) Reg.EMB_CNT_JOINS t.occ
      let p := { p with table := x :: p.table.filter fun y => y.1 ≠ t.row }
      match x.2 with
      | .ok l => pure (use p l)
      | .error _ => pure p
    | none => do
      effect fun s => (s.bump (Reg.EMB_CNT e.idx.val) Reg.EMB_CNT_READS 1).bump (Reg.EMB_CNT e.idx.val) Reg.EMB_CNT_JOINS (t.occ - 1)
      match ← readRow t.tgt (rowBytes rfmt dim) keep with
      | .ok d =>
        let l := rowLanes rfmt dim d
        pure (use { p with table := ((t.row, Except.ok l) :: p.table).take 4096, rows := p.rows + 1 } l)
      | .error st =>
        if rowFailure st then
          pure { p with table := ((t.row, Except.error st) :: p.table).take 4096,
                        failed := if p.failed.any (fun x => x.1 = t.row) then p.failed else p.failed ++ [(t.row, st)] }
        else pure { p with refused := some st }

/-- Terms pooled in turn. -/
def poolTerms (e : Eng) (work : Nat) (max keep : Bool) (rfmt dim : Nat) : EPool → List ETerm → Prog EPool
  | p, [] => pure p
  | p, t :: ts => do
    let p' ← poolTerm e work max keep rfmt dim p t
    poolTerms e work max keep rfmt dim p' ts

/-- Where an embedding engine's workspace begins for the work that it takes now (R387). -/
def embWork (e : Eng) : Prog Nat := do
  let a ← change fun s => (s, { val := s.fld (Reg.EMB_CFG e.idx.val) Reg.EMB_CFG_WORK })
  pure a.val

/-! ## A gather's subrequest at its home (R397, R400) -/

/-- An engine that may serve a context's subrequest. -/
def embEngine (ctx : Nat) : Prog Eng := do
  needUnit .emb ctx
  let a ← change fun s =>
    let es := (List.range 2).filter fun e => s.embReady e && s.worldOk ⟨.emb, Fin.ofNat 32 e⟩ ctx
    let (c, s') := s.choose es.length
    match es[c]? with
    | some e => (s', { val := e })
    | none => (s, { val := 2 })
  need (a.val ≠ 2) .unsupported
  let e : Eng := ⟨.emb, Fin.ofNat 32 a.val⟩
  let _ ← act .ready fun id s => (s.setTask id { (s.task id) with eng := some e }).deliver id {}
  pure e

/-- The home's side of a pooled gather. -/
def embHome (m : Msg) (max : Bool) (rfmt dim : Nat) (terms : List EmbTerm) : Prog Report := do
  admitted m (terms.map fun t => (t.addr, rowBytes rfmt dim)) false
  let e ← embEngine m.hdr.ctx.toNat
  let work ← embWork e
  let p ← poolTerms e work max true rfmt dim {} (terms.map fun t =>
    { bag := t.bag, row := t.row, w := t.w.toNat, occ := t.occ, tgt := .store t.addr })
  match p.refused with
  | some st => fail st
  | none =>
    match p.failed with
    | (_, st) :: _ =>
      if p.failed.length > 8 then pure (.missing st)
      else pure (.emb (p.parts.map fun x => ⟨x.1, x.2.1.map (BitVec.ofNat 32), x.2.2⟩) p.rows p.failed)
    | [] => pure (.emb (p.parts.map fun x => ⟨x.1, x.2.1.map (BitVec.ofNat 32), x.2.2⟩) p.rows [])

/-! ## EMB_GATHER at its coordinator (R391 to R403) -/

def egPool (b : List Byte) : Nat := bits (dSubop b) 1 0
def egOwner (b : List Byte) : Bool := bit (dSubop b) 2
def egHelp (b : List Byte) : Bool := bit (dSubop b) 3
def egIw (b : List Byte) : Nat := if bit (dSubop b) 4 then 8 else 4
def egOfmt (b : List Byte) : Nat := bits (dSubop b) 7 6
def egNb (b : List Byte) : Nat := bits (dOp b 5) 31 0
def egTable (b : List Byte) : Nat := bits (dOp b 5) 41 32
def egTmo (b : List Byte) : Nat := bits (dOp b 5) 63 48

/-- R391, with the ranges of the operand table. -/
def embGatherOk (b : List Byte) : Bool :=
  dEng b = 0xFF && egPool b ≠ 3 && egOfmt b ≠ 3 && (egPool b ≠ 0 || (!egOwner b && dOp b 1 = 0)) &&
  decide (dOp b 4 % 64 = 0) && dOp b 4 ≠ 0 && dOp b 3 ≠ 0 && (List.range 5).all (fun k => isVa (dOp b k)) &&
  bits (dOp b 5) 47 42 = 0 && decide (1 ≤ egNb b) && decide (egNb b ≤ (if egPool b = 0 then 16777216 else 65536))

/-- The offsets of the bags (R392). -/
def offsetsOk (l : List Nat) : Bool :=
  l.headD 1 = 0 && (l.zip (l.drop 1)).all (fun x => decide (x.1 ≤ x.2)) && decide (l.getLastD 0 ≤ 16777216)

/-- The occurrences of one bag combined into terms (R394): at most 4 096 are held, the oldest leaves first. -/
def combineBag (max : Bool) (bag : Nat) : List (Nat × Nat) → List ETerm → List ETerm → List ETerm
  | [], done_, live => done_ ++ live
  | (r, w) :: rest, done_, live =>
    if live.any fun t => t.row = r then
      combineBag max bag rest done_ (live.map fun t =>
        if t.row = r then { t with w := if max then t.w else add32 t.w w, occ := t.occ + 1 } else t)
    else
      let n : ETerm := { bag := bag, row := r, w := w, occ := 1 }
      if live.length ≥ 4096 then combineBag max bag rest (done_ ++ live.take 1) (live.drop 1 ++ [n])
      else combineBag max bag rest done_ (live ++ [n])

/-- What a gather has so far: homes missing, failed rows by home, homes whose rows the coordinator pools, whether a row
was covered, batches not yet written, and the coordinator's combining table, which lives as long as the descriptor (R395). -/
structure EGather where
  missing : List (Nat × Status) := []
  failed : List (Nat × Nat × Status) := []
  helped : List Nat := []
  covered : Bool := false
  pend : List (Nat × List EPart) := []
  table : ETable := []

/-- A home goes missing, once. -/
def EGather.miss (g : EGather) (h : Nat) (st : Status) : EGather :=
  if g.missing.any fun x => x.1 = h then g else { g with missing := g.missing ++ [(h, st)] }

/-- The outcome of one home's terms of a batch: its partials, unless it is missing now (R400, R401). Number 32 stands
for host memory, which is no home. -/
def EGather.take (g : EGather) (h : Nat) (parts : List EPart) (failed : List (Nat × Status)) : EGather × List EPart :=
  let new := failed.filter fun (x : Nat × Status) => !(g.failed.any fun y => y.1 = h && y.2.1 = x.1)
  let g := { g with failed := g.failed ++ new.map fun (x : Nat × Status) => (h, x.1, x.2) }
  let mine : List (Nat × Nat × Status) := g.failed.filter fun x => x.1 = h
  if h < 32 ∧ mine.length > 8 then (g.miss h ((mine.head?.map fun x => x.2.2).getD .poison), [])
  else ({ g with covered := g.covered || !parts.isEmpty }, parts)

/-- The home number of a term: 32 for host memory. -/
def ETerm.homeNo (t : ETerm) : Nat := t.home.getD 32

/-- Terms that the coordinator's own engine pools, home by home (R397, R398, R401). -/
def poolHere (e : Eng) (work : Nat) (b : List Byte) (v : EVer) (ts : List ETerm) : EGather → List Nat → Prog (EGather × List EPart)
  | g, [] => pure (g, [])
  | g, h :: hs => do
    if g.missing.any fun x => x.1 = h then poolHere e work b v ts g hs
    else
      let p ← poolTerms e work (egPool b = 2) false v.rfmt v.dim { table := g.table } (ts.filter fun t => t.homeNo = h)
      let g := { g with table := p.table }
      let (g, ps) := match p.refused with
        | some st => (g.miss h st, [])
        | none => g.take h p.parts p.failed
      let (g', rest) ← poolHere e work b v ts g hs
      pure (g', ps ++ rest)

/-- The partials of a home's answer. -/
def FanPart.partials (p : FanPart) : List EPart :=
  match p.got with
  | some (.emb l _ _) => l.map fun x => (x.bag, x.lanes.map BitVec.toNat, x.count)
  | _ => []

/-- The answers of a batch's homes taken up: homes missing, or left to the coordinator (R336, R397). -/
def takeParts (help : Bool) (parts : List FanPart) (g : EGather) (hs : List Nat) : EGather :=
  hs.foldl (fun g h =>
    let mine := parts.filter fun p => p.dst = h
    match mine.findSome? fun p => p.missing with
    | some st => if help ∧ st = .unsupported then { g with helped := g.helped ++ [h] } else g.miss h st
    | none =>
      (g.take h (mine.flatMap FanPart.partials) (mine.flatMap fun p => match p.got with | some (.emb _ _ f) => f | _ => [])).1) g

/-- The partials of the homes that are not missing, in the order in which they were answered (R294, R397). -/
def arrived (f : Fan) (g : EGather) : List EPart :=
  (f.order.filter fun i => f.waitFrom ≤ i).flatMap fun i => match f.parts[i]? with
    | some p => if (g.missing.any fun x => x.1 = p.dst) || g.helped.contains p.dst then [] else p.partials
    | none => []

/-- The homes of a list of terms, ascending, host memory last. -/
def homesOf (ts : List ETerm) : List Nat := (List.range 33).filter fun h => ts.any fun t => t.homeNo = h

/-- The terms' rows, each with its target and home (R390, R397). -/
def locateRows (e : Eng) (b : List Byte) (v : EVer) (ts : List ETerm) : Prog (List ETerm) :=
  stable (collect (fun (t : ETerm) => do
    let va := v.tbase + t.row * 2 ^ v.pitchLog
    need (isVa va) .invalid
    let w := if egPool b = 1 then t.w else 0x3F800000
    match ← translate e va .read false with
    | .host h p => pure { t with tgt := .host h p, home := none, w := w }
    | .store a => do
      let h ← look fun s => match s.homeOf a with | some (m, _) => m | none => 32
      need (h ≠ 32) .invalid
      pure { t with tgt := .store a, home := some h, w := w }) ts)

/-- The terms of one batch of bags pooled: partials of every bag, merged (R397, R399). Their rows are translated anew for the
batch (R57); where one no longer translates, the descriptor ends with PROGRESS 0 (R398). -/
def gatherBatch (e : Eng) (work : Nat) (b : List Byte) (v : EVer) (ts : List ETerm) (g : EGather) :
    Prog (EGather × List EPart) := do
  let ts ← match ← attempt (locateRows e b v ts) with
    | .ok ts => pure ts
    | .error (st, c, _) => do
      progress fun x => { x with undef := x.undef || decide (0 < x.progress), progress := 0 }
      failCode st c
  let me_ ← look fun s => s.module
  let away := fun (g : EGather) (t : ETerm) => egOwner b && decide (t.homeNo < 32) && t.homeNo ≠ me_ && !g.helped.contains t.homeNo
  let out := ts.filter fun t => away g t && !(g.missing.any fun x => x.1 = t.homeNo)
  let (g, ps) ← if out.isEmpty then pure (g, []) else do
    fanOut (egTmo b) ((homesOf out).flatMap fun h =>
      let l := out.filter fun t => t.homeNo = h
      (chunks 512 l.length l).map fun c => (h, c.length, Work.emb (egPool b = 2) v.rfmt v.dim (c.map fun t =>
        ⟨t.bag, t.row, (match t.tgt with | .store a => a | .host .. => 0), BitVec.ofNat 32 t.w, t.occ⟩)))
    let f ← myFan
    let g := takeParts (egHelp b) (f.parts.drop f.waitFrom) g (homesOf out)
    pure (g, arrived f g)
  let here := ts.filter fun t => !away g t
  let (g, qs) ← poolHere e work b v here g (homesOf here)
  pure (g, (ps ++ qs).foldl (fun acc x => poolInto (egPool b = 2) acc x.1 x.2.1 x.2.2) [])

/-- The output bytes of one bag (R396). -/
def bagBytes (ofmt dim : Nat) (p : Option EPart) : List Byte :=
  let c := [16, 14, 0].getD ofmt 16
  match p with
  | none => List.replicate (dim * elemWidth c / 8) 0
  | some x => (encodeLanes c true x.2.1).1

/-- One batch written: rows and count records (R393, R399). `occ` gives a bag's occurrences and those dropped. -/
def writeBatch (e : Eng) (b : List Byte) (v : EVer) (occ : Nat → Nat × Nat) (first n : Nat) (ps : List EPart) : Prog Unit := do
  let ob := v.dim * elemWidth ([16, 14, 0].getD (egOfmt b) 16) / 8
  each (fun i => do
    let bag := first + i
    let p := ps.find? fun x => x.1 = bag
    writeV e (dOp b 3 + bag * ob) (bagBytes (egOfmt b) v.dim p) bag false
    if egPool b ≠ 0 then
      let (all, dropped) := occ bag
      let pooled := match p with | some x => x.2.2 | none => 0
      writeV e (dOp b 4 + 16 * bag) (natLE 4 pooled ++ natLE 4 dropped ++ natLE 4 (all - dropped - pooled) ++ natLE 4 0)
        bag false) (List.range n)
  unitsDone (first + n)

/-- Batches written in order. -/
def writeBatches (e : Eng) (b : List Byte) (v : EVer) (occ : Nat → Nat × Nat) : List (Nat × List EPart) → Prog Unit
  | [] => pure ()
  | (first, ps) :: rest => do
    writeBatch e b v occ first (min 256 (egNb b - first)) ps
    writeBatches e b v occ rest

/-- Batch after batch (R399); what is written waits until a row has been covered (R402). -/
def gatherLoop (e : Eng) (work : Nat) (b : List Byte) (v : EVer) (occ : Nat → Nat × Nat) (ts : List ETerm) : List Nat → EGather → Prog EGather
  | [], g => pure g
  | k :: ks, g => do
    let first := 256 * k
    let (g, ps) ← gatherBatch e work b v (ts.filter fun t => first ≤ t.bag ∧ t.bag < first + 256) g
    let pend := g.pend ++ [(first, ps)]
    if g.covered then do
      writeBatches e b v occ pend
      gatherLoop e work b v occ ts ks { g with pend := [] }
    else gatherLoop e work b v occ ts ks { g with pend := pend }

/-- A list cut into bags by offsets. -/
def cutBags {α : Type} (l : List α) : List Nat → List (List α)
  | a :: b :: rest => ((l.drop a).take (b - a)) :: cutBags l (b :: rest)
  | _ => []

/-- The coverage list (R402). -/
def embCov (rack me_ : Nat) (ts : List ETerm) (g : EGather) : List (List Byte) :=
  let real := (homesOf ts).filter (· < 32)
  let hostBad := g.failed.filter fun x => x.1 = 32
  let hs := (List.range 32).filter fun h => real.contains h || (h = me_ && !hostBad.isEmpty)
  (hs.foldl (fun (l, n) h =>
    let miss := (g.missing.find? fun x => x.1 = h).map (·.2)
    let rows := ((ts.filter fun t => t.homeNo = h).map (·.row)).eraseDups.length
    let bad := (if miss.isSome then [] else g.failed.filter fun x => x.1 = h) ++ (if h = me_ then hostBad else [])
    let es := ((bad.mergeSort fun x y => decide (x.2.1 ≤ y.2.1)).take (256 - n)).map fun x => covEntry 1 x.2.2 rack h x.2.1 0
    (l ++ covEntry 0 (miss.getD .ok) rack h rows 0 :: es, n + es.length)) (([] : List (List Byte)), 0)).1

/-- EMB_GATHER. -/
def embGatherProg (e : Eng) (b : List Byte) : Prog Unit := do
  let v ← embUse (egTable b) (bit (dSubop b) 5) (← retries)
  let work ← embWork e
  let nb := egNb b
  let pool := egPool b
  let recs := if pool = 0 then 0 else 16 * nb
  rackOk e [(dOp b 1, if pool = 0 then 0 else 4 * (nb + 1)), (dOp b 3, nb * (bagBytes (egOfmt b) v.dim none).length),
    (dOp b 4, recs + 16)]
  let offs ← if pool = 0 then pure (List.range (nb + 1)) else do
    let d ← readDirect e (dOp b 1) (4 * (nb + 1))
    pure (unpack 32 (nb + 1) d)
  need (offsetsOk offs) .invalid
  let total := offs.getLastD 0
  rackOk e [(dOp b 0, total * egIw b), (dOp b 2, if dOp b 2 = 0 ∨ pool ≠ 1 then 0 else 4 * total)]
  let idx ← readDirect e (dOp b 0) (total * egIw b)
  let ws ← if dOp b 2 = 0 ∨ pool ≠ 1 then pure (List.replicate total 0x3F800000) else do
    let d ← readDirect e (dOp b 2) (4 * total)
    pure (unpack 32 total d)
  let bags := cutBags ((unpack (8 * egIw b) total idx).zip ws) offs
  let occ := fun (i : Nat) =>
    let l := bags.getD i []
    (l.length, (l.filter fun x => decide (v.rows ≤ x.1)).length)
  let dropped := (idx.length / egIw b) - ((bags.flatten.filter fun x => decide (x.1 < v.rows)).length)
  let raw := bags.zipIdx.flatMap fun (l, i) => combineBag (pool = 2) i (l.filter fun x => decide (x.1 < v.rows)) [] []
  let ts ← locateRows e b v raw
  rackOk e [(dOp b 4, recs + 16 * ((homesOf ts).length + 1 + min 256 ts.length))]
  progress fun c => { c with result := sat32 dropped, dropped := decide (0 < dropped) }
  let g ← gatherLoop e work b v occ ts (List.range ((nb + 255) / 256)) {}
  let f ← myFan
  progress fun c => { c with result := sat32 dropped + f.homesSent * 2 ^ 48 }
  let bad := !g.missing.isEmpty || !g.failed.isEmpty
  let rack ← look fun s => s.rack
  let me_ ← look fun s => s.module
  if bad ∧ !g.covered then
    match (homesOf ts).findSome? fun h => (g.missing.find? fun x => x.1 = h).map (·.2) with
    | some st => fail st
    | none => fail ((g.failed.head?.map fun x => x.2.2).getD .ok)
  else do
    writeBatches e b v occ g.pend
    if bad then do
      let cov := embCov rack me_ ts g
      writeV e (dOp b 4 + recs) cov.flatten nb false
      progress fun c => { c with coverage := true, result := c.result + cov.length * 2 ^ 32 }
      unitsDone nb
      fail .part
    else unitsDone nb

/-! ## EMB_SWITCH (R405 to R407) -/

/-- Check 4 of R128 for EMB_SWITCH, and R405's check of NEWVER. -/
def embSwitchOk (b : List Byte) : Bool :=
  let new := (b.drop 24).take 28
  decide (dSubop b ≤ 2) && bits (dOp b 0) 15 10 = 0 && bits (dOp b 0) 63 16 = 0 && leNat ((b.drop 52).take 12) = 0 &&
  (if dSubop b = 2 then leNat new = 0 else (embVer new).isSome)

/-- A wait until the drain count of a record is 0. -/
def waitDrain (t : Nat) (ver : Bool) : Prog Unit := do
  let _ ← act .reports fun id s => if s.drainOf t ver = 0 then s.deliver id {} else s
  pure ()

/-- RESULT: the count taken, and the VERSION now current (R407). -/
def switchResult (count version : Nat) : Prog Unit :=
  progress fun c => { c with result := count % 2 ^ 32 + version * 2 ^ 32 }

/-- VERSION of the record that an entry selects. -/
def curVersion (b : List Byte) : Nat := fieldLE (verOf b (embCur b)) 12 4

/-- A directory entry whose inactive record nothing uses, awaited: where a switch or a gather has come between, the entry is
read and its record awaited again (R406). -/
def awaitInactive (t : Nat) : Nat → Prog (List Byte)
  | 0 => fail .invalid
  | fuel + 1 => do
    let d0 ← embEntry t
    switchResult 0 (curVersion d0)
    waitDrain t (!embCur d0)
    let d ← embEntry t
    let n ← look fun s => s.drainOf t (!embCur d)
    if embCur d = embCur d0 ∧ n = 0 then pure d else awaitInactive t fuel

/-- RESULT when an EMB_SWITCH completes, with the VERSION that is current by then (R407). -/
def switchDone (t n : Nat) : Prog Unit := do
  let a ← look fun s => s.embEntryAt t
  let d ← ok (← ownRead a 64)
  switchResult n (curVersion d.data)

/-- EMB_SWITCH SUBOP 0 and 1: the entry is written whole with NEWVER and CUR inverted (R406). -/
def embInstall (b : List Byte) (drain : Bool) : Prog Unit := do
  let t := bits (dOp b 0) 9 0
  let new := (b.drop 24).take 28
  let d ← awaitInactive t (← retries)
  let cur := embCur d
  let a ← look fun s => s.embEntryAt t
  let n ← look fun s => s.drainOf t cur
  let img := spliceBytes (spliceBytes d (if cur then 8 else 36) new) 0
    [BitVec.ofNat 8 (putBit (fieldLE d 0 1) 1 (!cur))]
  let w ← ownWrite a img
  let _ ← ok w
  switchResult n (fieldLE new 12 4)
  if drain then do
    waitDrain t cur
    switchDone t n

/-- EMB_SWITCH SUBOP 2 (R407). -/
def embWait (b : List Byte) : Prog Unit := do
  let t := bits (dOp b 0) 9 0
  let d ← embEntry t
  let n ← look fun s => s.drainOf t (embCur d)
  switchResult n (curVersion d)
  waitDrain t (!embCur d)
  switchDone t n

/-! ## EMB_UPDATE (R408 to R411) -/

def euTable (b : List Byte) : Nat := bits (dOp b 0) 9 0
def euN (b : List Byte) : Nat := bits (dOp b 0) 63 32
def euBf16 (b : List Byte) : Bool := bit (dOp b 0) 17

/-- Check 4 of R128 for EMB_UPDATE. -/
def embUpdateOk (b : List Byte) : Bool :=
  dSubop b = 0 && bits (dOp b 0) 15 10 = 0 && bits (dOp b 0) 31 18 = 0 && decide (1 ≤ euN b) && decide (euN b ≤ 1048576) &&
  isVa (dOp b 1) && decide (dOp b 1 % 64 = 0) && dOp b 2 = 0 && dOp b 3 = 0 && dOp b 4 = 0 && dOp b 5 = 0

/-- One update record: its home and update, or none when it is dropped (R408). -/
def updRecord (e : Eng) (b : List Byte) (v : EVer) (i : Nat) : Prog (Option (Nat × EmbUpd)) := do
  let w := if euBf16 b then 2 else 4
  let n := 16 + v.dim * w
  let stride := (n + 63) / 64 * 64
  let d ← readDirect e (dOp b 1 + i * stride) n
  need (decide (fieldLE d 4 1 ≤ 1) && leNat ((d.drop 5).take 11) = 0) .invalid
  let row := fieldLE d 0 4
  if row ≥ v.rows then do
    progress fun c => { c with dropped := true }
    pure none
  else
    let va := v.tbase + row * 2 ^ v.pitchLog
    need (isVa va) .invalid
    match ← translate e va .write false with
    | .host .. => fail .invalid
    | .store a => do
      let h ← look fun s => match s.homeOf a with | some (m, _) => m | none => 32
      need (h ≠ 32) .invalid
      let vals := (unpack (8 * w) v.dim (d.drop 16)).map fun c => if euBf16 b then ofBf16 c else c
      pure (some (h, ⟨row, a, fieldLE d 4 1 = 1, vals.map (BitVec.ofNat 32)⟩))

/-- The records of a batch, by home, with their places in the batch. -/
def updsFor (recs : List (Option (Nat × EmbUpd))) (h : Nat) : List (Nat × EmbUpd) :=
  recs.zipIdx.filterMap fun (r, i) => match r with | some (g, u) => if g = h then some (i, u) else none | none => none

/-- The lowest failed place of a batch with its status and home, and whether its own store may have been issued. -/
def lowestFailed (recs : List (Option (Nat × EmbUpd))) (parts : List FanPart) : Option (Nat × Status × Nat × Bool) :=
  (parts.filterMap fun p =>
    let places := (updsFor recs p.dst).map (·.1)
    match p.got with
    | some (.update n st u) => if st = .ok then none else some (places.getD n 0, st, p.dst, u)
    | _ =>
      let st := p.missing.getD .timeout
      some (places.getD 0 0, st, p.dst, st = .aborted || st = .lostState || st = .timeout)).foldl
      (fun (a : Option (Nat × Status × Nat × Bool)) x =>
        match a with | none => some x | some y => if x.1 < y.1 then some x else a) none

/-- Batches of 64 records, each forwarded to its rows' homes (R408, R411). -/
def updateLoop (e : Eng) (b : List Byte) (v : EVer) : List Nat → Prog Unit
  | [] => pure ()
  | k :: ks => do
    let base := 64 * k
    let (recs, stop) ← stable (readItems (updRecord e b v) (min 64 (euN b - base)) base)
    let hs := (List.range 32).filter fun h => !(updsFor recs h).isEmpty
    if !hs.isEmpty then
      stored
      fanOut 0 (hs.map fun h => (h, (updsFor recs h).length, Work.embUpdate v.rfmt v.dim v.pitchLog ((updsFor recs h).map (·.2))))
      let f ← myFan
      match lowestFailed recs (f.parts.drop f.waitFrom) with
      | none => pure ()
      | some (i, st, h, u) => do
        unitsDone (base + i)
        if u || (recs.drop (i + 1)).any Option.isSome then stored
        failHome st h
    unitsDone (base + recs.length)
    match stop with
    | some (st, c) => failCode st c
    | none => updateLoop e b v ks

/-- EMB_UPDATE at its coordinator. -/
def embUpdateProg (e : Eng) (b : List Byte) : Prog Unit := do
  let v ← embUse (euTable b) (bit (dOp b 0) 16) (← retries)
  rackOk e [(dOp b 1, euN b * ((16 + v.dim * (if euBf16 b then 2 else 4) + 63) / 64 * 64))]
  updateLoop e b v (List.range ((euN b + 63) / 64))

/-- A subrequest whose row updates are all done goes on. -/
def State.rowNote (s : State) (sub : Nat) : State :=
  if (s.task sub).wait = .reports ∧ (s.eng.rows.filter fun r => r.sub = sub).all fun r => r.res.isSome then s.deliver sub {}
  else s

/-- Rows of a subrequest, none started. -/
def newRows (sub : Nat) (upds : List EmbUpd) : List RowUpd := upds.zipIdx.map fun (u, i) => { sub := sub, pos := i, addr := u.addr }

/-- A batch of an update at its home (R408, R409, R411). -/
def embUpdateHome (m : Msg) (pitchLog : Nat) (upds : List EmbUpd) : Prog Report := do
  admitted m (upds.map fun u => (u.addr, 2 ^ pitchLog)) true
  let _ ← embEngine m.hdr.ctx.toNat
  let _ ← act .reports fun id s =>
    ({ s with eng := { s.eng with rows := s.eng.rows ++ newRows id upds } } : State).rowNote id
  let id ← (fun r => (.ok r.id, r) : Prog Nat)
  let l ← peek fun s => (s.eng.rows.filter fun r => r.sub = id).map fun r => (r.pos, r.res.getD .ok, r.stored)
  match l.find? fun x => x.2.1 ≠ .ok with
  | none => pure (.update upds.length .ok false)
  | some (i, st, u) => pure (.update i st u)

/-- A record applied to a row's lanes (R409). -/
def applyUpd (l : List Nat) (u : EmbUpd) : List Nat :=
  let vals := u.vals.map BitVec.toNat
  if u.add then List.zipWith add32 l vals else vals

/-- A row's read-modify-write with every pending record of its subrequest (R409, R411): how each record ended. -/
def rowProg (rfmt dim pitchLog : Nat) (upds : List (Nat × EmbUpd)) : Prog (List (Nat × Status)) := do
  let lead : List (Nat × EmbUpd) := upds.takeWhile fun x => x.2.add
  let rest : List (Nat × EmbUpd) := upds.drop lead.length
  let a := ((upds.head?.map fun x => x.2.addr).getD 0)
  let start : Except Status (List Nat) ← if lead.isEmpty then pure (Except.ok []) else do
    match ← readRow (.store a) (rowBytes rfmt dim) true with
    | .ok d => pure (Except.ok (lead.foldl (fun l x => applyUpd l x.2) (rowLanes rfmt dim d)))
    | .error st => pure (Except.error st)
  let lanes : Option (List Nat) := match start, rest with
    | .error _, [] => none
    | .error _, r => some (r.foldl (fun l x => applyUpd l x.2) [])
    | .ok l, r => some (r.foldl (fun l x => applyUpd l x.2) l)
  let leadSt := match start with | .ok _ => Status.ok | .error st => st
  match lanes with
  | none => pure (upds.map fun x => (x.1, leadSt))
  | some l =>
    match ← attempt (writeS a (rowImage rfmt (2 ^ pitchLog) l) true) with
    | .ok () => pure (lead.map (fun x => (x.1, leadSt)) ++ rest.map fun x => (x.1, Status.ok))
    | .error (st, _, _) => pure (upds.map fun x => (x.1, st))

end Sys2Proof.Machine
end

