-- ==== Sys2Proof/Machine/Serve.lean ====
section
/-! DEFINITION. The home's side of fabric messages and of requests commanded at the home: checks, service, stream order
and answers (R25, R46, R123, R429, R430, R507, R570, R571). -/

namespace Sys2Proof.Machine

/-! ## Sources -/

/-- The module at the far end of a peer port (R413). -/
def State.peerOf (s : State) (p : Nat) : Nat := (s.module + 1 + p) % 32

/-- Who a message comes from, as check 1 of R46 sees it: a gateway stands for every source of another rack (R25). -/
def State.msgSrc (s : State) (p : Nat) (m : Msg) : ReqSrc :=
  if m.hdr.srcRack.toNat ≠ s.rack then .gateway (Fin.ofNat 32 (if p < 31 then s.peerOf p else s.module))
  else if m.hdr.srcAcc then .acc m.hdr.src.toFin
  else .peer m.hdr.src.toFin

/-! ## Requests -/

/-- A request checked at its home (R46, R76, R102): its module-local pieces, and whether the meter demoted it. -/
def admitRange (src : ReqSrc) (ctx epoch a len : Nat) (kind : AccessKind) (charge : Nat) :
    Prog (List (Nat × Nat) × Bool) := do
  let wr := decide (kind ≠ .read)
  let p ← ok (← change fun s =>
    match s.homeCheck src ctx epoch (a % 2 ^ 50) len wr with
    | .error st => (s, { st := st })
    | .ok ps => (s, { data := ps.flatMap fun (l, n) => natLE 8 l ++ natLE 8 n }))
  let ps := (chunks 16 p.data.length p.data).map fun x => (fieldLE x 0 8, fieldLE x 8 8)
  let c ← ok (← act .meter fun id s =>
    match s.meterCheck ctx (.task id false false) charge with
    | (s, .pass d) => s.deliver id { val := d.toNat }
    | (s, .refuse) => s.deliver id { st := .rate }
    | (s, .wait) => s)
  let _ ← ok (← change fun s => (s, { st := s.readmit ctx wr ps }))
  pure (ps, c.val = 1)

/-- The requests to chunks that module-local pieces make (R82): address, bytes, and how many bytes of the request lie before. -/
def chunksOf (ps : List (Nat × Nat)) : List (Nat × Nat × Nat) :=
  ((ps.flatMap fun (l, n) => cut 256 l n).foldl (fun (acc, off) (l, n) => (acc ++ [(l, n, off)], off + n))
    (([] : List (Nat × Nat × Nat)), 0)).1

/-- A read of a checked request's bytes. -/
def serveRead (src : ReqSrc) (ctx epoch a len : Nat) : Prog (List Byte × Bool) := do
  let (ps, d) ← admitRange src ctx epoch a len .read len
  let parts ← collect (fun (l, n, _) => do
    let rs ← collect ok (← readLines l n ctx)
    pure (rs.flatMap (·.data))) (chunksOf ps)
  pure (parts.flatten, d)

/-- A write of a checked request's bytes; the mask has a bit for each byte of the request. -/
def serveWrite (src : ReqSrc) (ctx epoch a : Nat) (mask : Nat) (data : List Byte) : Prog Bool := do
  let (ps, d) ← admitRange src ctx epoch a data.length .write (popcount data.length mask)
  each (fun (l, n, off) => do
    let bytes := popcount n (mask / 2 ^ off)
    let rs ← servedLines false (l / 256) (fun first (x, k) => do
      let at_ := off + (x - l)
      let m := mask / 2 ^ at_ % 2 ^ k * 2 ^ (x % 64)
      lineAccess x (.write m (List.replicate (x % 64) 0 ++ (data.drop at_).take k)) ctx (if first then bytes else 0)
        first) (cut 64 l n)
    let _ ← collect ok rs
    pure ()) (chunksOf ps)
  pure d

/-- Ticks for which an atomic's result is kept, and after which a message is given up (R432, R570). -/
def State.resendTicks (s : State) : Nat := us (max 1 (s.fld Reg.ZL_E2E_CFG Reg.ZL_E2E_CFG_RESEND))
def State.giveupTicks (s : State) : Nat := max (us (s.fld Reg.ZL_E2E_CFG Reg.ZL_E2E_CFG_GIVEUP)) (10 * s.resendTicks)

/-- The key of a source's stream at its destination (R429, R434). -/
def AtomKept.isFor (k : AtomKept) (h : MsgHdr) : Bool :=
  k.rack = h.srcRack.toNat && k.acc = h.srcAcc && k.src = h.src.toNat && k.stream = h.stream.toNat
def InStream.isFor (k : InStream) (h : MsgHdr) : Bool :=
  k.rack = h.srcRack.toNat && k.acc = h.srcAcc && k.src = h.src.toNat && k.stream = h.stream.toNat

/-- A place for an atomic's result: the oldest result goes when the store is full and GIVEUP has passed (R570). -/
def keepPlace : Prog Unit := do
  let _ ← act .held fun id s =>
    if s.fab.kept.length < 8192 then s.deliver id {}
    else
      match s.fab.kept with
      | k :: rest =>
        if k.at_ + s.giveupTicks < s.tick then
          ({ s with fab := { s.fab with kept := rest } } : State).deliver id {}
        else s
      | [] => s.deliver id {}
  pure ()

/-- An MSG_DISCARDED event of a port, by TYPE (R423, R428, R507). -/
def State.discarded (s : State) (p type : Nat) : State :=
  s.event .msgDiscarded { object := obj 9 (p % 50), cause := type }

/-- An ATOM at its home: the marker of poison (R506, R507), or an atomic whose old value is kept (R184, R570). It is performed as
it is accepted: the message does not say whether its source asks for PRECISE or for the old value, which R570 owes it (log 96). -/
def serveAtom (p : Nat) (h : MsgHdr) (src : ReqSrc) (a subop width op1 op2 : Nat) : Prog (Body × Bool) := do
  if subop = 0xFE then
    if h.srcAcc then
      effect fun s => s.discarded p 3
      fail .invalid
    else
      need (width = 64 && a % 64 = 0) .invalid
      let (ps, d) ← admitRange src h.ctx.toNat h.epoch.toNat a 64 .write 64
      let _ ← ok (← lineAccess (ps.headD (0, 0)).1 .poison h.ctx.toNat 64 true)
      pure (.ack, d)
  else
    need (decide (subop ≤ 0x0A) && (width = 4 || (width = 8 && subop ≠ 0x0A)) && decide (a % width = 0)) .invalid
    keepPlace
    let (ps, d) ← admitRange src h.ctx.toNat h.epoch.toNat a width .atomic 64
    let l := (ps.headD (0, 0)).1
    let r ← ok (← lineAccess l (.atomic subop width (l % 64) op1 op2) h.ctx.toNat width true)
    let old := BitVec.ofNat 64 r.val
    effect fun s => { s with fab := { s.fab with
      kept := s.fab.kept ++ [⟨h.srcRack.toNat, h.srcAcc, h.src.toNat, h.stream.toNat, h.seq.toNat, old, s.tick⟩] } }
    pure (.atomResult old, d)

/-- The report of a subrequest, by the work it carries (R335, R362, R373, R397, R408). -/
def workProg (m : Msg) (w : Work) : Prog Report :=
  match w with
  | .attn p qs pages => attnHome m p qs pages
  | .gko shard p _ _ => gkoHome m shard p
  | .gkoInsert shard lbuild upd more items => gkoInsertHome m shard lbuild upd more items
  | .gkoDelete shard upd more slots => gkoDeleteHome m shard upd more slots
  | .emb max rfmt dim terms => embHome m max rfmt dim terms
  | .embUpdate _ _ pitch upds => embUpdateHome m pitch upds

/-- The service of a message: its answer, and whether the meter demoted it (R445). -/
def msgProg (p : Nat) (m : Msg) (src : ReqSrc) : Prog (Body × Bool) := do
  let h := m.hdr
  match m.body with
  | .rd a n =>
    need (decide (1 ≤ n) && decide (n ≤ 4096)) .invalid
    let (d, dem) ← serveRead src h.ctx.toNat h.epoch.toNat a.toNat n
    pure (.rdData d, dem)
  | .wr a d =>
    let dem ← serveWrite src h.ctx.toNat h.epoch.toNat a.toNat (2 ^ d.length - 1) d
    pure (.ack, dem)
  | .wrMasked a mask d =>
    let dem ← serveWrite src h.ctx.toNat h.epoch.toNat a.toNat mask.toNat (fitBytes 64 d)
    pure (.ack, dem)
  | .atom a sub w o1 o2 => serveAtom p h src a.toNat sub.toNat w.toNat o1.toNat o2.toNat
  | .subreq w => do return (.report (← workProg m w), false)
  | .cancel tag => do
    let k ← look fun s => s.openUpdate h.src.toNat tag.toNat
    if k ≠ 0 then gkoClose (k - 1)
    pure (.ack, false)
  | _ => pure (.ack, false)

/-- An earlier store of a source, commanded at the home, is still under way (R173). -/
def State.storeBefore (s : State) (id : Nat) (src : ReqSrc) : Bool :=
  s.tasks.any fun t => decide (t.1 < id) && match t.2.kind with | .eng r (some _) => decide (r.src = src) | _ => false

/-- The service of a request commanded at the home (R46, R203): the answer for its source. A source's stores are served one
after another, in the order sent (R173; log 97). -/
def engProg (r : EngReq) (wr : Option (List Bool × List Byte)) : Prog Ans :=
  match wr with
  | none => do
    let (d, dem) ← serveRead r.src r.ctx.toNat r.epoch.toNat r.addr.toNat r.len
    pure { data := d, val := dem.toNat }
  | some (mask, data) => do
    let _ ← act .held fun id s => if s.storeBefore id r.src then s else s.deliver id {}
    let dem ← serveWrite r.src r.ctx.toNat r.epoch.toNat r.addr.toNat
      (maskOf ((List.range data.length).filter fun i => mask.getD i false)) data
    pure { val := dem.toNat }

/-! ## Doorbells (R120 to R123) -/

/-- Entries of a queue's submission and completion rings. -/
def State.sqLen (s : State) (q : Nat) : Nat := 2 ^ (6 + min (s.fld (Reg.Q_SQ_BASE q) Reg.Q_SQ_BASE_SIZE) 10)
def State.cqLen (s : State) (q : Nat) : Nat := 2 ^ (6 + min (s.fld (Reg.Q_CQ_BASE q) Reg.Q_CQ_BASE_SIZE) 10)

/-- What a queue holds beside its registers. -/
def State.queue (s : State) (q : Nat) : QueueState := SMap.get s.queues q {}
def State.setQueue (s : State) (q : Nat) (x : QueueState) : State := { s with queues := SMap.set s.queues q x {} }

/-- A doorbell's value taken: the last one acts (R120); one out of range only sets DB_RANGE (R121). The flag tells
whether it was taken. -/
def State.takeDoorbell (s : State) (q : Nat) (cq : Bool) (v : Nat) : State × Bool :=
  let v := v % 2 ^ 16
  if v ≥ (if cq then s.cqLen q else s.sqLen q) then (s.setFld (Reg.Q_STATE q) Reg.Q_STATE_DB_RANGE 1, false)
  else if cq then (s.setQueue q { s.queue q with cqHead := v }, true)
  else (s.setQueue q { s.queue q with dbTail := v }, true)

/-- A doorbell refused under R122. -/
def State.dropDoorbell (s : State) (q : Nat) : State := s.setFld (Reg.Q_STATE q) Reg.Q_STATE_DB_DROP 1

/-- A fabric doorbell: its answer (R123, R476). -/
def State.fabricDoorbell (s : State) (h : MsgHdr) (q : Nat) (cq : Bool) (v : Nat) : State × Body :=
  let cfg := fun f => s.fld (Reg.Q_CFG q) f
  let pos := h.src.toNat
  if ¬ bit (s.fld Reg.GLB_PART_MEMBERS Reg.GLB_PART_MEMBERS_ACCEL) pos ∨ ¬ h.srcAcc then
    (s.dropDoorbell q, .refuse .fenced)
  else if cfg Reg.Q_CFG_FAB_DB = 0 ∨ cfg Reg.Q_CFG_DB_POS ≠ pos ∨
      (cfg Reg.Q_CFG_WORLD = 1 ∧ ¬ s.secureCtx h.ctx.toNat) then (s.dropDoorbell q, .refuse .prot)
  else
    match s.takeDoorbell q cq v with
    | (s, true) => (s, .ack)
    | (s, false) => (s.dropDoorbell q, .refuse .invalid)

/-! ## Answers -/

/-- A response to a message that arrived on a port: back through the gateway for a source of another rack (R434). -/
def State.respondVia (s : State) (p : Nat) (m : Msg) (body : Body) (demoted : Bool) : State :=
  let h := m.hdr
  if h.srcRack.toNat ≠ s.rack ∧ p < 31 then
    let r : Msg := { hdr := { h with pri := h.pri && !demoted, transit := false, resend := false,
                                     src := BitVec.ofNat 5 s.module, srcAcc := false, srcRack := BitVec.ofNat 6 s.rack,
                                     dst := h.src, dstRack := h.srcRack }, body := body, bad := false }
    s.enqueue p r
  else s.respond m body demoted

/-- A CANCEL, which is not answered. -/
def isCancel (b : Body) : Bool := match b with | .cancel _ => true | _ => false

/-- The answer of a message served: to its source, or to this module's own coordinator. -/
def State.answerMsg (s : State) (p : Nat) (m : Msg) (r : Except Status (Body × Bool)) : State :=
  if isCancel m.body then s
  else if p = selfPort then
    s.fanAnswer s.module m.hdr.seq.toNat
      (match r with | .ok (.report x, _) => .ok x | .ok _ => .error .ok | .error st => .error st)
  else
    match r with
    | .ok (b, d) => s.respondVia p m b d
    | .error st => s.respondVia p m (.refuse st) false

/-! ## Stores in stream order (R429, R430, R432) -/

/-- A stream at its destination. -/
def State.inStream (s : State) (h : MsgHdr) : InStream :=
  (s.fab.ins.find? fun k => k.isFor h).getD
    { rack := h.srcRack.toNat, acc := h.srcAcc, src := h.src.toNat, stream := h.stream.toNat, expect := 0 }
def State.setIn (s : State) (k : InStream) : State :=
  { s with fab := { s.fab with
      ins := k :: s.fab.ins.filter fun x => !(x.rack = k.rack && x.acc = k.acc && x.src = k.src && x.stream = k.stream) } }

/-- Messages held early, over all streams. -/
def State.heldEarly (s : State) : Nat := (s.fab.ins.map fun k => k.held.length).sum

/-- Where a message that came through an uplink goes (R34, R434): none, it is served here; else the home to which the
gateway sends it on, or the status that refuses it (R25). -/
def State.gatewayHome (s : State) (p : Nat) (m : Msg) : Option (Except Status Nat) :=
  if p < 45 ∨ 48 < p then none
  else
    match m.body.addr.bind fun a => s.homeOf (a % 2 ^ 50) with
    | none => some (.error .invalid)
    | some (h, _) =>
      if h = s.module then none
      else if s.hallOpen ∧ s.member h then some (.ok h)
      else some (.error .fenced)

/-- The stream that a gateway keeps to a home for a source of another rack (R434). -/
def gatewayKey (h : MsgHdr) (home : Nat) : Nat :=
  2 ^ 20 + ((h.srcRack.toNat * 2 + h.srcAcc.toNat) * 32 + h.src.toNat) * 32 + home

/-- A message of another rack sent on to its home, as a transit message on the gateway's own stream and on the direct port
only (R427, R434); it is lost while that port is not UP, and R431 recovers it. -/
def State.gatewaySend (s : State) (p : Nat) (m : Msg) (home : Nat) : State :=
  let store := decide (m.body.cls = .store)
  let k := gatewayKey m.hdr home
  let seq := if store then SMap.get s.fab.outSeq k 0 else s.fab.tag
  let st := m.hdr.srcAcc.toNat
  let m' : Msg := { m with hdr := { m.hdr with
    transit := true, dst := BitVec.ofNat 5 home, dstRack := BitVec.ofNat 6 s.rack,
    stream := BitVec.ofNat 6 st, seq := BitVec.ofNat 24 seq } }
  let s := if s.portUp (s.peerPort home) then s.enqueue (s.peerPort home) m' else s
  let fab := if store then { s.fab with outSeq := SMap.set s.fab.outSeq k ((seq + 1) % 2 ^ 24) 0 }
    else { s.fab with tag := (s.fab.tag + 1) % 2 ^ 24 }
  let o : OutMsg := ⟨store, s.rack * 32 + home, st, seq, m', s.tick, s.tick, 0, none, some (p, m)⟩
  { s with fab := { fab with outs := fab.outs ++ [o] } }

/-- A store whose turn has come: a doorbell acts at once, one for a home beyond the gateway is sent on, any other becomes a
task. The flag tells whether it is done. -/
def State.beginStore (s : State) (p : Nat) (m : Msg) : State × Bool :=
  match m.body with
  | .doorbell q cq v =>
    let (s, b) := s.fabricDoorbell m.hdr q.toNat cq v.toNat
    (s.respondVia p m b false, true)
  | _ =>
    match s.gatewayHome p m with
    | some (.error st) => (s.respondVia p m (.refuse st) false, true)
    | some (.ok h) => (s.gatewaySend p m h, false)
    | none => ((s.addTask { kind := .msg p m, src := s.msgSrc p m, ctx := m.hdr.ctx.toNat, start := s.tick }).2, false)

/-- The stores of a stream whose turn has come, one after another, the next one only when its predecessor is done. -/
def State.runStream (h : MsgHdr) : Nat → State → State
  | 0, s => s
  | fuel + 1, s =>
    let k := s.inStream h
    if k.busy then s
    else
      match k.held.find? fun x => x.2.hdr.seq.toNat = k.expect with
      | none => s
      | some (p, m) =>
        let k := { k with held := k.held.filter fun x => x.2.hdr.seq ≠ m.hdr.seq }
        let (s, fin) := (s.setIn k).beginStore p m
        if fin then State.runStream h fuel (s.setIn { k with expect := (k.expect + 1) % 2 ^ 24 })
        else s.setIn { k with busy := true }

/-- A store has been answered: its SEQ is consumed and the next one may begin (R430). -/
def State.storeDone (s : State) (h : MsgHdr) : State :=
  let k := s.inStream h
  let next := if k.expect = h.seq.toNat then (k.expect + 1) % 2 ^ 24 else k.expect
  State.runStream h (k.held.length + 1) (s.setIn { k with busy := false, expect := next })

/-- A STORE-class message arrives at its destination (R429, R570). -/
def State.storeArrive (s : State) (p : Nat) (m : Msg) : State :=
  let h := m.hdr
  let k := s.inStream h
  let d := (h.seq.toNat + 2 ^ 24 - k.expect) % 2 ^ 24
  if d ≥ 2 ^ 23 then
    match m.body with
    | .atom _ sub _ _ _ =>
      if sub = 0xFE then s.respondVia p { m with hdr := { h with seq := BitVec.ofNat 24 (k.expect + 2 ^ 24 - 1) } } .ack false
      else
        match s.fab.kept.find? fun x => x.isFor h && x.seq = h.seq.toNat with
        | some x => s.respondVia p m (.atomResult x.old) false
        | none => s.respondVia p m (.refuse .timeout) false
    | _ => s.respondVia p { m with hdr := { h with seq := BitVec.ofNat 24 (k.expect + 2 ^ 24 - 1) } } .ack false
  else if (d = 0 ∧ k.busy) ∨ k.held.any (fun x => x.2.hdr.seq = h.seq) then s
  else if d ≠ 0 ∧ s.heldEarly ≥ 8192 then s
  else State.runStream h (k.held.length + 2) (s.setIn { k with held := k.held ++ [(p, m)] })

/-- A STREAM_RESET arrives (R432): held messages below its number go, the number is expected next. -/
def State.resetArrive (s : State) (p : Nat) (m : Msg) (first : Nat) : State :=
  let k := s.inStream m.hdr
  let below := fun (q : Nat) => decide ((q + 2 ^ 24 - first) % 2 ^ 24 ≥ 2 ^ 23)
  let s := s.setIn { k with expect := first, held := k.held.filter fun x => !below x.2.hdr.seq.toNat }
  let s := s.respondVia p { m with hdr := { m.hdr with seq := BitVec.ofNat 24 (first + 2 ^ 24 - 1) } } .ack false
  State.runStream m.hdr (k.held.length + 1) s

end Sys2Proof.Machine
end

