-- ==== Sys2Proof/Machine/Work.lean ====
section
/-! DEFINITION. Running work: the program of each task, its checks and its engine, how tasks run, end and are ended
(R126 to R135, R141 to R146, R157, R164, R165, R312, R477, R515, R516). -/

namespace Sys2Proof.Machine

/-! ## Checks and placement of a descriptor -/

/-- Check 4 of R128: ENG, the Tadpole's zero fields, and the operands. -/
def operandsOk (win : Nat) (d : FDesc) : Bool :=
  let b := d.normal
  (decide (dEng b < 32) || dEng b = 0xFF) && (!d.tad || tadpoleZero d.bytes) && plainOperandsOk win b &&
  (match dOpcode b with
   | 0x30 => attnOperandsOk b
   | 0x32 => blendOperandsOk b
   | 0x33 => kvOperandsOk b
   | 0x34 => ktlOperandsOk b
   | 0x40 => gkoOperandsOk b
   | 0x41 => gkoInsertOk b
   | 0x42 => gkoDeleteOk b
   | 0x43 => gkoMergeOk b
   | 0x50 => embGatherOk b
   | 0x51 => embUpdateOk b
   | 0x52 => embSwitchOk b
   | _ => true)

/-- The checks of R128 in their order. -/
def State.descCheck (s : State) (q : Nat) (d : FDesc) : Status :=
  let b := d.normal
  if !d.headerOk then .invalid
  else if !s.unitOk b then .unsupported
  else if maintOnly (dOpcode b) && !s.flag (Reg.Q_CFG q) Reg.Q_CFG_MAINT then .prot
  else if !operandsOk s.window d then .invalid
  else .ok

/-- The kind of engine that acts for an opcode: that of its unit, and a Newt for an ATOMIC (log 27). -/
def runsOn (opcode : Nat) : Option EngKind := if opcode = 0x20 then some .newt else unitOf opcode

/-- A Kettle runs one of these descriptors at a time, and the others wait at it (R296); a coordinator of ATTN_DECODE does not occupy
it. -/
def occupies (opcode : Nat) : Bool := opcode = 0x32 || opcode = 0x33 || opcode = 0x34

/-- The engines on which a descriptor may be placed now, none when it needs no engine; or the status that refuses it
(R4, R364, R387, R477). An idle Kettle is preferred where any may be taken. -/
def State.placing (s : State) (q : Nat) (b : List Byte) : Except Status (Option (List Eng)) :=
  match runsOn (dOpcode b) with
  | none => .ok none
  | some k =>
    let ctx := s.fld (Reg.Q_CFG q) Reg.Q_CFG_CTX
    let pool := if dEng b < 32 ∧ dOpcode b ≠ 0x20 then [⟨k, Fin.ofNat 32 (dEng b)⟩] else s.presentOf k
    let right := pool.filter fun e => s.worldOk e ctx
    let avail := if k = .emb then right.filter fun e => s.embReady e.idx.val || s.isContained e.part else right
    if pool.isEmpty then .error .unsupported
    else if right.isEmpty then .error .prot
    else if avail.isEmpty then .error .unsupported
    else
      let free := avail.filter fun e => !s.isContained e.part
      let idle := free.filter fun e => s.kettleIdle e.idx.val
      .ok (some (if occupies (dOpcode b) && !idle.isEmpty then idle else free))

/-! ## Programs -/

/-- The identifier of the program that a descriptor runs on the Kettle that it occupies (R317). -/
def progId (opcode : Nat) : Nat := if opcode = 0x32 then 4 else if opcode = 0x33 then 3 else 0

/-- The program of a descriptor on its engine: one that occupies a Kettle waits there for its turn (R296). -/
def descProg (e : Eng) (q : Nat) (b : List Byte) : Prog Unit := do
  if occupies (dOpcode b) then enterKettle e.idx.val (progId (dOpcode b))
  if engHasSteep e && runsOn (dOpcode b) ≠ none then
    startOn e q
    if dOpcode b = 0x34 then startOn ⟨.newt, e.idx⟩ q
  match dOpcode b with
  | 0x02 => acquireProg e q b
  | 0x03 => releaseProg e q b
  | 0x04 => rangeProg q b false
  | 0x05 => rangeProg q b true
  | 0x10 => copyProg e b
  | 0x11 => copy2dProg e b
  | 0x12 => gatherProg e b
  | 0x20 => atomicProg e q b
  | 0x30 => attnProg e b
  | 0x32 => blendProg e b
  | 0x33 => kvAppendProg e b
  | 0x34 => ktlRunProg e.idx.val b
  | 0x40 => gkoSearchProg e b
  | 0x41 => gkoInsertProg e b
  | 0x42 => gkoDeleteProg e b
  | 0x43 => gkoMergeProg e b
  | 0x50 => embGatherProg e b
  | 0x51 => embUpdateProg e b
  | 0x52 => if dSubop b = 2 then embWait b else embInstall b (dSubop b = 1)
  | 0x60 =>
    match bits (dOp b 0) 3 0 with
    | 0 => rehomeProg b
    | 1 => backProg b
    | 2 => unbackProg b
    | 3 => stageProg e b true
    | 4 => stageProg e b false
    | _ => surveyProg e b
  | 0x70 => shootdownProg b
  | 0x71 => syncProg b
  | _ => pure ()

/-- How a descriptor ends where a write-back of its bytes failed: at the lowest unit that failed, with its status (R141 to
R143); one that was to end keeps the status it was to end with. -/
def Fin_.after (f : Fin_) (killed : Bool) (bad : Option BackFail) : Fin_ :=
  match bad with
  | none => f
  | some g =>
    if f.st = .ok ∨ g.unit < f.progress then
      let f := { f with progress := min f.progress g.unit, undef := true }
      if killed && f.st ≠ .ok then f else { f with st := g.st, code := 0, remote := g.remote }
    else { f with undef := true }

/-- What a descriptor still does once its status is known: what it left dirty is written back (R164), and a read on each other
head that it wrote through completes (R157); writes through a head that has been reset are lost (R467). -/
def endDesc (q : Nat) (f : Fin_) : Prog Fin_ := do
  flushOwn
  let f := f.after (← me).kill.isSome (← me).bad
  let own ← look fun s =>
    if s.flag (Reg.Q_CQ_BASE q) Reg.Q_CQ_BASE_HOSTMEM then s.fld (Reg.Q_CQ_BASE q) Reg.Q_CQ_BASE_HEAD else 4
  let t ← me
  let rs ← collect (fun (h, a) => do
    if h = own then pure Status.ok else return (← hostRead h (alignDown a 64) 64).st) t.heads
  pure (match rs.find? fun st => st = .tierErr || st = .timeout with
    | some st => { f with st := if f.st = .ok then st else f.st, undef := true }
    | none => f)

/-- What a message's work still does when it fails: an update closes its shard (R374, R377). -/
def endMsg (m : Msg) : Prog Unit := do
  match shardOf m with
  | none => pure ()
  | some (shard, upd) => do
    let mine ← look fun s => match s.gkoUpd shard with
      | some u => (decide (u.src = m.hdr.src.toNat) && decide (u.upd = upd)).toNat
      | none => 0
    if mine = 1 then gkoClose shard

/-! ## Running -/

/-- The status of a program that has ended. -/
def endStatus {α : Type} (r : Except Stop α) : Status :=
  match r with
  | .error (.fin st _ _) => st
  | _ => .ok

/-- Work that keeps state between phases and is journaled (R515). -/
def Task.journaled (t : Task) : Bool :=
  match t.kind with
  | .desc .. => [0x30, 0x32, 0x33, 0x40, 0x41, 0x42, 0x50, 0x51].contains (dOpcode t.bytes)
  | .msg _ m => match m.body with | .subreq _ => true | _ => false
  | _ => false

/-- The scratchpad banks of a Gecko's or an embedding engine's workspace (R364, R387). -/
def State.workBanks (s : State) (e : Eng) : List PartId :=
  let bank := fun (w n : Nat) => (List.range n).map fun i => obj 3 (w / 2 ^ 21 + i)
  match e.kind with
  | .gecko =>
    let w := s.fld (Reg.GKO_CFG e.idx.val) Reg.GKO_CFG_WORK
    let n := min (s.fld (Reg.GKO_CFG e.idx.val) Reg.GKO_CFG_SLOTS) 128
    bank w ((w + n * 65536 + 2 ^ 21 - 1) / 2 ^ 21 - w / 2 ^ 21)
  | .emb => bank (s.fld (Reg.EMB_CFG e.idx.val) Reg.EMB_CFG_WORK) 10
  | _ => []

/-- A task entered in the journal, if there is room (R515). -/
def State.enterJournal (s : State) (id : Nat) (t : Task) : State :=
  if s.ras.journal.length ≥ 8192 then s
  else
    let hs : List PartId := match t.eng with | some e => e.part :: s.workBanks e | none => []
    let s := { s with ras := { s.ras with journal := s.ras.journal ++ [JEnt.mk id hs] } }
    s.setFld Reg.RAS_JRNL Reg.RAS_JRNL_PEAK (max (s.fld Reg.RAS_JRNL Reg.RAS_JRNL_PEAK) s.ras.journal.length)

/-- A task is gone. -/
def State.dropTask (s : State) (id : Nat) : State :=
  let s := (s.leaveToks id).letGo id
  { s with tasks := SMap.del s.tasks id,
           ras := { s.ras with journal := s.ras.journal.filter fun j => j.task ≠ id } }

/-- A task is to end with a status (R135, R146, R350, R516); one that is writing back takes the status if it had none. -/
def State.killTask (s : State) (id : Nat) (st : Status) : State :=
  match SMap.find s.tasks id with
  | none => s
  | some t =>
    if t.fin.isSome then s
    else
      match t.ending with
      | some f => if f.st = .ok then s.setTask id { t with ending := some { f with st := st }, kill := some st } else s
      | none => if t.kill.isSome then s else s.setTask id { t with kill := some st }

/-- Queries and rows of a subrequest that is gone: those not begun go, running ones are to end (R348). -/
def State.endSubs (s : State) (id : Nat) : State :=
  let ids := (s.eng.queries.filterMap fun q => if q.sub = id then q.task else none) ++
    (s.eng.rows.filterMap fun r => if r.sub = id then r.task else none)
  let s := { s with eng := { s.eng with
    queries := s.eng.queries.filter fun q => q.sub ≠ id || (q.task.isSome && q.res.isNone),
    rows := s.eng.rows.filter fun r => r.sub ≠ id || (r.task.isSome && r.res.isNone) } }
  ids.foldl (fun s k => s.killTask k .aborted) s

/-- KTL_ERR and the results of a Kettle's descriptor (R312, R314, R315); the PC of a built-in program is free (log 106). -/
def State.kettleEnd (s : State) (id n : Nat) (b : List Byte) (f : Fin_) : State × Fin_ :=
  let k := s.kettle n
  if occupies (dOpcode b) && k.task ≠ some id then (s, f)
  else
  let run := decide (dOpcode b = 0x34)
  let f : Fin_ := if run then
      { f with progress := k.sget 15, result := k.sget 14, undef := f.undef || (k.stored && f.st ≠ .ok),
               replayed := f.replayed || k.replayed }
    else f
  let s := if f.st = .ok then s
    else
      let cause := if run && k.cause ≠ 0 then k.cause else 9
      { s with free := s.free + 1 }.setReg (Reg.KTL_ERR n)
        ((if run then k.pc % 512 else Config.freeNat s.free % 512) + f.st.code * 2 ^ 16 + cause * 2 ^ 24 + dTag b * 2 ^ 32)
  (s, f)

/-- A descriptor's status is decided: its engine's part in it ends (R142, R143, R286, R350, R498, R516). -/
def State.finishDesc (s : State) (id : Nat) (t : Task) (f : Fin_) : State :=
  let o := dOpcode t.bytes
  let f : Fin_ := if f.st = .ok then { f with undef := false } else f
  -- a page is sealed only when the token that completes it is done (R327)
  let f : Fin_ := if o = 0x33 ∧ f.progress ≤ 63 - kvPos t.bytes % 64 then { f with result := 0 } else f
  let f : Fin_ := { f with nested := f.nested || t.nested }
  let f : Fin_ := match t.kill with
    | none => f
    | some st =>
      if o = 0x30 ∨ o = 0x40 then { f with progress := 0, result := 0, coverage := false }
      else if o = 0x32 ∧ st = .lostState then { f with progress := 0 }
      else if o = 0x33 ∧ st = .lostState then { f with undef := true }
      else if o = 0x50 ∧ st ≠ .lostState then { f with undef := true }
      else f
  let f : Fin_ := match t.eng with
    | some e => if s.isContained e.part then { f with undef := true } else f
    | none => f
  let (s, f) : State × Fin_ := match t.eng with
    | some e => if e.kind = EngKind.kettle then s.kettleEnd id e.idx.val t.bytes f else (s, f)
    | none => (s, f)
  let s := if o = 0x34 then (match t.eng with | some e => s.closeRings e.idx.val | none => s) else s
  let s := ((s.cancelFan id).dropFan id).freeKettles id
  let s := s.leaveToks id
  let s := s.setTask id { (s.task id) with fin := some f }
  { s with ras := { s.ras with journal := s.ras.journal.filter fun j => j.task ≠ id } }

/-- A message's work has its answer: the task goes, the answer is sent, the next store of the stream may begin. -/
def State.finishMsg (s : State) (id p : Nat) (m : Msg) (r : Except Status (Body × Bool)) : State :=
  let s := ((s.dropTask id).freeKettles id).endSubs id
  let s := s.answerMsg p m r
  if p ≠ selfPort ∧ m.body.cls = .store then s.storeDone m.hdr else s

/-- A query has ended (R363): its list joins its subrequest, or its failure ends the subrequest. -/
def State.finishQuery (s : State) (id sub : Nat) (r : Except Status GkoList) : State :=
  let s := s.dropTask id
  match r with
  | .ok l =>
    let upd := fun (q : GkoQuery) => if q.task = some id then { q with res := some l, task := none, eng := none, snap := none } else q
    ({ s with eng := { s.eng with queries := s.eng.queries.map upd } } : State).gkoNote sub
  | .error st =>
    let s := { s with eng := { s.eng with queries := s.eng.queries.filter fun q => q.task ≠ some id } }
    s.killTask sub st

/-- A row update has ended (R409): its lock is released and its records have their statuses; `u` says whether its store was
issued (R516). -/
def State.finishRow (s : State) (id sub : Nat) (l : List (Nat × Status)) (u : Bool) : State :=
  let s := s.dropTask id
  let fate := fun (pos : Nat) => ((l.find? fun x => x.1 = pos).map (·.2)).getD Status.lostState
  let rows := s.eng.rows.map fun (r : RowUpd) => if r.task = some id then { r with res := some (fate r.pos), task := none, stored := u } else r
  let rows := if (SMap.find s.tasks sub).isSome then rows else rows.filter fun r => r.sub ≠ sub || r.task.isSome
  ({ s with eng := { s.eng with rows := rows } } : State).rowNote sub

/-- The parts of a task's ending: a descriptor's write-backs, an update's close. -/
def State.runEnding (s : State) (id : Nat) (t : Task) (f : Fin_) : State :=
  match t.kind with
  | .desc q _ _ _ =>
    match runProg s id (endDesc q f) with
    | (s, _, .ok f') => s.finishDesc id t f'
    | (s, _, .error .park) => s
    | (s, _, .error (.fin st _ _)) => s.finishDesc id t { f with st := st, undef := true }
  | .msg p m =>
    match runProg s id (endMsg m) with
    | (s, _, .error .park) => s
    | (s, _, _) => s.finishMsg id p m (.error f.st)
  | _ => s

/-- The customer program of a descriptor that is to end stops; a store access of it that has still to be issued is dropped
(R312, R314). -/
def State.stopProgram (s : State) (id : Nat) : State :=
  match s.eng.kettles.find? fun e => e.2.task = some id && e.2.running with
  | none => s
  | some (n, k) => (match k.sub with | some i => s.dropTask i | none => s).setKettle n { k with running := false, sub := none }

/-- A task's own work has ended: it leaves its tokens (R70) and what it holds, and its ending begins. -/
def State.startEnding (s : State) (id : Nat) (f : Fin_) : State :=
  let s := ((s.stopProgram id).leaveToks id).letGo id
  let t := { (s.task id) with ending := some f, log := [], wait := .ready, rd := none, translated := false }
  (s.setTask id t).runEnding id t f

/-- The parameters of a query of a subrequest. -/
def State.queryWork (s : State) (sub : Nat) : Option (Nat × GkoParams × List Byte × Nat) :=
  match (s.task sub).kind with
  | .msg _ m => match m.body with | .subreq (.gko shard p qs bm) => some (shard, p, qs, bm) | _ => none
  | _ => none

/-- The updates of a subrequest that a row task performs together, with their positions. -/
def State.rowWork (s : State) (id sub : Nat) : Option (Nat × Nat × Nat × List (Nat × EmbUpd)) :=
  match (s.task sub).kind with
  | .msg _ m =>
    match m.body with
    | .subreq (.embUpdate rfmt dim pitch upds) =>
      some (rfmt, dim, pitch, upds.zipIdx.filterMap fun (u, i) =>
        if s.eng.rows.any fun r => r.sub = sub ∧ r.pos = i ∧ r.task = some id then some (i, u) else none)
    | _ => none
  | _ => none

/-- A task's own work. -/
def State.runMain (s : State) (id : Nat) (t : Task) : State :=
  match t.kind with
  | .desc q _ _ _ =>
    match runProg s id (descProg (t.eng.getD ⟨.newt, 0⟩) q t.bytes) with
    | (s, _, .error .park) => s
    | (s, c, .ok ()) => s.startEnding id { c with st := t.kill.getD .ok }
    | (s, c, .error (.fin st code home)) =>
      if t.kill.isSome then s.startEnding id { c with st := t.kill.getD st }
      else s.startEnding id { c with st := st, code := code, remote := home }
  | .msg p m =>
    match runProg s id (msgProg p m t.src) with
    | (s, _, .error .park) => s
    | (s, _, .ok x) => s.finishMsg id p m (.ok x)
    | (s, _, .error (.fin st _ _)) => s.startEnding id { st := t.kill.getD st }
  | .eng r wr =>
    match runProg s id (engProg r wr) with
    | (s, _, .error .park) => s
    | (s, _, .ok a) => { (s.dropTask id) with out := { s.out with answers := s.out.answers ++ [(r, a)] } }
    | (s, _, .error (.fin st _ _)) =>
      { (s.dropTask id) with out := { s.out with answers := s.out.answers ++ [(r, { st := st })] } }
  | .stream n ring a =>
    match (s.newt n).streams[ring]? with
    | none => s.dropTask id
    | some x =>
      match runProg s id (readProg ⟨.newt, Fin.ofNat 32 n⟩ (s.newt n).storeAddr x.bytes ring a) with
      | (s, _, .error .park) => s
      | (s, c, .ok len) => (s.dropTask id).readEnded n ring a c len []
      | (s, c, .error (.fin st code _)) =>
        (s.dropTask id).readEnded n ring a { c with st := st, code := code } 0 (s.task id).quiet
  | .kettle n =>
    match ((s.kettle n).prog[(s.kettle n).pc]?).map BitVec.toNat with
    | none => s.dropTask id
    | some i =>
      match runProg s id (if kOpc i = 0x20 then vldProg n i else vstProg n i) with
      | (s, _, .error .park) => s
      | (s, c, .ok ()) => (s.dropTask id).kAccessDone n c
      | (s, c, .error (.fin st code home)) =>
        (s.dropTask id).kAccessDone n { c with st := st, code := code, remote := home }
  | .query sub qi e =>
    match s.queryWork sub with
    | none => s.finishQuery id sub (.error .aborted)
    | some (shard, p, qs, bm) =>
      match runProg s id (gkoQueryProg sub qi e shard p qs bm) with
      | (s, _, .error .park) => s
      | (s, _, .ok l) => s.finishQuery id sub (.ok l)
      | (s, _, .error (.fin st _ _)) => s.finishQuery id sub (.error st)
  | .row sub _ =>
    match s.rowWork id sub with
    | none => s.finishRow id sub [] true
    | some (rfmt, dim, pitch, upds) =>
      match runProg s id (rowProg rfmt dim pitch upds) with
      | (s, _, .error .park) => s
      | (s, c, .ok l) => s.finishRow id sub l c.undef
      | (s, c, .error (.fin st _ _)) => s.finishRow id sub (upds.map fun x => (x.1, st)) c.undef
  | .wback .. => s.runBack id

/-- A task taken up as far as it can go. -/
def State.runTask (s : State) (id : Nat) : State :=
  match SMap.find s.tasks id with
  | none => s
  | some t =>
    if t.fin.isSome then s
    else
      match t.ending with
      | some f => s.runEnding id t f
      | none =>
        let s := if t.journaled && !(s.ras.journal.any fun j => j.task = id) then s.enterJournal id t else s
        if t.journaled && !(s.ras.journal.any fun j => j.task = id) then s else s.runMain id t

/-- A task that waits so has no access outstanding. -/
def Wait.idle (w : Wait) : Bool :=
  match w with
  | .ready | .poll | .fault | .held | .issue | .drain | .walk => true
  | _ => false

/-- Whether a task that is to end may be taken up: no access of its own, or of its Kettle program, is outstanding (R135, R146). -/
def State.mayEnd (s : State) (id : Nat) (t : Task) : Bool :=
  match t.wait with
  | .ready | .poll | .fault | .held | .issue | .drain | .walk => true
  | .reports => s.eng.kettles.all fun e => e.2.task ≠ some id || e.2.sub.all fun i => (s.task i).wait.idle
  | .move => !(s.tier.slots.any fun e => e.2.task = some id)
  | _ => false

/-- A task may be taken up now: it has its answer, it tries again, or it is to end. -/
def State.runnable (s : State) (id : Nat) (t : Task) : Bool :=
  t.fin.isNone &&
  (if t.over.isSome then s.mayEnd id t
   else t.wait = .ready || t.wait = .held || t.wait = .issue || t.wait = .drain || t.wait = .move)

/-- Every task that may be taken up, taken up once; then the next reads of access programs. -/
def State.runPass (s : State) : State :=
  (((s.tasks.filter fun t => s.runnable t.1 t.2).map (·.1)).foldl
    (fun s id => match SMap.find s.tasks id with
      | some t => if s.runnable id t then s.runTask id else s
      | none => s) s).pumpReads

/-- Passes as long as some task has its answer or is to end. -/
def State.runLoop : Nat → State → State
  | 0, s => s
  | n + 1, s =>
    let s := s.runPass
    if s.tasks.any fun t => s.runnable t.1 t.2 && (t.2.wait = .ready || t.2.over.isSome) then
      State.runLoop n s
    else s

/-- Retirements and work go on as far as they can, slices take the replacements due to them, then ring records are written. -/
def State.go (s : State) : State := (State.runLoop 64 s.pumpRetire).repairSlices.pumpRings

/-! ## Lost state (R516) -/

/-- Whether a journal entry names a part as a holder: as entered, or as the task's work stands now. -/
def State.holds (s : State) (j : JEnt) (p : PartId) : Bool :=
  j.holders.contains p || (s.task j.task).eng.any (fun e => e.part = p) ||
  (s.eng.kettles.any fun k => k.2.task = some j.task && (kEng k.1).part = p) ||
  (s.eng.queries.any fun q => q.sub = j.task && q.task.isSome &&
    (match q.eng with
     | some e => (⟨.gecko, Fin.ofNat 32 e⟩ : Eng).part = p || (s.workBanks ⟨.gecko, Fin.ofNat 32 e⟩).contains p
     | none => false))

/-- Every entry that names a part ends with ST_LOST_STATE (R516). -/
def State.loseState (s : State) (p : PartId) : State :=
  (s.ras.journal.filter fun j => s.holds j p).foldl (fun s j =>
    (s.killTask j.task .lostState).bump Reg.RAS_JRNL Reg.RAS_JRNL_LOST 1) s

end Sys2Proof.Machine
end

