-- ==== Sys2Proof/Machine/Access.lean ====
section
/-! DEFINITION. Access to BAR0 (00, 17, 20): which accesses reach a register, which fields a write changes, what each
world sees (R8 to R10, R479, R480, R504, R541, R556 to R558, R563 to R565). -/

namespace Sys2Proof.Machine

/-- The instance of a row at an offset, if the offset is one of its registers (R558). -/
def RegRow.find (r : RegRow) (off : Nat) : Option RegId :=
  if off < r.base then none
  else
    let x := off - r.base
    match r.dims with
    | [] => if x = 0 then some (r.at_ 0 0 0) else none
    | [(a, n)] => if x % a = 0 ∧ x / a < n then some (r.at_ (x / a) 0 0) else none
    | [(a, n), (b, m)] =>
      if x % a % b = 0 ∧ x / a < n ∧ x % a / b < m then some (r.at_ (x / a) (x % a / b) 0) else none
    | (a, n) :: (b, m) :: (c, k) :: _ =>
      if x % a % b % c = 0 ∧ x / a < n ∧ x % a / b < m ∧ x % a % b / c < k then
        some (r.at_ (x / a) (x % a / b) (x % a % b / c)) else none

/-- Offsets that a row's stride reaches and its chapter does not give: shapers of virtual channels 0 and 1, health of
kind 0 (R558). -/
def reservedIndex (off : Nat) : Bool :=
  (decide (0xC40000 ≤ off) && decide (off < 0xC40000 + 64 * 50) && decide (off % 64 < 16)) || off = 0xE00100

/-- The register at an offset of BAR0; none where the map has none (R556). -/
def findReg (off : Nat) : Option (RegRow × RegId) :=
  if reservedIndex off then none
  else
    regTable.findSome? fun r =>
      match r.find off with
      | some i => if i.off = off then some (r, i) else none
      | none => none

/-- The block of an offset: 1 MiB each (R556). -/
def blockOfOff (off : Nat) : Nat := off / 2 ^ 20

/-- An access of a kind reaches BAR0 in the module's state (R541, R547, R565): heads from READY on and not in OFF, the
steward once the module has come up. -/
def State.served (s : State) (v : Via) : Bool :=
  match v with
  | .steward => s.power ≠ 0
  | .head _ => s.power = 1 || s.power = 3 || s.power = 5

/-- Registers that act only for secure accesses as a whole (R564). -/
def State.secureOnly (s : State) (off : Nat) : Bool :=
  if blockOfOff off = 2 then s.flag (Reg.Q_CFG (off % 2 ^ 20 / 64)) Reg.Q_CFG_WORLD
  else if blockOfOff off = 6 && off % 2 ^ 20 < 0x4000 then
    s.flag (Reg.CADDY_OWN (off % 2 ^ 20 / 8)) Reg.CADDY_OWN_WORLD
  else off = Reg.PWR_CTL.off

/-- The engine whose register block holds an offset, for the blocks with one instance per engine (R2, R561). -/
def unitAt (off : Nat) : Option Eng :=
  let x := off % 2 ^ 20
  if blockOfOff off = 7 ∧ x < 1024 then some ⟨.newt, Fin.ofNat 32 (x / 32)⟩
  else if blockOfOff off = 8 ∧ x < 2048 then some ⟨.kettle, Fin.ofNat 32 (x / 64)⟩
  else if blockOfOff off = 9 ∧ 256 ≤ x ∧ x < 320 then some ⟨.gecko, Fin.ofNat 32 ((x - 256) / 32)⟩
  else if blockOfOff off = 10 ∧ 256 ≤ x ∧ x < 320 then some ⟨.emb, Fin.ofNat 32 ((x - 256) / 32)⟩
  else none

/-- An offset lies in the register block of an absent unit (R5). -/
def State.absentAt (s : State) (off : Nat) : Bool :=
  match unitAt off with
  | some e => !s.present e
  | none =>
    (blockOfOff off = 9 && (s.presentOf .gecko).isEmpty) || (blockOfOff off = 10 && (s.presentOf .emb).isEmpty)

/-- A write reaches its register: it is served, its unit is present, the module's state lets it act, and it is secure where it
must be (R5, R504, R547, R563, R565). -/
def State.mayWrite (s : State) (v : Via) (off : Nat) : Bool :=
  let b := blockOfOff off
  s.served v && !s.absentAt off && (!s.secureOnly off || s.secureVia v) &&
  (if s.power = 2 then b = 15 || b = 16
   else if s.power = 4 then b = 16
   else if s.ras.moduleContained then b = 14 || b = 15 || (b = 16 && s.ras.romOnly && v = .steward)
   else if s.power = 3 then b = 14 || b = 15
   else true)

/-- A word after a write of each field by its access type (R10): `sec` for a secure access, `lock` when the RWL fields
are locked. -/
def writeFields (sec lock : Bool) (v : Nat) : List Fld → Nat → Nat
  | [], w => w
  | f :: fs, w =>
    let w := match f.acc with
      | .rw => f.put w (f.get v)
      | .rw1c => f.put w (f.get w - (f.get w &&& f.get v))
      | .srw => if sec then f.put w (f.get v) else w
      | .rwl => if lock then w else f.put w (f.get v)
      | .ro | .wo => w
    writeFields sec lock v fs w

/-- The fields of a register as a world may read them: secure-only ones read zero to the other (R10), WO ones always. -/
def readFields (sec : Bool) : List Fld → Nat → Nat → Nat
  | [], _, r => r
  | f :: fs, w, r =>
    readFields sec fs w (match f.acc with
      | .wo => r
      | .srw => if sec then f.put r (f.get w) else r
      | _ => f.put r (f.get w))

/-- The fields of the register at an offset. -/
def fieldsAt (off : Nat) : List Fld := ((findReg off).map fun x => x.1.flds).getD []

/-- A register written field by field (R10); `hold` names fields that this write leaves alone. -/
def State.writePlain (s : State) (sec : Bool) (r : RegId) (hold : List Fld) (v : Nat) : State :=
  s.setReg r (writeFields sec false v ((fieldsAt (r.off % 2 ^ 40)).filter fun f => !hold.contains f) (s.reg r))

/-- The value that a write gives to a field of type RW. -/
def newFld (f : Fld) (v : Word) : Nat := f.get v.toNat

end Sys2Proof.Machine
end

