-- ==== Sys2Proof/Machine/Queue.lean ====
section
/-! DEFINITION. Queues (04): doorbells, slot fetch, the order in which descriptors start, completion and its records,
stopping and resuming, interrupt moderation (R114 to R157, R475, R491). -/

namespace Sys2Proof.Machine

/-! ## State of a queue -/

/-- STATE of a queue: 0 DISABLED, 1 RUNNING, 2 STOPPING, 3 STOPPED. -/
def State.qState (s : State) (q : Nat) : Nat := s.fld (Reg.Q_STATE q) Reg.Q_STATE_STATE

/-- A task is a descriptor of a queue. -/
def Task.ofQueue (t : Task) (q : Nat) : Bool :=
  match t.kind with
  | .desc k _ _ _ => k = q
  | _ => false

/-- The started descriptors of a queue that have not completed. -/
def State.descsOf (s : State) (q : Nat) : List (Nat × Task) := s.tasks.filter fun t => t.2.ofQueue q

/-- The oldest started descriptor at a slot that passes a test. -/
def State.findDesc (s : State) (d : DescRef) (p : Task → Bool) : Option (Nat × Task) :=
  s.tasks.find? fun t =>
    p t.2 && match t.2.kind with
      | .desc k sl h _ => k = d.q.val && sl = d.slot.toNat && h = d.half
      | _ => false

/-! ## Starting -/

/-- Opcodes that ignore RELAXED (R132). -/
def ordered (opcode : Nat) : Bool := decide (1 ≤ opcode) && decide (opcode ≤ 3)

/-- A descriptor may start beside the running ones of its queue (R130 to R132). -/
def State.orderOk (s : State) (q : Nat) (d : FDesc) : Bool :=
  let run := s.descsOf q
  run.isEmpty ||
  (!ordered (dOpcode d.bytes) && dRelaxed d.bytes && run.all fun t => !ordered (dOpcode t.2.bytes))

/-- The queue's oldest fetched descriptor may start, but for its turn (R130 to R132, R138, R145, R296). -/
def State.eligible (s : State) (q : Nat) : Bool :=
  s.live && s.qState q = 1 && decide ((s.queue q).due.length < 64) &&
  match (s.queue q).fetched with
  | [] => false
  | d :: _ =>
    s.orderOk q d &&
    match s.descCheck q d, s.placing q d.normal with
    | .ok, .ok (some []) => false
    | _, _ => true

/-- WEIGHT of a queue; 0 acts as 1. -/
def State.weight (s : State) (q : Nat) : Nat := max 1 (s.fld (Reg.Q_CFG q) Reg.Q_CFG_WEIGHT)

/-- It is the queue's turn in the weighted round robin (04, "Queue pairs"). -/
def State.inTurn (s : State) (q : Nat) : Bool :=
  match s.queues.find? fun x => decide (0 < x.2.spent) with
  | none => true
  | some (h, x) =>
    if decide (x.spent < s.weight h) && s.eligible h then q = h
    else
      let el := (s.queues.filter fun x => s.eligible x.1).map (·.1)
      match el.find? (h < ·) with
      | some k => q = k
      | none => q = el.headD q

/-- The oldest fetched descriptor starts: checks, engine, first accesses (R126 to R133, R164). -/
def State.startDesc (s : State) (q : Nat) (d : FDesc) : State :=
  let b := d.normal
  let qs := s.queue q
  let n := if qs.spent < s.weight q then qs.spent + 1 else 1
  let s := s.queues.foldl (fun s (k, x) => if x.spent = 0 then s else s.setQueue k { x with spent := 0 }) s
  let s := s.setQueue q { (s.queue q) with fetched := qs.fetched.tail, spent := n }
  let t : Task := { kind := .desc q d.slot d.half d.tad, src := .queue (Fin.ofNat 4096 q),
                    ctx := s.fld (Reg.Q_CFG q) Reg.Q_CFG_CTX, bytes := b, start := s.tick }
  match s.descCheck q d with
  | .ok =>
    match s.placing q b with
    | .error st => (s.addTask { t with fin := some { st := st } }).2
    | .ok none => (s.addTask t).2.go
    | .ok (some l) =>
      let (c, s) := s.choose l.length
      (s.addTask { t with eng := l[c]? }).2.go
  | st => (s.addTask { t with fin := some { st := st } }).2

/-- A descriptor command: the queue's oldest fetched descriptor starts if it is one of the command's and may start (log 1). -/
def State.descRow (s : State) (q : Nat) (p : List Byte → Bool) : State :=
  match (s.queue q).fetched with
  | [] => s
  | d :: _ => if p d.normal && s.eligible q && s.inTurn q then s.startDesc q d else s

/-- The descriptors of an opcode. -/
def isOp (opcode : Nat) (b : List Byte) : Bool := dOpcode b = opcode

/-- The descriptors of an opcode and a SUBOP; those of a SUBOP that the opcode does not have go with any (R127). -/
def isSub (opcode : Nat) (valid : Nat → Bool) (sub : Nat) (b : List Byte) : Bool :=
  dOpcode b = opcode && (dSubop b = sub || !valid (dSubop b))

/-- The `MOVE_TILE` descriptors of a MODE; those with no valid MODE or SUBOP go with any (R88, R127). -/
def isMode (mode : Nat) (b : List Byte) : Bool :=
  dOpcode b = 0x60 && (bits (dOp b 0) 3 0 = mode || decide (5 < bits (dOp b 0) 3 0))

/-! ## Fetching (R119, R124, R145) -/

/-- Slots fetched whose descriptors have not all started. -/
def QueueState.ahead (x : QueueState) : Nat :=
  (x.fetched.filter fun d => !d.half).length + (match x.fetched with | d :: _ => d.half.toNat | [] => 0)

/-- The queue may fetch its next slot. -/
def State.mayFetch (s : State) (q : Nat) : Bool :=
  let x := s.queue q
  s.live && s.qState q = 1 && !x.fetching && decide (x.ahead < 64) &&
  decide (s.fld (Reg.Q_STATE q) Reg.Q_STATE_SQ_HEAD ≠ x.dbTail)

/-- A ring address in the store, homed here, as a module-local address (R119); none when it cannot be accessed. -/
def State.ringLocal (s : State) (a len : Nat) (write : Bool) : Option Nat :=
  if s.whither a ≠ 1 then none
  else
    match s.homeCheck .steward 0 s.epoch (a % 2 ^ 50) len write with
    | .error _ => none
    | .ok ps =>
      let l := (ps.headD (0, 0)).1
      if s.placeCheck l = .ok then some l else none

/-- The next slot's read is issued. -/
def State.fetchSlot (s : State) (q : Nat) : State :=
  let base := fun f => s.fld (Reg.Q_SQ_BASE q) f
  let a := base Reg.Q_SQ_BASE_ADDR * 2 ^ 12 + 64 * s.fld (Reg.Q_STATE q) Reg.Q_STATE_SQ_HEAD
  let s1 := s.setQueue q { (s.queue q) with fetching := true }
  if base Reg.Q_SQ_BASE_HOSTMEM = 1 then
    let h := base Reg.Q_SQ_BASE_HEAD
    if s.dmaFull h then s
    else if s.canDma h then
      { s1 with
        dmas := SMap.put s1.dmas s1.nextDma ⟨h, a, 64, .fetch q, s.tick⟩, nextDma := s1.nextDma + 1,
        out := { s1.out with hostRd := s1.out.hostRd ++ [(h, a, 64)] } }
    else s1.slotArrived q { st := .tierErr }
  else
    match s1.ringLocal a 64 false with
    | some l => if s.sliceFull (l / 64) then s else s1.submit (ringReq l 64 (.fetch q))
    | none => s1.slotArrived q { st := .invalid }

/-! ## Completing (R133, R136 to R139, R145) -/

/-- Steep engines other than one, as a mask of their keys (R165). -/
def otherSteep (e : Eng) : Nat :=
  maskOf (((engines .newt ++ engines .kettle).filter fun x => x ≠ e).map Eng.key)

/-- A descriptor completes: it leaves its queue's running ones, its record is due, an error stops the queue. -/
def State.completeDesc (s : State) (id q slot : Nat) (half : Bool) (t : Task) (f : Fin_) : State :=
  let s := s.dropTask id
  let s := match t.eng with
    | some e => { s with mixed := SMap.set s.mixed q (SMap.get s.mixed q 0 ||| otherSteep e) 0 }
    | none => s
  let qs := s.queue q
  let s :=
    if (dCmpl t.bytes || f.st ≠ .ok) && !qs.noRecords then
      s.setQueue q { qs with due := qs.due ++ [⟨slot, half, dOpcode t.bytes, dTag t.bytes, dIrq t.bytes, f⟩] }
    else s
  let s := if f.st ≠ .ok && s.flag (Reg.Q_CFG q) Reg.Q_CFG_STOP_ON_ERR then s.stopQueue q 1 f.st.code else s
  s.go

/-- The bytes of a completion record (04, "Completion records"). -/
def State.cqRecord (s : State) (q : Nat) (d : Due) : List Byte :=
  let f := d.fin
  let n := fun (b : Bool) (k : Nat) => b.toNat * 2 ^ k
  let part := s.fld Reg.GLB_PART_CTL Reg.GLB_PART_CTL_PART_ID
  let code := f.code + (match f.remote with | some (r, m) => r * 2 ^ 8 + m * 2 ^ 14 + 2 ^ 19 | none => 0)
  natLE 1 ((s.queue q).phase.toNat + n d.half 1 + part * 8) ++ natLE 1 f.st.code ++ natLE 1 d.opcode ++
  natLE 1 (n f.exhausted 0 + n f.skipped 1 + n f.dropped 2 + n f.nested 3 + n f.coverage 4 + n f.undef 5 +
    n f.replayed 6) ++
  natLE 4 d.tag ++ natLE 2 d.slot ++ natLE 2 (s.fld (Reg.Q_STATE q) Reg.Q_STATE_SQ_HEAD) ++ natLE 4 code ++
  natLE 8 f.progress ++ natLE 8 f.result

/-- The completion ring has room (R137). -/
def State.cqRoom (s : State) (q : Nat) : Bool :=
  (s.fld (Reg.Q_STATE q) Reg.Q_STATE_CQ_TAIL + 1) % s.cqLen q ≠ (s.queue q).cqHead

/-- The oldest due record is written, or waits with CQ_STALL set (R137 to R139). -/
def State.writeRecord (s : State) (q : Nat) : State :=
  match (s.queue q).due with
  | [] => s
  | d :: _ =>
    if s.ringBusy.contains (3 + q) || !s.live then s
    else if !s.cqRoom q then s.setFld (Reg.Q_STATE q) Reg.Q_STATE_CQ_STALL 1
    else
      let base := fun f => s.fld (Reg.Q_CQ_BASE q) f
      let a := base Reg.Q_CQ_BASE_ADDR * 2 ^ 12 + 32 * s.fld (Reg.Q_STATE q) Reg.Q_STATE_CQ_TAIL
      let b := s.cqRecord q d
      if base Reg.Q_CQ_BASE_HOSTMEM = 1 then
        let h := base Reg.Q_CQ_BASE_HEAD
        if s.canDma h then
          (s.hostRecord h a (2 ^ 32 - 1) 15 b).cqDone q
        else s.cqFailed q
      else
        match s.ringLocal a 32 true with
        | some l =>
          let s := { s with ringBusy := s.ringBusy ++ [3 + q] }
          s.submit (ringReq l 32 (.post (3 + q) (.write (rangeMask (l % 64) 32) (List.replicate (l % 64) 0 ++ b))))
        | none => s.cqFailed q

/-! ## Stopping, resuming, enabling (R115, R116, R145 to R148, R475, R491) -/

/-- Every started descriptor of a queue is to end with a status. -/
def State.killQueue (s : State) (q : Nat) (st : Status) : State :=
  (s.descsOf q).foldl (fun s t => s.killTask t.1 st) s

/-- ABORT (R146, R148). -/
def State.abortQueue (s : State) (q : Nat) : State :=
  if s.qState q = 1 then ((s.stopQueue q 4 0).killQueue q .aborted).go
  else if s.qState q = 2 then (s.killQueue q .aborted).go
  else s

/-- RESUME (R148). -/
def State.resumeQueue (s : State) (q : Nat) : State :=
  if s.qState q = 3 then
    ((s.setFld (Reg.Q_STATE q) Reg.Q_STATE_STOP_CAUSE 0).setFld (Reg.Q_STATE q) Reg.Q_STATE_STOP_STATUS 0).setFld
      (Reg.Q_STATE q) Reg.Q_STATE_STATE 1
  else s

/-- The queue becomes STOPPED once its records are written (R147). -/
def State.finishStop (s : State) (q : Nat) : State :=
  let x := s.queue q
  if s.qState q ≠ 2 ∨ (s.descsOf q) ≠ [] ∨ x.fetching then s
  else
    let dues : List Due :=
      if x.noRecords then [] else x.fetched.map fun d =>
        ⟨d.slot, d.half, dOpcode d.normal, dTag d.normal, dIrq d.normal, { st := .aborted }⟩
    let s := s.setQueue q { x with fetched := [], due := x.due ++ dues }
    let s := if s.fld (Reg.Q_STATE q) Reg.Q_STATE_STOP_CAUSE = 5 then s.discardSteep fun _ => ofQueue q else s
    if (s.queue q).due = [] then
      let s := s.setFld (Reg.Q_STATE q) Reg.Q_STATE_STATE 3
      if s.flag (Reg.Q_IRQ q) Reg.Q_IRQ_EN ∧ s.flag (Reg.Q_IRQ q) Reg.Q_IRQ_ON_STOP then s.raiseQueue q else s
    else s

/-- Whether the fields of `Q_CFG_q` permit enabling (R115, R475). -/
def State.mayEnable (s : State) (q : Nat) : Bool :=
  let ctx := s.fld (Reg.Q_CFG q) Reg.Q_CFG_CTX
  let world := s.flag (Reg.Q_CFG q) Reg.Q_CFG_WORLD
  ctx ≠ 0xFFFF && (ctx ≠ 0 || world) && world = s.secureCtx ctx

/-- A queue enabled, or its enabling refused (R115). -/
def State.enableQueue (s : State) (q : Nat) : State :=
  let put := fun (s : State) f v => s.setFld (Reg.Q_STATE q) f v
  if s.mayEnable q then
    let s := (s.setFld (Reg.Q_CFG q) Reg.Q_CFG_EN 1).setQueue q {}
    put (put (put (put (put s Reg.Q_STATE_STATE 1) Reg.Q_STATE_SQ_HEAD 0) Reg.Q_STATE_CQ_TAIL 0)
      Reg.Q_STATE_STOP_CAUSE 0) Reg.Q_STATE_STOP_STATUS 0
  else put s Reg.Q_STATE_STOP_CAUSE 6

/-- A queue made DISABLED (R116, R491). -/
def State.disableQueue (s : State) (q : Nat) : State :=
  let put := fun (s : State) f v => s.setFld (Reg.Q_STATE q) f v
  let s := (s.setFld (Reg.Q_CFG q) Reg.Q_CFG_EN 0).setQueue q {}
  let s := put (put (put (put s Reg.Q_STATE_STATE 0) Reg.Q_STATE_DB_DROP 0) Reg.Q_STATE_DB_RANGE 0)
    Reg.Q_STATE_CQ_STALL 0
  { (s.discardSteep fun _ => ofQueue q) with mixed := SMap.del s.mixed q }

/-- A write to `Q_CFG_q` (R114 to R116). -/
def State.writeQCfg (s : State) (via : Via) (q : Nat) (v : Word) : State :=
  let en := newFld Reg.Q_CFG_EN v
  if s.qState q = 0 then
    let s := s.writePlain (s.secureVia via) (Reg.Q_CFG q) [Reg.Q_CFG_EN] v.toNat
    if en = 1 then s.enableQueue q else s
  else if en = 0 ∧ s.qState q = 3 then s.disableQueue q
  else s

/-- A write to a ring base register of a queue (R114). -/
def State.writeQBase (s : State) (via : Via) (q : Nat) (r : RegId) (v : Word) : State :=
  if s.qState q = 0 then s.writePlain (s.secureVia via) r [] v.toNat else s

/-- A write to `Q_CTL_q`. -/
def State.writeQCtl (s : State) (q : Nat) (v : Word) : State :=
  let s := if newFld Reg.Q_CTL_ABORT v = 1 then s.abortQueue q else s
  if newFld Reg.Q_CTL_RESUME v = 1 then s.resumeQueue q else s

/-- A BAR2 doorbell is refused (R122, R464, R504, R547). -/
def State.refusesBar2 (s : State) (h : Fin 4) (q : Nat) : Bool :=
  !bit (s.fld (Reg.Q_CFG q) Reg.Q_CFG_DB_HEADS) h.val ||
  !bit (s.fld Reg.GLB_PART_CTL Reg.GLB_PART_CTL_HEADS) h.val ||
  (s.flag (Reg.Q_CFG q) Reg.Q_CFG_WORLD && !s.secureVia (.head h)) ||
  (s.flag (Reg.HEAD_CFG h.val) Reg.HEAD_CFG_IDE_REQ && !s.flag (Reg.HEAD_STAT h.val) Reg.HEAD_STAT_IDE_IO) || !s.live

/-- A BAR2 doorbell (R120 to R122). -/
def State.bar2Doorbell (s : State) (h : Fin 4) (q : Nat) (cq : Bool) (v : Word) : State :=
  if !s.served (.head h) then s
  else if s.refusesBar2 h q then s.dropDoorbell q
  else (s.takeDoorbell q cq v.toNat).1

/-! ## Commands of queues -/

/-- SQ_TAIL_DOORBELL (R120 to R122). -/
def execSqTailDoorbell (h : Fin 4) (q : Fin 4096) (v : Word) (s : State) : Host.Outcome State Fault Refusal :=
  done s (s.bar2Doorbell h q.val false v)

/-- CQ_HEAD_DOORBELL (R120 to R122). -/
def execCqHeadDoorbell (h : Fin 4) (q : Fin 4096) (v : Word) (s : State) : Host.Outcome State Fault Refusal :=
  done s (s.bar2Doorbell h q.val true v)

/-- SLOT_FETCH (R124). -/
def execSlotFetch (q : Fin 4096) (s : State) : Host.Outcome State Fault Refusal :=
  done s (if s.mayFetch q.val then s.fetchSlot q.val else s)

/-- INVALID_OPCODE (R126). -/
def execInvalidOpcode (q : Fin 4096) (s : State) : Host.Outcome State Fault Refusal :=
  done s (s.descRow q.val fun b => !opcodes.contains (dOpcode b))

/-- DESCRIPTOR_COMPLETE (R133). -/
def execDescriptorComplete (d : DescRef) (s : State) : Host.Outcome State Fault Refusal :=
  done s (match s.findDesc d fun t => t.fin.isSome with
    | some (id, t) =>
      match t.fin with
      | some f => s.completeDesc id d.q.val d.slot.toNat d.half t f
      | none => s
    | none => s)

/-- COMPLETION_RECORD_WRITE (R138). -/
def execCompletionRecordWrite (q : Fin 4096) (s : State) : Host.Outcome State Fault Refusal :=
  done s (s.writeRecord q.val)

/-- IRQ_TIME_EXPIRY (R149). -/
def execIrqTimeExpiry (q : Fin 4096) (s : State) : Host.Outcome State Fault Refusal :=
  let x := s.queue q.val
  let time := s.fld (Reg.Q_IRQ q.val) Reg.Q_IRQ_TIME
  done s (if s.flag (Reg.Q_IRQ q.val) Reg.Q_IRQ_EN ∧ time ≠ 0 ∧ 0 < x.unsignalled ∧ x.firstAt + us time ≤ s.tick then
    s.raiseQueue q.val else s)

/-- MSIX_UNMASK (R150). -/
def execMsixUnmask (h : Fin 4) (vec : Fin 2048) (s : State) : Host.Outcome State Fault Refusal :=
  let x := SMap.get s.heads h.val {}
  let y := { x with unmasked := SMap.set x.unmasked vec.val true false, pend := SMap.del x.pend vec.val }
  let s' : State := { s with heads := SMap.set s.heads h.val y {} }
  done s (if SMap.get x.pend vec.val false then s'.msix h.val vec.val else s')

/-- DEADLINE_EXPIRY (R135): a descriptor that waits at a Kettle has not started (R296). -/
def execDeadlineExpiry (d : DescRef) (s : State) : Host.Outcome State Fault Refusal :=
  done s (match s.findDesc d fun t => t.fin.isNone with
    | some (id, t) =>
      if dDeadline t.bytes ≠ 0 ∧ !s.atKettle id ∧ t.start + us (dDeadline t.bytes) ≤ s.tick then (s.killTask id .timeout).go else s
    | none => s)

/-- QUEUE_ENABLE (R115). -/
def execQueueEnable (via : Via) (q : Fin 4096) (v : Word) (s : State) : Host.Outcome State Fault Refusal :=
  done s (if s.mayWrite via (Reg.Q_CFG q.val).off ∧ newFld Reg.Q_CFG_EN v = 1 then s.writeQCfg via q.val v else s)

/-- QUEUE_DISABLE (R116). -/
def execQueueDisable (via : Via) (q : Fin 4096) (v : Word) (s : State) : Host.Outcome State Fault Refusal :=
  done s (if s.mayWrite via (Reg.Q_CFG q.val).off ∧ newFld Reg.Q_CFG_EN v = 0 then s.writeQCfg via q.val v else s)

/-- ABORT (R146). -/
def execAbort (via : Via) (q : Fin 4096) (s : State) : Host.Outcome State Fault Refusal :=
  done s (if s.mayWrite via (Reg.Q_CTL q.val).off then s.writeQCtl q.val 1 else s)

/-- RESUME (R148). -/
def execResume (via : Via) (q : Fin 4096) (s : State) : Host.Outcome State Fault Refusal :=
  done s (if s.mayWrite via (Reg.Q_CTL q.val).off then s.writeQCtl q.val 2 else s)

/-- QUEUE_STOPPED (R147). -/
def execQueueStopped (q : Fin 4096) (s : State) : Host.Outcome State Fault Refusal :=
  done s (s.finishStop q.val)

end Sys2Proof.Machine
end

