-- ==== Sys2Proof/Machine/Descr.lean ====
section
/-! DEFINITION. The descriptors as commands (04, "Opcodes"): each takes its queue's oldest fetched descriptor when that is
one of its own and may start, and starts it (R126 to R132). What it then does is its program: `descProg`. -/

namespace Sys2Proof.Machine

/-- NOP (R126). -/
def execNop (q : Fin 4096) (s : State) : Host.Outcome State Fault Refusal :=
  done s (s.descRow q.val (isOp 0x00))

/-- FENCE (R176). -/
def execFence (q : Fin 4096) (s : State) : Host.Outcome State Fault Refusal :=
  done s (s.descRow q.val (isOp 0x01))

/-- ACQUIRE (R178). -/
def execAcquire (q : Fin 4096) (s : State) : Host.Outcome State Fault Refusal :=
  done s (s.descRow q.val (isSub 0x02 (· ≤ 2) 0))

/-- ACQUIRE_AT_LEAST (R178). -/
def execAcquireAtLeast (q : Fin 4096) (s : State) : Host.Outcome State Fault Refusal :=
  done s (s.descRow q.val (isSub 0x02 (· ≤ 2) 1))

/-- ACQUIRE_NO_WAIT (R178). -/
def execAcquireNoWait (q : Fin 4096) (s : State) : Host.Outcome State Fault Refusal :=
  done s (s.descRow q.val (isSub 0x02 (· ≤ 2) 2))

/-- RELEASE_STORE (R177). -/
def execReleaseStore (q : Fin 4096) (s : State) : Host.Outcome State Fault Refusal :=
  done s (s.descRow q.val (isSub 0x03 (· ≤ 1) 0))

/-- RELEASE_ADD (R177). -/
def execReleaseAdd (q : Fin 4096) (s : State) : Host.Outcome State Fault Refusal :=
  done s (s.descRow q.val (isSub 0x03 (· ≤ 1) 1))

/-- FLUSH_RANGE (R181). -/
def execFlushRange (q : Fin 4096) (s : State) : Host.Outcome State Fault Refusal :=
  done s (s.descRow q.val (isOp 0x04))

/-- INVAL_RANGE (R181). -/
def execInvalRange (q : Fin 4096) (s : State) : Host.Outcome State Fault Refusal :=
  done s (s.descRow q.val (isOp 0x05))

/-- COPY (R265). -/
def execCopy (q : Fin 4096) (s : State) : Host.Outcome State Fault Refusal :=
  done s (s.descRow q.val (isOp 0x10))

/-- COPY_2D (R267). -/
def execCopy2d (q : Fin 4096) (s : State) : Host.Outcome State Fault Refusal :=
  done s (s.descRow q.val (isOp 0x11))

/-- GATHER_ROWS (R268). -/
def execGatherRows (q : Fin 4096) (s : State) : Host.Outcome State Fault Refusal :=
  done s (s.descRow q.val (isOp 0x12))

/-- ATOMIC_ADD (R184). -/
def execAtomicAdd (q : Fin 4096) (s : State) : Host.Outcome State Fault Refusal :=
  done s (s.descRow q.val (isSub 0x20 (· ≤ 10) 0))

/-- ATOMIC_AND (R184). -/
def execAtomicAnd (q : Fin 4096) (s : State) : Host.Outcome State Fault Refusal :=
  done s (s.descRow q.val (isSub 0x20 (· ≤ 10) 1))

/-- ATOMIC_OR (R184). -/
def execAtomicOr (q : Fin 4096) (s : State) : Host.Outcome State Fault Refusal :=
  done s (s.descRow q.val (isSub 0x20 (· ≤ 10) 2))

/-- ATOMIC_XOR (R184). -/
def execAtomicXor (q : Fin 4096) (s : State) : Host.Outcome State Fault Refusal :=
  done s (s.descRow q.val (isSub 0x20 (· ≤ 10) 3))

/-- ATOMIC_MIN_SIGNED (R184). -/
def execAtomicMinSigned (q : Fin 4096) (s : State) : Host.Outcome State Fault Refusal :=
  done s (s.descRow q.val (isSub 0x20 (· ≤ 10) 4))

/-- ATOMIC_MAX_SIGNED (R184). -/
def execAtomicMaxSigned (q : Fin 4096) (s : State) : Host.Outcome State Fault Refusal :=
  done s (s.descRow q.val (isSub 0x20 (· ≤ 10) 5))

/-- ATOMIC_MIN_UNSIGNED (R184). -/
def execAtomicMinUnsigned (q : Fin 4096) (s : State) : Host.Outcome State Fault Refusal :=
  done s (s.descRow q.val (isSub 0x20 (· ≤ 10) 6))

/-- ATOMIC_MAX_UNSIGNED (R184). -/
def execAtomicMaxUnsigned (q : Fin 4096) (s : State) : Host.Outcome State Fault Refusal :=
  done s (s.descRow q.val (isSub 0x20 (· ≤ 10) 7))

/-- ATOMIC_SWAP (R184). -/
def execAtomicSwap (q : Fin 4096) (s : State) : Host.Outcome State Fault Refusal :=
  done s (s.descRow q.val (isSub 0x20 (· ≤ 10) 8))

/-- ATOMIC_COMPARE_SWAP (R187). -/
def execAtomicCompareSwap (q : Fin 4096) (s : State) : Host.Outcome State Fault Refusal :=
  done s (s.descRow q.val (isSub 0x20 (· ≤ 10) 9))

/-- ATOMIC_FADD (R187). -/
def execAtomicFadd (q : Fin 4096) (s : State) : Host.Outcome State Fault Refusal :=
  done s (s.descRow q.val (isSub 0x20 (· ≤ 10) 10))

/-- ATTN_DECODE_EXACT (R333). -/
def execAttnDecodeExact (q : Fin 4096) (s : State) : Host.Outcome State Fault Refusal :=
  done s (s.descRow q.val (isSub 0x30 (· ≤ 1) 0))

/-- ATTN_DECODE_BOUNDED (R343). -/
def execAttnDecodeBounded (q : Fin 4096) (s : State) : Host.Outcome State Fault Refusal :=
  done s (s.descRow q.val (isSub 0x30 (· ≤ 1) 1))

/-- BLEND_MERGE (R341). -/
def execBlendMerge (q : Fin 4096) (s : State) : Host.Outcome State Fault Refusal :=
  done s (s.descRow q.val (isOp 0x32))

/-- KV_APPEND (R324). -/
def execKvAppend (q : Fin 4096) (s : State) : Host.Outcome State Fault Refusal :=
  done s (s.descRow q.val (isOp 0x33))

/-- KTL_RUN (R297). -/
def execKtlRun (q : Fin 4096) (s : State) : Host.Outcome State Fault Refusal :=
  done s (s.descRow q.val (isOp 0x34))

/-- GKO_SEARCH (R362). -/
def execGkoSearch (q : Fin 4096) (s : State) : Host.Outcome State Fault Refusal :=
  done s (s.descRow q.val (isOp 0x40))

/-- GKO_INSERT (R374). -/
def execGkoInsert (q : Fin 4096) (s : State) : Host.Outcome State Fault Refusal :=
  done s (s.descRow q.val (isOp 0x41))

/-- GKO_DELETE (R376). -/
def execGkoDelete (q : Fin 4096) (s : State) : Host.Outcome State Fault Refusal :=
  done s (s.descRow q.val (isOp 0x42))

/-- GKO_MERGE (R384). -/
def execGkoMerge (q : Fin 4096) (s : State) : Host.Outcome State Fault Refusal :=
  done s (s.descRow q.val (isOp 0x43))

/-- EMB_GATHER (R397). -/
def execEmbGather (q : Fin 4096) (s : State) : Host.Outcome State Fault Refusal :=
  done s (s.descRow q.val (isOp 0x50))

/-- EMB_UPDATE (R408). -/
def execEmbUpdate (q : Fin 4096) (s : State) : Host.Outcome State Fault Refusal :=
  done s (s.descRow q.val (isOp 0x51))

/-- EMB_SWITCH_INSTALL (R406). -/
def execEmbSwitchInstall (q : Fin 4096) (s : State) : Host.Outcome State Fault Refusal :=
  done s (s.descRow q.val (isSub 0x52 (· ≤ 2) 0))

/-- EMB_SWITCH_AND_DRAIN (R406). -/
def execEmbSwitchAndDrain (q : Fin 4096) (s : State) : Host.Outcome State Fault Refusal :=
  done s (s.descRow q.val (isSub 0x52 (· ≤ 2) 1))

/-- EMB_SWITCH_WAIT (R407). -/
def execEmbSwitchWait (q : Fin 4096) (s : State) : Host.Outcome State Fault Refusal :=
  done s (s.descRow q.val (isSub 0x52 (· ≤ 2) 2))

/-- REHOME (R81). -/
def execRehome (q : Fin 4096) (s : State) : Host.Outcome State Fault Refusal :=
  done s (s.descRow q.val (isMode 0))

/-- BACK (R567). -/
def execBack (q : Fin 4096) (s : State) : Host.Outcome State Fault Refusal :=
  done s (s.descRow q.val (isMode 1))

/-- UNBACK (R567). -/
def execUnback (q : Fin 4096) (s : State) : Host.Outcome State Fault Refusal :=
  done s (s.descRow q.val (isMode 2))

/-- STAGE_IN (R88). -/
def execStageIn (q : Fin 4096) (s : State) : Host.Outcome State Fault Refusal :=
  done s (s.descRow q.val (isMode 3))

/-- STAGE_OUT (R88). -/
def execStageOut (q : Fin 4096) (s : State) : Host.Outcome State Fault Refusal :=
  done s (s.descRow q.val (isMode 4))

/-- SURVEY (R96). -/
def execSurvey (q : Fin 4096) (s : State) : Host.Outcome State Fault Refusal :=
  done s (s.descRow q.val (isMode 5))

/-- XLT_SHOOTDOWN (R57). -/
def execXltShootdown (q : Fin 4096) (s : State) : Host.Outcome State Fault Refusal :=
  done s (s.descRow q.val (isOp 0x70))

/-- XLT_SYNC (R58). -/
def execXltSync (q : Fin 4096) (s : State) : Host.Outcome State Fault Refusal :=
  done s (s.descRow q.val (isOp 0x71))

end Sys2Proof.Machine
end

