-- ==== Sys2Proof/Machine/Engine.lean ====
section
/-! DEFINITION. What engines, movers and translation do on their own, as commands (02, 03, 05, 08, 11 to 13): polls, walks,
fault responses, ring slots, queries, row updates, chunk moves, time-outs of homes. -/

namespace Sys2Proof.Machine

/-! ## Tasks that wait -/

/-- A waiting task has its answer and goes on at once. -/
def State.resume (s : State) (id : Nat) : State := (s.deliver id {}).runTask id

/-- The tasks that wait for something counted elsewhere and satisfy a test. -/
def State.waitingFor (s : State) (p : Task → Bool) : List Nat :=
  (s.tasks.filter fun t => t.2.wait = .reports && t.2.fin.isNone && p t.2).map (·.1)

/-- A task that waits for something counted elsewhere looks again, and goes on at once if it has come. -/
def State.retry (s : State) (id : Nat) : State := (s.setTask id { (s.task id) with wait := .ready }).runTask id

/-- Every task of `waitingFor` looks again. -/
def State.lookAgain (s : State) (p : Task → Bool) : State := ((s.waitingFor p).foldl State.retry s).go

/-- A waiting `ACQUIRE` reads its flag again, on an engine that may take it now (R178, R477). -/
def State.pollAgain (s : State) (id q : Nat) (t : Task) : State :=
  match s.placing q t.bytes with
  | .error st => ((s.deliver id { st := st }).runTask id).go
  | .ok none => (s.resume id).go
  | .ok (some l) =>
    let (c, s') := s.choose l.length
    match l[c]? with
    | some e => ((s'.setTask id { t with eng := some e }).resume id).go
    | none => s

/-- ACQUIRE_POLL (R178): values of INTERVAL below 32 act as 32 (R179). -/
def execAcquirePoll (d : DescRef) (s : State) : Host.Outcome State Fault Refusal :=
  done s (match s.findDesc d fun t => t.wait = .poll with
    | some (id, t) =>
      if t.pollAt + max 32 (s.fld Reg.GLB_ACQ_POLL Reg.GLB_ACQ_POLL_INTERVAL) ≤ s.tick then s.pollAgain id d.q.val t else s
    | none => s)

/-- COMBINE_ENTRY_EXPIRY (R188): the entry is performed 2 µs after it was created. -/
def execCombineEntryExpiry (slice : Fin 64) (k : Fin 32) (s : State) : Host.Outcome State Fault Refusal :=
  done s (match SMap.find s.combine (slice.val * 32 + k.val) with
    | some c => if c.since + us 2 ≤ s.tick then (s.submit { line := c.line, who := .comb }).go else s
    | none => s)

/-! ## Gecko and embedding engines (R363, R364, R375, R404, R409) -/

/-- The query that engine e takes next, if it has a free slot (R363, R364, R477). -/
def State.nextQuery (s : State) (e : Nat) : Option GkoQuery :=
  let eng : Eng := ⟨.gecko, Fin.ofNat 32 e⟩
  if s.live && s.geckoReady e && decide (s.geckoActive e < min (s.fld (Reg.GKO_CFG e) Reg.GKO_CFG_SLOTS) 128) then
    s.eng.queries.find? fun q => q.task.isNone && q.res.isNone && s.worldOk eng (s.task q.sub).ctx
  else none

/-- A query takes a slot and runs. -/
def State.startQuery (s : State) (e : Nat) (q : GkoQuery) : State :=
  let t := s.task q.sub
  let (id, s) := s.addTask { kind := .query q.sub q.qi e, src := t.src, ctx := t.ctx,
                             eng := some ⟨.gecko, Fin.ofNat 32 e⟩, start := s.tick }
  let base := s.fld (Reg.GKO_CFG e) Reg.GKO_CFG_WORK
  let used := s.eng.queries.filterMap fun x => if x.eng = some e ∧ x.task.isSome then some x.work else none
  let work := (((List.range 128).map fun k => base + 65536 * k).find? fun w => !used.contains w).getD base
  let upd := fun (x : GkoQuery) =>
    if x.sub = q.sub ∧ x.qi = q.qi then { x with eng := some e, task := some id, work := work } else x
  ({ s with eng := { s.eng with queries := s.eng.queries.map upd } } : State).go

/-- GKO_QUERY_START (R363). -/
def execGkoQueryStart (e : Fin 2) (s : State) : Host.Outcome State Fault Refusal :=
  done s (match s.nextQuery e.val with
    | some q => s.startQuery e.val q
    | none => s)

/-- The insert of a subrequest's tag. -/
def Task.insertOf (tag : Nat) (t : Task) : Bool :=
  match t.kind with
  | .msg _ m => decide (m.hdr.seq.toNat = tag) && (match m.body with | .subreq (.gkoInsert ..) => true | _ => false)
  | _ => false

/-- INSERT_SLOT_REUSE (R375): the insert of a subrequest's tag looks at its slot's queries again. -/
def execInsertSlotReuse (tag : Nat) (s : State) : Host.Outcome State Fault Refusal :=
  done s (s.lookAgain (Task.insertOf tag))

/-- The row lock of a pending update is free: no update of its row runs, none that arrived earlier is pending (R409). -/
def State.rowFree (s : State) (k : Nat) (r : RowUpd) : Bool :=
  !(s.eng.rows.any fun x => x.addr = r.addr && x.task.isSome) &&
  (s.eng.rows.take k).all fun x => x.addr ≠ r.addr || x.res.isSome || x.sub = r.sub

/-- A row's update runs, with every pending record of its subrequest for the row (R409). -/
def State.startRow (s : State) (r : RowUpd) : State :=
  let t := s.task r.sub
  let (id, s) := s.addTask { kind := .row r.sub r.pos, src := t.src, ctx := t.ctx, start := s.tick }
  let upd := fun (x : RowUpd) =>
    if x.sub = r.sub ∧ x.addr = r.addr ∧ x.task.isNone ∧ x.res.isNone then { x with task := some id } else x
  ({ s with eng := { s.eng with rows := s.eng.rows.map upd } } : State).go

/-- ROW_UPDATE (R409). -/
def execRowUpdate (k : Nat) (s : State) : Host.Outcome State Fault Refusal :=
  done s (match s.eng.rows[k]? with
    | some r => if s.live && r.task.isNone && r.res.isNone && s.rowFree k r then s.startRow r else s
    | none => s)

/-- An EMB_SWITCH of a table. -/
def Task.switchOf (tab : Nat) (t : Task) : Bool :=
  match t.kind with
  | .desc .. => dOpcode t.bytes = 0x52 && decide (bits (dOp t.bytes 0) 9 0 = tab)
  | _ => false

/-- DRAIN_COUNT_ZERO (R404): a waiting EMB_SWITCH of the table looks at its count again. -/
def execDrainCountZero (t : Fin 1024) (ver : Bool) (s : State) : Host.Outcome State Fault Refusal :=
  done s (if s.drainOf t.val ver = 0 then s.lookAgain (Task.switchOf t.val) else s)

/-! ## Page moves (R81 to R86, R95) -/

/-- A chunk's read from the old frame has ended: it goes to the new frame, as poison when it was lost (R81, R85). -/
def State.moveChunk (s : State) (k c : Nat) (m : MoveSlot) (rd : MediumOutcome) : State :=
  match s.page m.page with
  | none => s
  | some e =>
    let from_ := cellKey (dieOf (m.page * 4096)) e.tier (e.frame * 4096 + c * 256) / 64
    let poisoned := (List.range 4).any fun i => SMap.get s.tier.poison (from_ + i) false
    let failed := rd = .ue || rd = .failed
    let s := if failed then s.mediumEvent rd (chunkEvent s m true c)
      else if poisoned then s.event .tierUe (chunkEvent s m true c) else s
    let s := if failed || poisoned then s.poisonChunk m.page c m else s.copyChunk m.page c e m
    let m' := { m with held := putBit m.held c true,
                       bad := if failed || poisoned then putBit m.bad c true else m.bad,
                       lost := m.lost || failed || poisoned }
    { s with tier := { s.tier with slots := SMap.put s.tier.slots k m' } }

/-- Whether a request that the arbiter accepted earlier has still to end at a chunk: a tier access in flight, or the
pending request of a transient line, or one of which some lines have been served (R81 step 2, R82, R200). -/
def State.chunkBusy (s : State) (chunk : Nat) : Bool :=
  s.tier.late.any (fun e => decide (e.2.line / 4 = chunk)) || s.tier.serving.any (fun e => decide (e.2 = chunk)) ||
  s.dir.any fun e => decide (e.1 / 4 = chunk) && e.2.st.transient

/-- The lines of a chunk with combined atomics, which come before its hold (R189). -/
def State.chunkCombines (s : State) (chunk : Nat) : List Nat :=
  (s.combine.map fun e => e.2.line).filter fun l => l / 4 = chunk

/-- CHUNK_MOVE (R81, R189): after every request that the arbiter accepted earlier. -/
def execChunkMove (slot : Fin 128) (c : Fin 16) (rd : MediumOutcome) (s : State) : Host.Outcome State Fault Refusal :=
  done s (match SMap.find s.tier.slots slot.val with
    | some m =>
      let chunk := m.page * 16 + c.val
      if bit m.mask c.val || bit m.held c.val || s.chunkBusy chunk then s
      else
        let s := (s.chunkCombines chunk).foldl (fun s l => s.submitOnce { line := l, who := .comb }) s
        if s.chunkBusy chunk || !(s.chunkCombines chunk).isEmpty then s.go else s.moveChunk slot.val c.val m rd
    | none => s)

/-- A chunk's home is the new frame now: its held requests are released; the last chunk ends the move (R81, R84). -/
def State.chunkHome (s : State) (k c : Nat) (m : MoveSlot) : State :=
  let m' := { m with mask := putBit m.mask c true, held := putBit m.held c false }
  let s := { s with tier := { s.tier with slots := SMap.put s.tier.slots k m' } }
  (if m'.mask = 2 ^ 16 - 1 then s.finishMove k m' else s).pump

/-- CHUNK_WRITE_ACK (R81, R85): a write that failed is issued once more, as poison. -/
def execChunkWriteAck (slot : Fin 128) (c : Fin 16) (rd : MediumOutcome) (s : State) : Host.Outcome State Fault Refusal :=
  let k := slot.val
  let i := c.val
  done s (match SMap.find s.tier.slots k with
    | some m =>
      if !bit m.held i then s
      else if rd = .ok || rd = .ce then (s.chunkHome k i m).go
      else
        let s := s.mediumEvent rd (chunkEvent s m false i)
        if bit m.again i then ((s.freeChunk m.page i m).chunkHome k i { m with lost := true }).go
        else
          let m' := { m with again := putBit m.again i true, bad := putBit m.bad i true, lost := true }
          let s := s.poisonChunk m.page i m
          { s with tier := { s.tier with slots := SMap.put s.tier.slots k m' } }
    | none => s)

/-- DECAY_SWEEP (R95). -/
def execDecaySweep (s : State) : Host.Outcome State Fault Refusal :=
  done s (s.tier.pht.foldl (fun s e => s.foldPage e.1) s)

/-! ## Translation (R53, R64 to R71) -/

/-- A task acts for a descriptor's task: a stream of its access program, a store access of its Kettle program. -/
def State.actsFor (s : State) (id : Nat) (t : Task) : Bool :=
  match t.kind with
  | .stream n _ _ => (s.newt n).task = some id
  | .kettle n => (s.kettle n).task = some id
  | _ => false

/-- PAGE_WALK (R53): the walk that a descriptor's access waits for begins. -/
def execPageWalk (d : DescRef) (va : BitVec 57) (acc : AccessKind) (s : State) : Host.Outcome State Fault Refusal :=
  done s (match s.findDesc d fun t => t.fin.isNone with
    | none => s
    | some (id, _) =>
      match s.tasks.find? fun t =>
          (t.1 = id || s.actsFor id t.2) && t.2.wait = .walk && t.2.need = some (va.toNat, acc) with
      | some (k, _) => (s.resume k).go
      | none => s)

/-- FAULT_RECORD_WAIT_END (R64). -/
def execFaultRecordWaitEnd (tok : BitVec 32) (s : State) : Host.Outcome State Fault Refusal :=
  done s (if s.xlt.toks.any fun k => k.tok = tok.toNat && !k.written then s.pumpRings else s)

/-- An outstanding token. -/
def State.findTok (s : State) (tok : Nat) : Option FaultTok := s.xlt.toks.find? fun k => k.tok = tok

/-- A write to `XLT_FAULT_RESP`: replay, abort, or a token that is not outstanding (R67 to R70). -/
def State.faultResponse (s : State) (v : Word) : State :=
  let action := newFld Reg.XLT_FAULT_RESP_ACTION v
  if action ≠ 1 ∧ action ≠ 2 then s
  else
    match s.findTok (newFld Reg.XLT_FAULT_RESP_TOKEN v) with
    | none => s.setFld Reg.XLT_FQ_CFG Reg.XLT_FQ_CFG_BADRESP 1
    | some k =>
      if action = 1 then ((s.tlbDrop k.ctx (alignDown k.va 4096) 4096).retire k {}).go
      else (s.retire k { st := faultStatus k.kind .fault }).go

/-- FAULT_REPLAY (R67). -/
def execFaultReplay (via : Via) (tok : BitVec 32) (s : State) : Host.Outcome State Fault Refusal :=
  done s (if s.mayWrite via Reg.XLT_FAULT_RESP.off then s.faultResponse (BitVec.ofNat 64 (tok.toNat + 2 ^ 32)) else s)

/-- FAULT_ABORT (R68). -/
def execFaultAbort (via : Via) (tok : BitVec 32) (s : State) : Host.Outcome State Fault Refusal :=
  done s (if s.mayWrite via Reg.XLT_FAULT_RESP.off then s.faultResponse (BitVec.ofNat 64 (tok.toNat + 2 ^ 33)) else s)

/-- FAULT_RESPONSE_TIMEOUT (R69); TMO 0 is no timeout. -/
def execFaultResponseTimeout (tok : BitVec 32) (s : State) : Host.Outcome State Fault Refusal :=
  let tmo := s.fld Reg.XLT_FQ_CFG Reg.XLT_FQ_CFG_TMO
  done s (match s.findTok tok.toNat with
    | some k => if tmo ≠ 0 ∧ k.since + us tmo ≤ s.tick then (s.retire k { st := .timeout }).go else s
    | none => s)

/-- A write that changes EN of a ring of records from 0 to 1: TAIL becomes HEAD and the phase restarts; the poison log and
the advisory ring also clear LOST (02, "The fault ring"; R219, R524). -/
def State.ringRestart (s : State) (k : Nat) : State :=
  let s := s.setFld (ringPtrs k) Reg.XLT_FQ_PTRS_TAIL (s.fld (ringPtrs k) Reg.XLT_FQ_PTRS_HEAD)
  if k = 0 then { s with xlt := { s.xlt with phase := true } }
  else
    let s := s.setFld (ringCfg k) Reg.HOME_PLOG_CFG_LOST 0
    if k = 1 then { s with ras := { s.ras with plogPhase := true } }
    else { s with ras := { s.ras with advPhase := true, alertAdv := [] } }

/-- Every outstanding token is retired as under abort (R71). -/
def State.retireAll (s : State) : State :=
  (s.xlt.toks.foldl (fun s k => s.retire k { st := faultStatus k.kind .fault }) s).go

/-- A write to a ring's BASE register (R71, R219, R524). -/
def State.writeRingBase (s : State) (via : Via) (k : Nat) (v : Word) : State :=
  let was := s.flag (ringBase k) Reg.XLT_FQ_BASE_EN
  let s := s.writePlain (s.secureVia via) (ringBase k) [] v.toNat
  if s.flag (ringBase k) Reg.XLT_FQ_BASE_EN then (if was then s else s.ringRestart k)
  else if k = 0 then s.retireAll else s

/-- FAULT_RING_ENABLE (R71). -/
def execFaultRingEnable (via : Via) (v : Word) (s : State) : Host.Outcome State Fault Refusal :=
  done s (if s.mayWrite via Reg.XLT_FQ_BASE.off ∧ newFld Reg.XLT_FQ_BASE_EN v = 1 then s.writeRingBase via 0 v else s)

/-- FAULT_RING_DISABLE (R71). -/
def execFaultRingDisable (via : Via) (v : Word) (s : State) : Host.Outcome State Fault Refusal :=
  done s (if s.mayWrite via Reg.XLT_FQ_BASE.off ∧ newFld Reg.XLT_FQ_BASE_EN v = 0 then s.writeRingBase via 0 v else s)

/-! ## Newts (R251 to R260) -/

/-- The Newt may begin a slot now: its program runs and none of its reads is stalled (R260). -/
def State.newtReady (s : State) (n : Nat) : Bool :=
  s.live && (s.newt n).task.isSome && !s.isContained (⟨.newt, Fin.ofNat 32 n⟩ : Eng).part && !s.streamStalled n

/-- A slot begins: its reads are issued, after the stream's earlier ones (R255). -/
def State.beginSlot (s : State) (n k : Nat) : State :=
  let r := s.newt n
  match r.streams[k]? with
  | none => s
  | some x => (s.setNewt n { r with last := k, streams := r.streams.set k { x with begun := x.begun + 1 } }).pumpReads.go

/-- NEWT_SLOT_BEGIN (R252): the ring whose turn it is. -/
def execNewtSlotBegin (n : Fin 32) (ring : Fin 8) (s : State) : Host.Outcome State Fault Refusal :=
  done s (if s.newtReady n.val && s.nextRing n.val = some ring.val then s.beginSlot n.val ring.val else s)

/-- NEWT_READ_RETURN (R251): the k-th of the reads that have their data. -/
def execNewtReadReturn (n : Fin 32) (k : Nat) (s : State) : Host.Outcome State Fault Refusal :=
  done s (match ((s.slotTasks n.val).filter fun id => (s.task id).wait = .reports)[k]? with
    | some id => (s.resume id).go
    | none => s)

/-! ## Time-outs of homes (R348) -/

/-- HOME_TMO_EXPIRY (R348). -/
def execHomeTmoExpiry (d : DescRef) (s : State) : Host.Outcome State Fault Refusal :=
  done s (match s.findDesc d fun t => t.fin.isNone with
    | some (id, t) =>
      let f := s.fan id
      if t.wait = .reports ∧ f.tmo ≠ 0 ∧ f.parts.any (fun p => !p.answered && decide (p.at_ + us f.tmo ≤ s.tick)) then
        (s.giveUpFan id .timeout).go
      else s
    | none => s)

end Sys2Proof.Machine
end

