-- ==== Sys2Proof/Machine/KettleOps.lean ====
section
/-! DEFINITION. The operations of Kettle programs as commands (10): each takes the instruction at a running Kettle's PC when
it is one of its own, and performs it (R301 to R312). -/

namespace Sys2Proof.Machine

/-- VFN MOV. -/
def kMov : KOp := kMap fun k i j => (k.vget (kA i + j), inFlags (k.vget (kA i + j)))

/-- An operation: the instruction at the Kettle's PC, when it has the opcode and M (none: any M). -/
def State.ktlRow (s : State) (n : Fin 32) (opc : Nat) (m : Option Nat) (f : KOp) : State :=
  match s.kNext n.val with
  | some i => if kOpc i = opc && m.all (· = kM i) then (s.kTake n.val (f s n.val i)).go else s
  | none => s

/-- A store access of a VLD or VST begins (R305): a task of the Kettle. -/
def State.kAccess (s : State) (n : Nat) : State :=
  let t := s.task ((s.kettle n).task.getD 0)
  let (id, s) := s.addTask { kind := .kettle n, src := t.src, ctx := t.ctx, eng := some (kEng n), start := s.tick }
  (s.setKettle n { s.kettle n with sub := some id }).go

/-- The operation of an instruction that reads or writes scratchpad. -/
def padOp (i : Nat) : Option KOp :=
  if kOpc i = 0x10 then some kLds
  else if kOpc i = 0x11 then some kMma
  else if bit (kM i) 2 then none
  else if kOpc i = 0x20 then some kVldPad
  else if kOpc i = 0x21 then some kVstPad
  else none

/-- An instruction that waits at a bank is taken up again (R227). -/
def State.kRetry (s : State) (n : Nat) : State :=
  match s.kNext n with
  | none => s
  | some i =>
    match (s.kettle n).bank, padOp i with
    | some _, some f => s.kTake n (f s n i)
    | _, _ => s

/-- Who waits at a bank, with the request: a task, or an instruction of a Kettle. -/
def State.bankWaiters (s : State) (b : Nat) : List (BankReq × Sum Nat Nat) :=
  (s.tasks.filterMap fun t => match t.2.bank with
    | some r => if r.bank = b ∧ t.2.wait = .held then some (r, .inl t.1) else none
    | none => none) ++
  s.eng.kettles.filterMap fun k => match k.2.bank with
    | some r => if r.bank = b then some (r, .inr k.1) else none
    | none => none

/-- A waiting request is granted. -/
def State.bankServe (s : State) (w : Sum Nat Nat) : State :=
  match w with
  | .inl id => match SMap.find s.tasks id with
    | some t => if s.runnable id t then s.runTask id else s
    | none => s
  | .inr n => s.kRetry n

/-- The first of a list by a key. -/
def leastBy (key : α → Nat × Nat) : List α → Option α
  | [] => none
  | x :: xs => match leastBy key xs with
    | none => some x
    | some y => if (key y).1 < (key x).1 ∨ ((key y).1 = (key x).1 ∧ (key y).2 < (key x).2) then some y else some x

/-- What waits at a bank is granted, two requests at a time: those that rank highest, or after a handover those that arrived
first (R227 step 6, R230, R233). Of the two, the one that ranks higher reads first, or writes last (R231). -/
def State.serveBank (b : Nat) (arrival : Bool) : Nat → State → State
  | 0, s => s
  | fuel + 1, s =>
    let key := fun (w : BankReq × Sum Nat Nat) => (if arrival then 0 else s.bankRank b w.1.who, w.1.at_)
    let ws := s.bankWaiters b
    match leastBy key ws with
    | none => s
    | some x =>
      match leastBy key (ws.filter fun w => w.1.at_ ≠ x.1.at_) with
      | none => State.serveBank b arrival fuel (s.bankServe x.2)
      | some y =>
        let (hi, lo) := if s.bankRank b y.1.who < s.bankRank b x.1.who then (y, x) else (x, y)
        let (u, v) := if hi.1.write then (lo, hi) else (hi, lo)
        State.serveBank b arrival fuel ((s.bankServe u.2).bankServe v.2)

/-- VLD and VST: the store space with M[2] = 1, else the given operation (R305). -/
def State.ktlSpace (s : State) (n : Fin 32) (opc : Nat) (f : KOp) : State :=
  match s.kNext n.val with
  | some i =>
    if kOpc i ≠ opc then s
    else if bit (kM i) 2 then s.kAccess n.val
    else (s.kTake n.val (f s n.val i)).go
  | none => s

/-- KTL_END (R312). -/
def execKtlEnd (n : Fin 32) (s : State) : Host.Outcome State Fault Refusal :=
  done s (match s.kNext n.val with
    | some i => if kOpc i = 0x01 then (s.kEnd n.val .ok 0 0 []).go else s
    | none => s)

/-- VLD (R305). -/
def execVld (n : Fin 32) (s : State) : Host.Outcome State Fault Refusal := done s (s.ktlSpace n 0x20 kVldPad)

/-- VST (R305). -/
def execVst (n : Fin 32) (s : State) : Host.Outcome State Fault Refusal := done s (s.ktlSpace n 0x21 kVstPad)

/-- KTL_NOP (R301). -/
def execKtlNop (n : Fin 32) (s : State) : Host.Outcome State Fault Refusal :=
  done s (s.ktlRow n 0x00 none kNop)

/-- KTL_SET (R301). -/
def execKtlSet (n : Fin 32) (s : State) : Host.Outcome State Fault Refusal :=
  done s (s.ktlRow n 0x02 none kSet)

/-- KTL_ADDI (R301). -/
def execKtlAddi (n : Fin 32) (s : State) : Host.Outcome State Fault Refusal :=
  done s (s.ktlRow n 0x03 none kAddi)

/-- KTL_ADD (R301). -/
def execKtlAdd (n : Fin 32) (s : State) : Host.Outcome State Fault Refusal :=
  done s (s.ktlRow n 0x04 none kAdd)

/-- LOOP (R311). -/
def execLoop (n : Fin 32) (s : State) : Host.Outcome State Fault Refusal :=
  done s (s.ktlRow n 0x05 none kLoop)

/-- RWAIT (R309). -/
def execRwait (n : Fin 32) (s : State) : Host.Outcome State Fault Refusal :=
  done s (s.ktlRow n 0x08 none kRwait)

/-- RREL (R310). -/
def execRrel (n : Fin 32) (s : State) : Host.Outcome State Fault Refusal :=
  done s (s.ktlRow n 0x09 none kRrel)

/-- LDS (R301). -/
def execLds (n : Fin 32) (s : State) : Host.Outcome State Fault Refusal :=
  done s (s.ktlRow n 0x10 none kLds)

/-- MMA (R302). -/
def execMma (n : Fin 32) (s : State) : Host.Outcome State Fault Refusal :=
  done s (s.ktlRow n 0x11 none kMma)

/-- ACCRD (R304). -/
def execAccrd (n : Fin 32) (s : State) : Host.Outcome State Fault Refusal :=
  done s (s.ktlRow n 0x12 none kAccrd)

/-- ACCCLR (R301). -/
def execAccclr (n : Fin 32) (s : State) : Host.Outcome State Fault Refusal :=
  done s (s.ktlRow n 0x13 none kAccclr)

/-- VOP_ADD (R301). -/
def execVopAdd (n : Fin 32) (s : State) : Host.Outcome State Fault Refusal :=
  done s (s.ktlRow n 0x22 (some 0) (kVop add32))

/-- VOP_SUB (R301). -/
def execVopSub (n : Fin 32) (s : State) : Host.Outcome State Fault Refusal :=
  done s (s.ktlRow n 0x22 (some 1) (kVop sub32))

/-- VOP_MUL (R301). -/
def execVopMul (n : Fin 32) (s : State) : Host.Outcome State Fault Refusal :=
  done s (s.ktlRow n 0x22 (some 2) (kVop mul32))

/-- VOP_MAX (R301). -/
def execVopMax (n : Fin 32) (s : State) : Host.Outcome State Fault Refusal :=
  done s (s.ktlRow n 0x22 (some 3) (kVop max32))

/-- VOP_MIN (R301). -/
def execVopMin (n : Fin 32) (s : State) : Host.Outcome State Fault Refusal :=
  done s (s.ktlRow n 0x22 (some 4) (kVop min32))

/-- VOPI_ADD (R301). -/
def execVopiAdd (n : Fin 32) (s : State) : Host.Outcome State Fault Refusal :=
  done s (s.ktlRow n 0x23 (some 0) (kVopi add32))

/-- VOPI_SUB (R301). -/
def execVopiSub (n : Fin 32) (s : State) : Host.Outcome State Fault Refusal :=
  done s (s.ktlRow n 0x23 (some 1) (kVopi sub32))

/-- VOPI_MUL (R301). -/
def execVopiMul (n : Fin 32) (s : State) : Host.Outcome State Fault Refusal :=
  done s (s.ktlRow n 0x23 (some 2) (kVopi mul32))

/-- VOPI_MAX (R301). -/
def execVopiMax (n : Fin 32) (s : State) : Host.Outcome State Fault Refusal :=
  done s (s.ktlRow n 0x23 (some 3) (kVopi max32))

/-- VOPI_MIN (R301). -/
def execVopiMin (n : Fin 32) (s : State) : Host.Outcome State Fault Refusal :=
  done s (s.ktlRow n 0x23 (some 4) (kVopi min32))

/-- KTL_FMA (R301). -/
def execKtlFma (n : Fin 32) (s : State) : Host.Outcome State Fault Refusal :=
  done s (s.ktlRow n 0x24 none kFma)

/-- VFN_EXP2 (R290). -/
def execVfnExp2 (n : Fin 32) (s : State) : Host.Outcome State Fault Refusal :=
  done s (s.ktlRow n 0x25 (some 0) (kVfn exp2_32))

/-- VFN_RCP (R290). -/
def execVfnRcp (n : Fin 32) (s : State) : Host.Outcome State Fault Refusal :=
  done s (s.ktlRow n 0x25 (some 1) (kVfn rcp32))

/-- VFN_RSQRT (R290). -/
def execVfnRsqrt (n : Fin 32) (s : State) : Host.Outcome State Fault Refusal :=
  done s (s.ktlRow n 0x25 (some 2) (kVfn rsqrt32))

/-- VFN_TANH (R290). -/
def execVfnTanh (n : Fin 32) (s : State) : Host.Outcome State Fault Refusal :=
  done s (s.ktlRow n 0x25 (some 3) (kVfn tanh32))

/-- VFN_SIGMOID (R290). -/
def execVfnSigmoid (n : Fin 32) (s : State) : Host.Outcome State Fault Refusal :=
  done s (s.ktlRow n 0x25 (some 4) (kVfn sigmoid32))

/-- VFN_MOV (R301). -/
def execVfnMov (n : Fin 32) (s : State) : Host.Outcome State Fault Refusal :=
  done s (s.ktlRow n 0x25 (some 5) kMov)

/-- RED_SUM (R290). -/
def execRedSum (n : Fin 32) (s : State) : Host.Outcome State Fault Refusal :=
  done s (s.ktlRow n 0x26 (some 0) (kRed (redSum 6)))

/-- RED_MAX (R290). -/
def execRedMax (n : Fin 32) (s : State) : Host.Outcome State Fault Refusal :=
  done s (s.ktlRow n 0x26 (some 1) (kRed fun l => (rowMax l, 0)))

/-- CAST (R287). -/
def execCast (n : Fin 32) (s : State) : Host.Outcome State Fault Refusal :=
  done s (s.ktlRow n 0x27 none kCast)

/-- LSEM (R291). -/
def execLsem (n : Fin 32) (s : State) : Host.Outcome State Fault Refusal :=
  done s (s.ktlRow n 0x28 none kLsem)

/-- MASK (R306). -/
def execMask (n : Fin 32) (s : State) : Host.Outcome State Fault Refusal :=
  done s (s.ktlRow n 0x29 none kMask)

/-- SCAP (R301). -/
def execScap (n : Fin 32) (s : State) : Host.Outcome State Fault Refusal :=
  done s (s.ktlRow n 0x2A none kScap)

/-- TOPK (R307). -/
def execTopk (n : Fin 32) (s : State) : Host.Outcome State Fault Refusal :=
  done s (s.ktlRow n 0x2B none kTopk)

end Sys2Proof.Machine
end

