-- ==== Sys2Proof/Machine/Ras.lean ====
section
/-! DEFINITION. Containment, escalation, watchdogs, health commands, advisories and the event recorder (18: R498 to R531). -/

namespace Sys2Proof.Machine

/-! ## Objects -/

/-- The object that a code names (18, "Scopes"). -/
def partOf (code : Nat) : PartId := obj (bits code 31 24) (bits code 23 0)

/-- The engine that an object is, if it is one. -/
def engOf (p : PartId) : Option Eng :=
  if h : p.idx.toNat < 32 then
    let i : Fin 32 := ⟨p.idx.toNat, h⟩
    match p.kind.toNat with
    | 4 => some ⟨.newt, i⟩
    | 5 => some ⟨.kettle, i⟩
    | 6 => some ⟨.gecko, i⟩
    | 7 => some ⟨.emb, i⟩
    | 8 => some ⟨.mover, i⟩
    | _ => none
  else none

/-- The kind of object that a scope has (R498, R502). -/
def scopeFits (scope : Nat) (p : PartId) : Bool :=
  let k := p.kind.toNat
  match scope with
  | 3 => k = 0x11
  | 4 => decide (4 ≤ k) && decide (k ≤ 8)
  | 5 => k = 0x12
  | 6 => k = 0x13
  | 7 => k = 0x20
  | _ => false

/-- Queues that are not DISABLED, as far as their state differs from reset. -/
def State.enabledQueues (s : State) : List Nat :=
  let base := (Reg.Q_STATE 0).off
  (s.regs.filterMap fun e =>
    if base ≤ e.1 ∧ (e.1 - base) % 64 = 0 ∧ (e.1 - base) / 64 < 4096 then some ((e.1 - base) / 64) else none).filter
      fun q => s.qState q ≠ 0

/-- A task's work is held by an engine. -/
def State.onEngine (s : State) (e : Eng) (id : Nat) (t : Task) : Bool :=
  t.eng = some e || (e.kind = .newt && (s.newt e.idx.val).task = some id) ||
  (e.kind = .kettle && (s.kettle e.idx.val).task = some id)

/-! ## Actions in progress (R510 to R513) -/

/-- The steps of an action that are still to be done: work of its object that has not ended. -/
def State.actionBusy (s : State) (a : Action) : Bool :=
  match a.scope with
  | 3 => s.tasks.any fun t => t.2.ctx = a.obj.idx.toNat && t.2.kill.isSome && t.2.fin.isNone
  | 4 =>
    match engOf a.obj with
    | some e => s.tasks.any fun t => s.onEngine e t.1 t.2 && t.2.fin.isNone
    | none => false
  | _ => false

/-- Actions whose last step is done leave. -/
def State.pruneActions (s : State) : State :=
  { s with ras := { s.ras with actions := s.ras.actions.filter s.actionBusy } }

/-- An action enters. -/
def State.enterAction (s : State) (p : PartId) (scope nest : Nat) : State :=
  { s with ras := { s.ras with
      contained := if s.ras.contained.contains p then s.ras.contained else s.ras.contained ++ [p],
      actions := s.ras.actions ++ [⟨p, scope, nest⟩] } }

/-- The CONTAIN record and advisory of an action. -/
def State.containEvent (s : State) (p : PartId) (scope nest : Nat) (st : Status) : State :=
  s.eventAdvise .contain { object := p, cause := st.code, scope := scope, nest := nest } st.code

/-! ## Scopes (R498) -/

/-- A queue stops with cause 5. Its clean steep-cache lines are dropped; the dirty ones go once its descriptors have written
them back (R164, R166). -/
def State.stopContained (s : State) (q : Nat) : State :=
  (s.stopQueue q 5 0).discardSteep fun _ x => ofQueue q x && x.dirty = 0

/-- Context scope: the context's queues stop, and each descriptor stalled on one of its faults ends (R70). -/
def State.containCtx (s : State) (c nest : Nat) : State :=
  let s := s.enterAction (obj 0x11 c) 3 nest
  let s := (s.enabledQueues.filter fun q => s.fld (Reg.Q_CFG q) Reg.Q_CFG_CTX = c).foldl State.stopContained s
  let ids := (s.xlt.toks.filter fun k => k.ctx = c).flatMap FaultTok.joined
  let s := ids.foldl (fun s id => s.killTask id .aborted) s
  (s.containEvent (obj 0x11 c) 3 nest .aborted).go

/-- Engine scope: dirty bytes go, the queues of its descriptors stop, its work ends, what it held is lost (R164, R516); a
descriptor that was ending ends with NESTED and UNDEF (R514). -/
def State.containEng (s : State) (e : Eng) (nest : Nat) (st : Status) : State :=
  let s := s.enterAction e.part 4 nest
  let s := s.discardSteep fun x _ => x = e
  let s := (s.tasks.filter fun t => s.onEngine e t.1 t.2).foldl (fun s (id, t) =>
    match t.kind with
    | .desc q _ _ _ =>
      let t' := s.task id
      let s := s.setTask id { t' with nested := t'.nested || t'.ending.isSome || decide (0 < nest),
                                      ending := t'.ending.map fun f => { f with undef := true } }
      (s.killTask id st).stopContained q
    | _ => s) s
  ((s.loseState e.part).containEvent e.part 4 nest st).go

/-- Region and composition scope. -/
def State.containObj (s : State) (p : PartId) (scope nest : Nat) : State :=
  (s.enterAction p scope nest).containEvent p scope nest (if scope = 5 then .poison else .fenced)

/-- What hardware does at module scope (R504, R505): every queue is STOPPED with cause 5 and no record, all work ends,
what waits at a port or head is answered. -/
def State.haltModule (s : State) : State :=
  let s := s.enabledQueues.foldl (fun s q =>
    let s := s.setQueue q { (s.queue q) with noRecords := true, due := [], fetched := [], fetching := false }
    (s.setFld (Reg.Q_STATE q) Reg.Q_STATE_STATE 3).setFld (Reg.Q_STATE q) Reg.Q_STATE_STOP_CAUSE 5) s
  let s := s.tasks.foldl (fun s t =>
    match t.2.kind with
    | .msg p m =>
      if p = selfPort then s
      else s.respondVia p m (.refuse (match m.body with | .subreq _ => .aborted | _ => .fenced)) false
    | _ => s) s
  let s := s.waitq.foldl (fun s r => match r.who with | .host h hd op => s.refuseHost h hd r.line op | _ => s) s
  { s with
    tasks := [], eng := {}, waitq := [], dmas := [], ringBusy := [],
    fab := { s.fab with outs := [], resets := [], ports := s.fab.ports.mapv fun _ p =>
      { p with tx := p.tx.filter fun x => x.2.body.cls = .resp && !x.2.hdr.transit } },
    xlt := { s.xlt with toks := [] },
    tier := { s.tier with late := [] },
    ringq := s.ringq.filter fun r => r.ring = 2,
    ras := { s.ras with moduleContained := true, journal := [], actions := [⟨obj 0x20 0, 7, 0⟩] } }

/-- Module scope (R504, R505), with its FATAL record and advisory. -/
def State.containModule (s : State) (extra nest : Nat) : State :=
  let s := if s.ras.moduleContained then s else s.haltModule
  (s.eventAdvise .containFatal
    { object := obj 0x20 0, cause := Status.aborted.code, scope := 7, nest := nest, extra := extra }
    Status.aborted.code).pumpRings

/-- An action in progress whose steps use an engine (R511): a context's, while the engine runs work of it that is ending. -/
def State.actionUsing (s : State) (e : Eng) : Option Action :=
  s.ras.actions.find? fun a =>
    a.scope = 3 && s.tasks.any fun t => t.2.ctx = a.obj.idx.toNat && t.2.kill.isSome && s.onEngine e t.1 t.2

/-- An error in an engine: it joins an action on the engine, escalates one that uses it, or starts one (R500, R510 to
R512). -/
def State.engineError (s : State) (e : Eng) (st : Status) : State :=
  let s := (s.pruneActions).score e.part .containment
  if s.ras.moduleContained then s.containModule 0 2
  else
    match s.ras.actions.find? fun a => a.obj = e.part with
    | some a => s.event .contain { object := e.part, cause := st.code, scope := a.scope, nest := a.nest }
    | none =>
      match s.actionUsing e with
      | some a => (s.event .escalate { object := a.obj, cause := a.scope, scope := a.scope }).containModule 0 1
      | none => s.containEng e 0 st

/-! ## `RAS_CONTAIN` (R502, R503) -/

/-- A GO is refused (R502). -/
def State.refusesGo (s : State) (secure : Bool) (scope action : Nat) (p : PartId) : Bool :=
  !scopeFits scope p || (action ≠ 1 && action ≠ 2) || (action = 2 && scope = 7) ||
  (!secure && (decide (5 ≤ scope) || (scope = 3 && s.secureCtx p.idx.toNat) ||
    (scope = 4 && match engOf p with | some e => s.secureEng e | none => false)))

/-- A release (R503): the object takes part again; an engine starts empty. -/
def State.releaseObj (s : State) (scope : Nat) (p : PartId) : State :=
  let s := s.pruneActions
  if !s.isContained p || s.ras.actions.any (fun a => a.obj = p) then s
  else
    let s := { s with ras := { s.ras with contained := s.ras.contained.filter (· ≠ p) } }
    let s := match engOf p with
      | some e =>
        let s := if e.kind = EngKind.kettle then s.setKettle e.idx.val {} else if e.kind = EngKind.newt then s.setNewt e.idx.val {} else s
        if engHasSteep e then s.setSteep e [] else s
      | none => s
    (s.event .release { object := p, scope := scope }).go

/-- A write to `RAS_CONTAIN`. -/
def State.writeContain (s : State) (via : Via) (v : Word) : State :=
  let s := s.writePlain (s.secureVia via) Reg.RAS_CONTAIN [] v.toNat
  if newFld Reg.RAS_CONTAIN_GO v = 0 then s
  else
    let scope := newFld Reg.RAS_CONTAIN_SCOPE v
    let action := newFld Reg.RAS_CONTAIN_ACTION v
    let p := partOf (newFld Reg.RAS_CONTAIN_OBJECT v)
    if s.refusesGo (s.secureVia via) scope action p then s.setFld Reg.RAS_CONTAIN Reg.RAS_CONTAIN_REFUSED 1
    else if action = 2 then s.releaseObj scope p
    else if scope = 7 then s.containModule 0 0
    else if s.isContained p then s
    else
      match scope, engOf p with
      | 3, _ => s.containCtx (p.idx.toNat % 2 ^ 16) 0
      | 4, some e => s.containEng e 0 .aborted
      | 4, none => s
      | _, _ => s.containObj p scope 0

/-- CONTAIN (R502). -/
def execContain (via : Via) (v : Word) (s : State) : Host.Outcome State Fault Refusal :=
  done s (if s.mayWrite via Reg.RAS_CONTAIN.off ∧ newFld Reg.RAS_CONTAIN_GO v = 1 ∧ newFld Reg.RAS_CONTAIN_ACTION v = 1 then
    s.writeContain via v else s)

/-- RELEASE (R503). -/
def execRelease (via : Via) (v : Word) (s : State) : Host.Outcome State Fault Refusal :=
  done s (if s.mayWrite via Reg.RAS_CONTAIN.off ∧ newFld Reg.RAS_CONTAIN_GO v = 1 ∧ newFld Reg.RAS_CONTAIN_ACTION v = 2 then
    s.writeContain via v else s)

/-- MODULE_CONTAINMENT (R505). -/
def execModuleContainment (cause : BitVec 32) (s : State) : Host.Outcome State Fault Refusal :=
  done s (s.containModule cause.toNat (if s.ras.moduleContained then 2 else 0))

/-! ## Watchdogs (R500, R501) -/

/-- An engine runs work and has made no progress since a tick: nothing of it is outstanding, it waits for nothing that R500
excepts, and its work has had no answer and retired no instruction since. -/
def State.noProgress (s : State) (e : Eng) (since : Nat) : Bool :=
  let on := s.tasks.filter fun t => s.onEngine e t.1 t.2 && t.2.fin.isNone
  let k := s.kettle e.idx.val
  !on.isEmpty &&
  (on.all fun t => (t.2.wait = .ready || t.2.wait = .reports) && decide (max t.2.start t.2.moved ≤ since)) &&
  (e.kind ≠ .kettle || (k.running && !k.rwait && k.bank.isNone && k.sub.isNone && decide (k.moved ≤ since)))

/-- ENGINE_WATCHDOG (R500): after ENG_WDT milliseconds of MODULE_TICK without progress. -/
def execEngineWatchdog (e : Eng) (s : State) : Host.Outcome State Fault Refusal :=
  let wdt := us (1000 * s.fld Reg.RAS_CFG Reg.RAS_CFG_ENG_WDT)
  done s (if wdt ≠ 0 && s.live && decide (wdt ≤ s.tick) && s.noProgress e (s.tick - wdt) then s.engineError e .aborted else s)

/-- STEWARD_WATCHDOG (R501): EXTRA 1 names the steward watchdog. It escalates every action in progress (R511, R514). -/
def execStewardWatchdog (s : State) : Host.Outcome State Fault Refusal :=
  let busy := !s.pruneActions.ras.actions.isEmpty
  let t := s.containModule 1 (if s.ras.moduleContained then 2 else busy.toNat)
  done s { t with ras := { t.ras with romOnly := true }, sec := { t.sec with udsLatched := true } }

/-! ## Health (R519 to R523) -/

/-- A part's event: a corrected error of a scratchpad bank also counts in CE (R234). -/
def State.partEvent (s : State) (p : PartId) (ev : PartEvent) : State :=
  let s := if p.kind = 3 ∧ ev = .ce ∧ p.idx.toNat < 2048 then
      let s := s.bump (Reg.CADDY_OWN p.idx.toNat) Reg.CADDY_OWN_CE 1
      let n := SMap.get s.pad.ces p.idx.toNat 0 + 1
      { s with pad := { s.pad with ces := SMap.set s.pad.ces p.idx.toNat n 0 } }
    else s
  s.score p ev

/-- A part's event with the containment that R500 gives it (log 72): an error in an engine, in a Kettle a parity error that ends
its work with ST_POISON (R286); an uncorrectable error in what a region, a composition or the module keeps. -/
def State.healthEvent (s : State) (p : PartId) (ev : PartEvent) : State :=
  match engOf p with
  | some e =>
    if ev = .containment && s.present e then s.engineError e (if e.kind = .kettle then .poison else .aborted)
    else s.partEvent p ev
  | none =>
    if ev ≠ .ue || s.ras.moduleContained || s.isContained p then s.partEvent p ev
    else if p.kind = 0x12 then s.containObj p 5 0
    else if p.kind = 0x13 then s.containObj p 6 0
    else if p.kind = 0x20 then s.containModule 0 0
    else s.partEvent p ev

/-- HEALTH_EVENT (R286, R500, R519 to R521). -/
def execHealthEvent (part : PartId) (ev : PartEvent) (s : State) : Host.Outcome State Fault Refusal :=
  done s (s.healthEvent part ev).go

/-- A part whose score has fallen returns to GOOD below half of ADVISE (R521). -/
def State.fallScore (s : State) (p : PartId) (new : Nat) : State :=
  let s := s.setHealth p { s.health p with score := new }
  if (s.health p).st = 1 ∧ 2 * new < s.advisePoint p.kind.toNat then
    (s.setHealth p { s.health p with st := 0 }).event .healthGood { object := p, cause := new / 256 }
  else s

/-- Decay of one part in one operating second (R519); a cartridge's score does not decay (R523). -/
def State.decayPart (s : State) (code : Nat) (h : Health) : State :=
  let p := partOf code
  let k := p.kind.toNat
  if h.st = 3 ∨ k = 0xA then s
  else s.fallScore p (h.score - h.score / 2 ^ max 8 (s.fld (Reg.RAS_HCFG k) Reg.RAS_HCFG_H))

/-- HEALTH_DECAY (R519): once for each operating second. -/
def execHealthDecay (s : State) : Host.Outcome State Fault Refusal :=
  done s (if s.ras.healthAt < s.opSec then
      let s := { s with ras := { s.ras with healthAt := s.ras.healthAt + 1 } }
      s.ras.health.foldl (fun s e => s.decayPart e.1 e.2) s
    else s)

/-- A cartridge's score in 1/256 point: 1 000 × (BIAS − BIAS0) ÷ BIAS0, not below 0 (R523). -/
def laserScore (bias bias0 : Nat) : Nat := if bias0 = 0 then 0 else 1000 * 256 * (bias - bias0) / bias0

/-- LASER_SCORE_UPDATE (R523): once in every operating second; BIAS0 is the mean of the first 60 while ACTIVE. -/
def execLaserScoreUpdate (c : Fin 8) (bias : BitVec 16) (s : State) : Host.Outcome State Fault Refusal :=
  let s0 := s
  let st := s.fld (Reg.ZL_LSR c.val) Reg.ZL_LSR_STATE
  let p := obj 0xA c.val
  let s := s.setFld (Reg.ZL_LSR c.val) Reg.ZL_LSR_BIAS bias.toNat
  let l := SMap.get s.fab.lasers c.val {}
  let l := if st = 2 ∧ l.secs < 60 then
      let l := { l with secs := l.secs + 1, sum := l.sum + bias.toNat }
      if l.secs = 60 then { l with bias0 := l.sum / 60 } else l
    else l
  let s := { s with fab := { s.fab with lasers := SMap.set s.fab.lasers c.val l {} } }
  let new := min (if st = 4 then s.retirePoint 0xA else laserScore bias.toNat l.bias0) (2 ^ 32 - 1)
  done s0 (if new < (s.health p).score then s.fallScore p new else s.raiseScore p new)

/-- A write to `RAS_HEALTH_SEL`: the part's health is snapshot (R521). -/
def State.writeHealthSel (s : State) (via : Via) (v : Word) : State :=
  let s := s.writePlain (s.secureVia via) Reg.RAS_HEALTH_SEL [] v.toNat
  let h := s.health (partOf (newFld Reg.RAS_HEALTH_SEL_PART v))
  ((s.setFld Reg.RAS_HEALTH Reg.RAS_HEALTH_SCORE h.score).setFld Reg.RAS_HEALTH Reg.RAS_HEALTH_STATE h.st).setFld
    Reg.RAS_HEALTH Reg.RAS_HEALTH_EVENTS h.events

/-- HEALTH_SNAPSHOT (R521). -/
def execHealthSnapshot (via : Via) (v : Word) (s : State) : Host.Outcome State Fault Refusal :=
  done s (if s.mayWrite via Reg.RAS_HEALTH_SEL.off then s.writeHealthSel via v else s)

/-- ADVISORY_RING_ENABLE (R524). -/
def execAdvisoryRingEnable (via : Via) (v : Word) (s : State) : Host.Outcome State Fault Refusal :=
  done s (if s.mayWrite via Reg.RAS_ADV_BASE.off ∧ newFld Reg.XLT_FQ_BASE_EN v = 1 then s.writeRingBase via 2 v else s)

/-- ALERT_N is asserted (R526). -/
def State.alertN (s : State) : Bool :=
  let n := s.ringLen 2
  let head := s.fld Reg.RAS_ADV_PTRS Reg.XLT_FQ_PTRS_HEAD
  let tail := s.fld Reg.RAS_ADV_PTRS Reg.XLT_FQ_PTRS_TAIL
  s.ras.moduleContained || s.ras.alertAdv.any fun i => decide ((i + n - head) % n < (tail + n - head) % n)

/-! ## The event recorder (R527 to R531) -/

/-- An open record is programmed now. -/
def State.closeRecord (s : State) (r : Rec) : State :=
  let s := { s with ras := { s.ras with open_ := s.ras.open_.filter fun x => x.seq ≠ r.seq } }
  s.program r

/-- RECORD_WINDOW_CLOSE (R529). -/
def execRecordWindowClose (seq : Nat) (s : State) : Host.Outcome State Fault Refusal :=
  done s (match s.ras.open_.find? fun r => r.seq = seq with
    | some r => if r.tick + 2 ^ 30 ≤ s.tick then s.closeRecord r else s
    | none => s)

/-- Every open record is programmed (R529). -/
def State.closeAll (s : State) : State := s.ras.open_.foldl State.closeRecord s

/-- The 128-bit mask of retired parts (R527). -/
def State.retiredMask (s : State) : Nat :=
  let bitsOf := fun (kind at_ n : Nat) => (List.range n).filterMap fun i =>
    if s.retired (obj kind i) then some (at_ + i) else none
  maskOf (bitsOf 1 0 8 ++ bitsOf 2 8 32 ++ bitsOf 4 40 32 ++ bitsOf 5 72 32 ++ bitsOf 6 104 2 ++ bitsOf 7 106 2 ++
    bitsOf 8 108 8)

/-- A counter entry is written; `off` says how the module is being powered down, 0 while it is not. -/
def State.writeCounter (s : State) (off : Nat) : State :=
  let c : CounterEnt := { opSec := s.opSec % 2 ^ 32, pcycle := s.fld Reg.EVR_COUNT Reg.EVR_COUNT_PCYCLE,
                          dropped := s.ras.dropped, mask := s.retiredMask, off := off }
  { s with flash := { s.flash with counter := some c }, ras := { s.ras with counterAt := s.opSec } }

/-- COUNTER_ENTRY_WRITE (R527): every 16 operating seconds. -/
def execCounterEntryWrite (s : State) : Host.Outcome State Fault Refusal :=
  done s (if s.ras.counterAt + 16 ≤ s.opSec then s.writeCounter 0 else s)

/-- CRC-32C of a byte string (the polynomial is the standard one: PRESUMED, log 60). -/
def crc32c (l : List Byte) : Nat :=
  let step := fun (c : Nat) => if c % 2 = 1 then (c / 2) ^^^ 0x82F63B78 else c / 2
  (l.foldl (fun c b => step (step (step (step (step (step (step (step (c ^^^ b.toNat))))))))) 0xFFFFFFFF) ^^^ 0xFFFFFFFF

/-- The 64 bytes of a record (18, "Record"). -/
def Rec.bytes (r : Rec) : List Byte :=
  let b := natLE 4 r.seq ++ natLE 4 r.opSec ++ natLE 4 r.pcycle ++ natLE 2 r.kind ++
    natLE 1 (r.severity + r.nest * 4 + r.scope * 16) ++ [0] ++ natLE 8 r.tick ++ natLE 4 r.object ++ natLE 4 r.count ++
    natLE 8 r.where_ ++ natLE 4 r.cause ++ natLE 16 r.extra
  b ++ natLE 4 (crc32c b)

/-- A write to `EVR_RD` (R528, R529). -/
def State.writeEvrRd (s : State) (via : Via) (v : Word) : State :=
  let s := s.writePlain (s.secureVia via) Reg.EVR_RD [] v.toNat
  match SMap.find s.flash.records (newFld Reg.EVR_RD_INDEX v) with
  | none => s.setFld Reg.EVR_RD Reg.EVR_RD_BAD 1
  | some r =>
    let b := r.bytes
    (List.range 8).foldl (fun s k => s.setReg (Reg.EVR_DATA k) (fieldLE b (8 * k) 8)) (s.setFld Reg.EVR_RD Reg.EVR_RD_BAD 0)

/-- EVR_LOAD (R528). -/
def execEvrLoad (via : Via) (v : Word) (s : State) : Host.Outcome State Fault Refusal :=
  done s (if s.mayWrite via Reg.EVR_RD.off then s.writeEvrRd via v else s)

end Sys2Proof.Machine
end

