-- ==== Sys2Proof/Machine/Hosts.lean ====
section
/-! DEFINITION. Hosts at the home (06, and the CXL.mem side of 16): which messages are served, the directory's part in
them, hosts that go down, coherence domains (R192 to R221, R457 to R460, R569). -/

namespace Sys2Proof.Machine

/-! ## Decoders (R457, R458) -/

end Sys2Proof.Machine

namespace Sys2Proof

/-- The device physical address to which a committed decoder translates a host physical address, if it maps it. -/
def Decoder.map (d : Decoder) (hpa : Nat) : Option Nat :=
  if hpa < d.base ∨ d.base + d.size ≤ hpa then none
  else
    let o := hpa - d.base
    if o / d.gran % d.ways = d.pos then some (d.dpaBase + o / (d.gran * d.ways) * d.gran + o % d.gran) else none

/-- The state that a MetaValue asks for: No-Op asks as I (06, "The message set"); none for the reserved value (R197). -/
def MetaValue.asks : MetaValue → Option MetaValue
  | .i | .noOp => some .i
  | .a => some .a
  | .s => some .s
  | .reserved => none

end Sys2Proof

namespace Sys2Proof.Machine

/-- The decoder of a head that maps a host physical address, and the module-local address (R457). -/
def State.hostDecode (s : State) (h hpa : Nat) : Option (Nat × Nat) :=
  (SMap.get s.heads h {}).decoders.findSome? fun (k, d) => (d.map hpa).map fun l => (k, l)

/-- The line named in messages about a host physical address: module-local where a decoder maps it (log 30). -/
def State.hostLine (s : State) (r : HostMsg) : Nat :=
  match s.hostDecode r.head.val r.hpa.toNat with
  | some (_, l) => l / 64
  | none => r.hpa.toNat / 64

/-- CXL.mem messages arrive through a head (R454, R467, R541, R547). -/
def State.memArrives (s : State) (h : Nat) : Bool :=
  (s.ready || s.power = 3) && s.flag (Reg.HEAD_STAT h) Reg.HEAD_STAT_CXLMEM &&
    s.fld (Reg.HEAD_STAT h) Reg.HEAD_STAT_IN_RESET = 0

/-- The directory knows the host: VALID behind this head, and not down (R193, R215). -/
def State.hostKnown (s : State) (r : HostMsg) : Bool :=
  let g := fun f => s.fld (Reg.HOME_HOST r.host.val) f
  g Reg.HOME_HOST_VALID = 1 && g Reg.HOME_HOST_DOWN = 0 && g Reg.HOME_HOST_HEAD = r.head.val

/-! ## Coherence domains -/

/-- A domain lists a host (R195). -/
def State.domLists (s : State) (d n : Nat) : Bool := bit (s.fld (Reg.HOME_CDOM_HOSTS d) Reg.HOME_CDOM_HOSTS_HOSTS) n

/-- The line lies in a region of a RECOVERING domain. -/
def State.lineRecovering (s : State) (line : Nat) : Bool :=
  match s.domOf line with
  | some d => s.domState d = 1
  | none => false

/-- A domain that lists host n is RECOVERING (R194, R221). -/
def State.hostRecovering (s : State) (n : Nat) : Bool :=
  (List.range 256).any fun d => s.domLists d n && s.domState d = 1

/-! ## A host goes down (R213 to R217) -/

/-- The line read as poison from now on: in the frame that is its home and, while its chunk moves, in the other (R215). -/
def State.poisonHome (s : State) (line : Nat) : State :=
  let s := s.setLinePoison line true
  match s.tier.slots.find? fun e => e.2.page = line / 64 ∧ bit e.2.held (line % 64 / 4) with
  | some (_, m) =>
    let c := cellKey (dieOf (line * 64)) m.tier (m.frame * 4096 + line % 64 * 64) / 64
    { s with tier := { s.tier with poison := SMap.set s.tier.poison c true false } }
  | none => s

/-- The poison record of a page: the lines lost with host n (06, "The poison log"). -/
def poisonRec (page mask n cause dom : Nat) : RingRec :=
  { ring := 1, bytes := natLE 8 (page * 4096) ++ natLE 8 mask ++ natLE 1 n ++ natLE 1 cause ++ natLE 1 dom ++
      List.replicate 13 0 }

/-- A request of host n. -/
def Who.ofHost (n : Nat) : Who → Bool
  | .host h _ _ => h = n
  | _ => false

/-- A domain that lists n enters RECOVERING (step 2). -/
def State.enterRecovery (s : State) (n d : Nat) : State :=
  if s.domLists d n ∧ s.domState d = 0 then
    (s.setFld (Reg.HOME_CDOM_STATE d) Reg.HOME_CDOM_STATE_STATE 1).setFld (Reg.HOME_CDOM_STATE d)
      Reg.HOME_CDOM_STATE_POISONED 0
  else s

/-- Waiting requests of host n are dropped (step 3). -/
def State.dropHostReqs (s : State) (n : Nat) : State :=
  let gone := fun (d : Delayed) => match d with | .host r => r.who.ofHost n | .task .. => false
  { s with
    waitq := s.waitq.filter fun r => !r.who.ofHost n,
    dir := s.dir.mapv fun _ e => if (e.pend.map (Who.ofHost n)).getD false then { e with pend := none } else e,
    qos := { s.qos with meters := s.qos.meters.mapv fun _ m => { m with dq := m.dq.filter fun x => !gone x.1 } } }

/-- The owner n of a line is lost: the line is poisoned unless n wrote it back (step 4). -/
def State.loseOwner (s : State) (line : Nat) (e : DirEnt) : State :=
  if e.wrote then s
  else
    let s := s.poisonHome line
    match s.domOf line with
    | some d => s.bump (Reg.HOME_CDOM_STATE d) Reg.HOME_CDOM_STATE_POISONED 1
    | none => s

/-- Host n leaves a line's entry (steps 3 and 4). -/
def State.leaveLine (s : State) (n line : Nat) (e : DirEnt) : State :=
  match e.st with
  | .s => if bit e.sharers n then s.dirS line (putBit e.sharers n false) else s
  | .m => if e.owner = n then (s.loseOwner line e).dirI line else s
  | .sInv =>
    { s with dir := SMap.put s.dir line { e with awaited := putBit e.awaited n false, sharers := putBit e.sharers n false } }
  | .mData | .mInv =>
    if e.owner = n then
      let s := s.loseOwner line e
      { s with dir := SMap.put s.dir line { e with awaited := 0, keep := false } }
    else s

/-- Lines whose only current copy host n holds. -/
def State.lostLines (s : State) (n : Nat) : List Nat :=
  (s.dir.filter fun e => e.2.st ≠ .s && e.2.st ≠ .sInv && e.2.owner = n && !e.2.wrote).map (·.1)

/-- The poison records of a list of lines (step 4): each slice reports its own lines of a page, which are the four of one
chunk (R40, R218). -/
def State.poisonRecs (s : State) (n cause : Nat) (lines : List Nat) : List RingRec :=
  ((lines.map (· / 4)).eraseDups).map fun c =>
    poisonRec (c / 16) (maskOf ((lines.filter fun l => l / 4 = c).map (· % 64))) n cause ((s.domOf (c * 4)).getD 0)

/-- Requests of surviving hosts that wait for a line of a RECOVERING domain are answered as R216 gives. -/
def State.flushRecovering (s : State) : State :=
  let due := fun (r : LineReq) => s.lineRecovering r.line && !s.ownWrite r && match r.who with | .host .. => true | _ => false
  let rs := s.waitq.filter due
  let s := { s with waitq := s.waitq.filter fun r => !due r }
  rs.foldl (fun s r => match r.who with | .host h hd op => s.answerRecovering h hd r.line op | _ => s) s

/-- The hosts that may hold a line now or once its pending request is performed. -/
def DirEnt.holders (e : DirEnt) : List Nat :=
  let p := match e.pend with | some (.host h _ _) => 2 ^ h | _ => 0
  let o := if e.st = DirState.s ∨ e.st = DirState.sInv then 0 else 2 ^ e.owner
  setBits 64 (e.sharers ||| o ||| p)

/-- Every line of a RECOVERING domain is recalled from the hosts that hold it (step 5). -/
def State.recallRecovering (s : State) : State :=
  (s.dir.filter fun e => s.lineRecovering e.1).foldl (fun s (line, e) =>
    (e.holders).foldl (fun s g => s.submit { line := line, who := .recall g }) s) s

/-- Host n goes down (R213 to R215). -/
def State.declareDown (s : State) (n cause : Nat) : State :=
  let r := Reg.HOME_HOST n
  if s.flag r Reg.HOME_HOST_DOWN then s
  else
    let s := (s.setFld r Reg.HOME_HOST_DOWN 1).setFld r Reg.HOME_HOST_DOWN_CAUSE cause
    let s := if 2 ≤ cause then s.eventAdvise .hostDown { object := obj 0x14 n, cause := cause } cause else s
    let s := (List.range 256).foldl (fun s d => s.enterRecovery n d) s
    let s := s.dropHostReqs n
    let recs := s.poisonRecs n cause (s.lostLines n)
    let s := { (s.dir.foldl (fun s e => s.leaveLine n e.1 e.2) s) with ringq := s.ringq ++ recs }
    (s.flushRecovering.pump.recallRecovering).go

/-- A protocol error of a host: it goes down, and its head is scored (R198, R520). -/
def State.protocolError (s : State) (r : HostMsg) : State :=
  (s.score (obj 0xB r.head.val) .protocolError).declareDown r.host.val 4

/-! ## Admission (R14, R46, R76, R102, R195, R458, R464, R504, R569) -/

/-- A decoded host request passes every check; without `graded` it gives up or returns a line (R504, R569): then neither the
fence of its head nor check 5 is asked, and a host that has left an extent's list while it holds a line may still return it,
so that the extent's contents are kept (R104; log 95). -/
def State.hostPasses (s : State) (r : HostMsg) (k l : Nat) (write graded : Bool) : Bool :=
  let h := r.head.val
  let ctx := s.fld (Reg.HEAD_HDM_CTX h k) Reg.HEAD_HDM_CTX_CTX
  let fenced := graded && !bit (s.fld Reg.GLB_PART_CTL Reg.GLB_PART_CTL_HEADS) h
  let listed := match s.regionOf l with | some (_, g) => s.domLists g.dom r.host.val | none => false
  let comp := match s.compOf l with | some c => s.isContained (obj 0x13 c) | none => false
  let ext := match s.extentOf l with
    | some (_, x) => x.st = .accepted && (bit x.listed r.host.val || !graded)
    | none => false
  s.live && s.flag Reg.ZL_IDENT Reg.ZL_IDENT_SET && ctx ≠ 0 && ctx ≠ 0xFFFF && !fenced &&
  (!s.flag (Reg.HEAD_CFG h) Reg.HEAD_CFG_IDE_REQ || s.flag (Reg.HEAD_STAT h) Reg.HEAD_STAT_IDE_MEM) &&
  listed && !comp && s.regionCheck ctx l write graded = .ok && s.placeCheck l = .ok && ext

/-- How a host request fares before the directory. -/
inductive Admitted where
  | refused
  | recovering (line : Nat)
  | served (line ctx : Nat)
  deriving DecidableEq, Repr

/-- The line's owner is the host. -/
def State.owns (s : State) (n line : Nat) : Bool :=
  match SMap.find s.dir line with
  | some e => e.st ≠ .s && e.st ≠ .sInv && e.owner = n
  | none => false

/-- Admission of a host request; `gives` when it gives up or returns a line (R504, R569). -/
def State.admitHost (s : State) (r : HostMsg) (write : Bool) (gives : Nat → Bool) : Admitted :=
  match s.hostDecode r.head.val r.hpa.toNat with
  | none => .refused
  | some (k, l) =>
    let g := gives (l / 64)
    if !s.hostKnown r || !s.hostPasses r k l write (!g) then .refused
    else if !g && ((s.domOf (l / 64)).map s.domState).getD 0 ≠ 0 then .recovering (l / 64)
    else .served (l / 64) (s.fld (Reg.HEAD_HDM_CTX r.head.val k) Reg.HEAD_HDM_CTX_CTX)

/-- The write of a line's owner at its arbiter: behind nothing but a chunk in flight (R201, R203, R206). -/
def State.ownerWrite (s : State) (q : LineReq) : State :=
  match s.arbiter q with
  | (s', true) => s'.pump
  | (s', false) => { s' with waitq := q :: s'.waitq }

/-- A host's request at its slice: it counts as one access to its page (R93); a read or a write counts 64 bytes (R113). -/
def hostLineReq (n h : Nat) (op : HostOp) (line ctx : Nat) : LineReq :=
  { line := line, who := .host n h op, ctx := some ctx, bytes := if op.lineOp.isSome then 64 else 0, counts := true }

/-- A read, an invalidation or a write of a host (R203, R216, R460). While the slice can hold no further request (R208), or the
delay queue of the meter is full (R445), the head takes no request of those kinds: it has not arrived (log 94). -/
def State.hostRequest (s : State) (r : HostMsg) (op : HostOp) : State :=
  let h := r.head.val
  let n := r.host.val
  let isWr := match op with | .wr .. => true | _ => false
  if !s.memArrives h then s
  else
    match s.admitHost r op.isWrite fun line => isWr && s.owns n line with
    | .refused => s.refuseHost n h (s.hostLine r) op
    | .recovering line => s.answerRecovering n h line op
    | .served line ctx =>
      let q : LineReq := hostLineReq n h op line ctx
      if isWr then
        if s.owns n line then (s.ownerWrite q).go
        else
          match op with
          | .wr _ _ _ .a | .wr _ _ _ .s => s.protocolError r
          | _ => (s.submit q).go
      else if s.sliceFull line then s
      else
        match s.meterCheck ctx (.host q) 64 with
        | (s', .pass _) => (s'.submit q).go
        | (s', _) => if s.delayFull ctx then s else s'

/-- A message whose MetaValue is reserved is a protocol error of a known host (R197); of any other host it is answered
as R460 gives. A host behind a fenced head errs like any other (log 83). -/
def State.hostMeta (s : State) (r : HostMsg) (mv : MetaValue) (f : MetaValue → HostOp) : State :=
  match mv.asks with
  | some v => s.hostRequest r (f v)
  | none =>
    if !s.memArrives r.head.val then s
    else if s.hostKnown r && s.live then s.protocolError r
    else s.refuseHost r.host.val r.head.val (s.hostLine r) (f .i)

/-! ## Requests of hosts -/

/-- MEM_RD (R203). -/
def execMemRd (r : HostMsg) (mv : MetaValue) (s : State) : Host.Outcome State Fault Refusal :=
  done s (s.hostMeta r mv fun v => match v with | .a => .rdA | .s => .rdS | _ => .rdI)

/-- MEM_RD_DATA (R203): a MemRd with MetaValue S. -/
def execMemRdData (r : HostMsg) (s : State) : Host.Outcome State Fault Refusal :=
  done s (s.hostRequest r .rdS)

/-- MEM_INV (R203); MemInvNT alike. -/
def execMemInv (r : HostMsg) (mv : MetaValue) (s : State) : Host.Outcome State Fault Refusal :=
  done s (s.hostMeta r mv fun v => match v with | .a => .invA | _ => .invN)

/-- MEM_WR (R203). -/
def execMemWr (r : HostMsg) (mv : MetaValue) (data : List Byte) (poison : Bool) (s : State) :
    Host.Outcome State Fault Refusal :=
  done s (s.hostMeta r mv fun v => .wr fullMask (fitBytes 64 data) poison v)

/-- A partial write: with MetaValue S or A it is a protocol error (R203). -/
def State.hostPartial (s : State) (r : HostMsg) (mv : MetaValue) (mask : Nat) (data : List Byte) : State :=
  let op : HostOp := .wr mask (fitBytes 64 data) false .i
  if mv.asks = some .i then s.hostRequest r op
  else if !s.memArrives r.head.val then s
  else
    match s.admitHost r true fun line => s.owns r.host.val line with
    | .refused => s.refuseHost r.host.val r.head.val (s.hostLine r) op
    | .recovering line => s.answerRecovering r.host.val r.head.val line op
    | .served .. => s.protocolError r

/-- MEM_WR_PTL (R203). -/
def execMemWrPtl (r : HostMsg) (mv : MetaValue) (mask : Word) (data : List Byte) (s : State) :
    Host.Outcome State Fault Refusal :=
  done s (if mv = .reserved then s.hostMeta r mv fun v => .wr mask.toNat (fitBytes 64 data) false v
    else s.hostPartial r mv mask.toNat data)

/-- MEM_SPEC_RD (R203, R460): no effect and no response, served or not. -/
def execMemSpecRd (_r : HostMsg) (s : State) : Host.Outcome State Fault Refusal := done s s

/-- A host gives up a line (R203, row MemClnEvct). -/
def State.cleanEvict (s : State) (n line : Nat) : State :=
  match SMap.find s.dir line with
  | none => s
  | some e =>
    match e.st with
    | .s => s.dirS line (putBit e.sharers n false)
    | .m => if e.owner = n then s.dirI line else s
    | _ => s

/-- MEM_CLN_EVCT (R203). -/
def execMemClnEvct (r : HostMsg) (s : State) : Host.Outcome State Fault Refusal :=
  let h := r.head.val
  let n := r.host.val
  done s (if !s.memArrives h then s
    else
      match s.admitHost r false fun _ => true with
      | .served line _ => (((s.accept false true (line * 64) 0).cleanEvict n line).toHost h n line .cmp).pump.go
      | _ => s.refuseHost n h (s.hostLine r) .invN)

/-- MEM_RD_FWD (R198): MemRdFwd and MemWrFwd are protocol errors of a known host; R460 gives no answer for them. -/
def execMemRdFwd (r : HostMsg) (_wr : Bool) (s : State) : Host.Outcome State Fault Refusal :=
  done s (if s.memArrives r.head.val && s.live && s.hostKnown r then s.protocolError r else s)

/-! ## Answers of hosts -/

/-- BI_CONFLICT (R193, R203, R205, R460): every completion sent to the host stands before the acknowledgement. -/
def execBiConflict (r : HostMsg) (s : State) : Host.Outcome State Fault Refusal :=
  done s (if s.memArrives r.head.val then s.toHost r.head.val r.host.val (s.hostLine r) .biConflictAck else s)

/-- A BIRsp from a known host: `kept` for BIRspS, an error where R203 says so (R460, R504). -/
def State.biRsp (s : State) (r : HostMsg) (kept : Bool) : State :=
  if !s.memArrives r.head.val || !s.live || !s.hostKnown r then s
  else
    match s.hostDecode r.head.val r.hpa.toNat with
    | none => s.protocolError r
    | some (_, l) =>
      match SMap.find s.dir (l / 64) with
      | some e =>
        if !bit e.awaited r.host.val || (kept && e.st ≠ .mData) then s.protocolError r
        else (s.answerSnoop (l / 64) r.host.val kept).go
      | none => s.protocolError r

/-- BI_RSP_I (R203, R204). -/
def execBiRspI (r : HostMsg) (s : State) : Host.Outcome State Fault Refusal := done s (s.biRsp r false)

/-- BI_RSP_S (R203, R204). -/
def execBiRspS (r : HostMsg) (s : State) : Host.Outcome State Fault Refusal := done s (s.biRsp r true)

/-- BI_RSP_E (R203): BIRspE and the Blk forms are protocol errors of a known host. -/
def execBiRspE (r : HostMsg) (_blk : Bool) (s : State) : Host.Outcome State Fault Refusal :=
  done s (if s.memArrives r.head.val && s.live && s.hostKnown r then s.protocolError r else s)

/-! ## Requests of engines at the home -/

/-- A request that reaches this home is served, or ended by a check (R46, R203, R211, R212); a contained module
answers `ST_FENCED` (R504). -/
def State.engRequest (s : State) (r : EngReq) (wr : Option (List Bool × List Byte)) : State :=
  if !s.ready then s
  else if s.ras.moduleContained then { s with out := { s.out with answers := s.out.answers ++ [(r, { st := .fenced })] } }
  else ((s.addTask { kind := .eng r wr, src := r.src, ctx := r.ctx.toNat, start := s.tick }).2.runTask s.nextTask).go

/-- ENGINE_READ (R212). -/
def execEngineRead (r : EngReq) (s : State) : Host.Outcome State Fault Refusal := done s (s.engRequest r none)

/-- ENGINE_WRITE (R211). -/
def execEngineWrite (r : EngReq) (mask : List Bool) (data : List Byte) (s : State) : Host.Outcome State Fault Refusal :=
  done s (s.engRequest r (some (mask, data)))

/-! ## Hosts and domains as software sees them -/

/-- The snoop timeout in ticks: 0 µs acts as 1, values above 2 000 as 2 000 (R209). -/
def State.snoopTicks (s : State) : Nat := us (min 2000 (max 1 (s.fld Reg.HOME_BI_CFG Reg.HOME_BI_CFG_TMO)))

/-- SNOOP_TIMEOUT (R213). -/
def execSnoopTimeout (host : Fin 64) (s : State) : Host.Outcome State Fault Refusal :=
  done s (if s.dir.any fun e => bit e.2.awaited host.val && decide (e.2.since + s.snoopTicks ≤ s.tick) then
      s.declareDown host.val 2
    else s)

/-- A write to `HOME_HOST_n` (R193, R194, R213, R221). -/
def State.writeHomeHost (s : State) (via : Via) (n : Nat) (v : Word) : State :=
  let r := Reg.HOME_HOST n
  if !s.secureVia via then s
  else
    let valid := s.flag r Reg.HOME_HOST_VALID
    let down := s.flag r Reg.HOME_HOST_DOWN
    let busy := s.hostRecovering n
    let s := if valid then s
      else (s.setFld r Reg.HOME_HOST_HEAD (newFld Reg.HOME_HOST_HEAD v)).setFld r Reg.HOME_HOST_BI_ID
        (newFld Reg.HOME_HOST_BI_ID v)
    let s := if newFld Reg.HOME_HOST_VALID v = 1 then s.setFld r Reg.HOME_HOST_VALID 1
      else if !valid then s
      else if down && !busy then s.setFld r Reg.HOME_HOST_VALID 0
      else s.ignored (obj 0x14 n) r.off v.toNat
    if newFld Reg.HOME_HOST_DOWN v = 1 then s.declareDown n 1
    else if down && !busy then (s.setFld r Reg.HOME_HOST_DOWN 0).setFld r Reg.HOME_HOST_DOWN_CAUSE 0
    else s

/-- HOST_DOWN_DECLARE (R213). -/
def execHostDownDeclare (via : Via) (host : Fin 64) (v : Word) (s : State) : Host.Outcome State Fault Refusal :=
  done s (if s.mayWrite via (Reg.HOME_HOST host.val).off ∧ newFld Reg.HOME_HOST_DOWN v = 1 then
    s.writeHomeHost via host.val v else s)

/-- HOST_RETURN (R221). -/
def execHostReturn (via : Via) (host : Fin 64) (v : Word) (s : State) : Host.Outcome State Fault Refusal :=
  done s (if s.mayWrite via (Reg.HOME_HOST host.val).off ∧ newFld Reg.HOME_HOST_DOWN v = 0 then
    s.writeHomeHost via host.val v else s)

/-- HOST_INVALIDATE (R194). -/
def execHostInvalidate (via : Via) (host : Fin 64) (v : Word) (s : State) : Host.Outcome State Fault Refusal :=
  done s (if s.mayWrite via (Reg.HOME_HOST host.val).off ∧ newFld Reg.HOME_HOST_VALID v = 0 then
    s.writeHomeHost via host.val v else s)

/-- Steps 3 to 5 of R215 have finished: no line of a RECOVERING domain is held or being recalled. -/
def State.recoveryDone (s : State) : Bool :=
  !(s.dir.any fun e => s.lineRecovering e.1) &&
  !(s.waitq.any fun r => s.lineRecovering r.line && match r.who with | .recall _ => true | _ => false)

/-- DOMAIN_DOWN (R215 step 6). -/
def execDomainDown (s : State) : Host.Outcome State Fault Refusal :=
  done s (if s.recoveryDone then
      ((List.range 256).filter fun d => s.domState d = 1).foldl (fun s d =>
        (s.setFld (Reg.HOME_CDOM_STATE d) Reg.HOME_CDOM_STATE_STATE 2).event .domainState
          { object := obj 0x15 d, cause := 2,
            extra := s.fld (Reg.HOME_CDOM_STATE d) Reg.HOME_CDOM_STATE_POISONED }) s
    else s)

/-- A write to `HOME_CDOM_STATE_d` (R220). -/
def State.writeDomState (s : State) (via : Via) (d : Nat) (v : Word) : State :=
  if !s.secureVia via || newFld Reg.HOME_CDOM_STATE_RESTART v = 0 then s
  else if s.domState d = 2 ∧ ((List.range 64).all fun n =>
      !s.domLists d n || !s.flag (Reg.HOME_HOST n) Reg.HOME_HOST_DOWN) then
    s.setFld (Reg.HOME_CDOM_STATE d) Reg.HOME_CDOM_STATE_STATE 0
  else s.ignored (obj 0x15 d) (Reg.HOME_CDOM_STATE d).off v.toNat

/-- RESTART (R220). -/
def execRestart (via : Via) (dom : Fin 256) (s : State) : Host.Outcome State Fault Refusal :=
  done s (if s.mayWrite via (Reg.HOME_CDOM_STATE dom.val).off then s.writeDomState via dom.val 4 else s)

/-- POISON_LOG_ENABLE (R219). -/
def execPoisonLogEnable (via : Via) (v : Word) (s : State) : Host.Outcome State Fault Refusal :=
  done s (if s.mayWrite via Reg.HOME_PLOG_BASE.off ∧ newFld Reg.XLT_FQ_BASE_EN v = 1 then s.writeRingBase via 1 v else s)

end Sys2Proof.Machine
end

