-- ==== Sys2Proof/Machine/Receive.lean ====
section
/-! DEFINITION. What arrives over the fabric (14): flits, credits, messages for this module, messages that pass through it,
and answers to what it sent (R421 to R434). -/

namespace Sys2Proof.Machine

/-! ## The link layer (R421, R422) -/

/-- Units of credit that a message takes. -/
def units (m : Msg) : Nat := (16 + m.body.len + 63) / 64

/-- The far end may send: the port is UP, or FENCED, which still accepts what was granted (R435). -/
def State.portHears (s : State) (n : Nat) : Bool := s.portState n = 3 || s.portState n = 5

/-- Credits returned for a message taken out of the receive buffer; a FENCED port tells the far end later (R435). -/
def State.giveCredit (s : State) (n : Nat) (m : Msg) : State :=
  let p := s.port n
  let v := vcOf m
  let g := p.given.set v ((p.given.getD v 0 + units m) % 2 ^ 16)
  let s := s.setPort n { p with given := g }
  if s.portState n = 5 then s else { s with out := { s.out with credit := s.out.credit ++ [(n, g)] } }

/-- A flit put on a port's fibre. -/
def State.emit (s : State) (n : Nat) (f : Flit) : State := { s with out := { s.out with wire := s.out.wire ++ [(n, f)] } }

/-- The flit that a port sends with some messages, with what it has to say about the other direction. -/
def Port.flit (p : Port) (idle : Bool) (ms : List Msg) : Flit :=
  { fseq := BitVec.ofNat 14 p.nextF, ack := BitVec.ofNat 14 (p.expect + 2 ^ 14 - 1), nak := p.nak, idle := idle,
    intact := true, msgs := ms }

/-- Flits that an ACK leaves unacknowledged. -/
def unacked (l : List Flit) (ack : BitVec 14) : List Flit := l.filter fun f => decide ((ack - f.fseq).toNat ≥ 2 ^ 13)

/-- Whether a message is taken from a port: none on the service port (R415), the hall's only while the uplinks are open
and of the carried kinds (R34, R434), an accelerator's only of the allowed kinds (R423, R571). -/
inductive Taken where
  | yes | discard | silent
  deriving DecidableEq, Repr

/-- The TYPEs that an accelerator may send (R423). -/
def accelMay : Body → Bool
  | .rd .. | .wr .. | .atom .. | .doorbell .. | .streamReset _ | .rdData _ | .ack => true
  | _ => false

/-- The messages that a gateway carries (R434). -/
def hallMay : Body → Bool
  | .rd .. | .wr .. | .wrMasked .. | .rdData _ | .ack | .refuse _ | .streamReset _ => true
  | .atom _ sub w _ _ => sub = 0xFE && w = 64
  | _ => false

/-- Whether a message is well formed at all (R423, R571). -/
def msgOk (m : Msg) : Bool :=
  !m.bad && (match m.body with
    | .other _ => false
    | .wrMasked a mask _ => mask ≠ 0 && a.toNat % 64 = 0
    | _ => true)

/-- What becomes of a message that a flit brings. -/
def State.taken (s : State) (n : Nat) (m : Msg) : Taken :=
  if n = 49 then .silent
  else if 45 ≤ n ∧ ¬ s.hallOpen then .silent
  else if ¬ msgOk m then .discard
  else if 31 ≤ n ∧ n ≤ 44 ∧ (m.hdr.transit ∨ ¬ accelMay m.body) then .discard
  else if 45 ≤ n ∧ ¬ hallMay m.body then .silent
  else .yes

/-- A message that a flit brings joins the receive buffer, or is discarded. -/
def State.takeMsg (s : State) (n : Nat) (m : Msg) : State :=
  match s.taken n m with
  | .yes => s.setPort n { s.port n with rx := (s.port n).rx ++ [m] }
  | .discard => (s.discarded n m.body.type).giveCredit n m
  | .silent => s.giveCredit n m

/-- A flit arrives (R421). -/
def State.flitArrives (s : State) (n : Nat) (f : Flit) : State :=
  let p := s.port n
  if !f.intact then
    if p.nak then s else (s.setPort n { p with nak := true }).emit n ({ p with nak := true }.flit true [])
  else
    let p := { p with replay := unacked p.replay f.ack }
    let s := if f.nak then p.replay.foldl (fun s x => s.emit n { x with ack := (p.flit true []).ack }) s else s
    if f.idle then s.setPort n p
    else
      let d := (f.fseq.toNat + 2 ^ 14 - p.expect) % 2 ^ 14
      if d = 0 then
        let p := { p with expect := (p.expect + 1) % 2 ^ 14, nak := false }
        f.msgs.foldl (fun s m => s.takeMsg n m) ((s.setPort n p).emit n (p.flit true []))
      else if d < 2 ^ 13 ∧ ¬ p.nak then (s.setPort n { p with nak := true }).emit n ({ p with nak := true }.flit true [])
      else s.setPort n p

/-- FLIT_RECEIVED (R421, R423). -/
def execFlitReceived (n : Fin 50) (f : Flit) (s : State) : Host.Outcome State Fault Refusal :=
  done s (if s.portHears n.val then s.flitArrives n.val f else s)

/-- Units freed on a virtual channel: those sent first are freed first. -/
def freeFlight (v : Nat) : Nat → List (Nat × Nat × Bool) → List (Nat × Nat × Bool)
  | _, [] => []
  | d, (w, k, t) :: l =>
    if w ≠ v then (w, k, t) :: freeFlight v d l
    else if d < k then (w, k - d, t) :: l
    else freeFlight v (d - k) l

/-- CREDIT (R421): the first counts since full training tell the far end's buffer, later ones what it has freed. -/
def execCredit (n : Fin 50) (counts : List (BitVec 16)) (s : State) : Host.Outcome State Fault Refusal :=
  let p := s.port n.val
  let c := (List.range 8).map fun v => (counts.getD v 0).toNat
  done s (if !s.portHears n.val then s
    else if p.total.isEmpty then s.setPort n.val { p with total := c, last := c }
    else
      let fl := (List.range 8).foldl (fun l v => freeFlight v ((c.getD v 0 + 2 ^ 16 - p.last.getD v 0) % 2 ^ 16) l) p.flight
      s.setPort n.val { p with last := c, flight := fl })

/-! ## Answers to what this module sent (R430 to R434, R570) -/

/-- The answer of a response, as a task sees it. -/
def respAns (h : MsgHdr) : Body → Ans
  | .rdData d => { data := d }
  | .atomResult v => { val := v.toNat }
  | .refuse st => { st := st, val := 1 + h.srcRack.toNat * 32 + h.src.toNat }
  | _ => {}

/-- An ATOM that is answered by ATOM_RESULT: any but the poison marker (R507, R570). -/
def isAtom : Body → Bool
  | .atom _ sub _ _ _ => sub ≠ 0xFE
  | _ => false

/-- A response comes from the home of module number d. -/
def fromHome (m : Msg) (d : Nat) : Bool := decide (d = m.hdr.srcRack.toNat * 32 + m.hdr.src.toNat)

/-- The refusal of an intermediate of a detour to module d of this rack (R426, R427). -/
def State.fromVia (s : State) (m : Msg) (d : Nat) : Bool :=
  match m.body with
  | .refuse .fenced => decide (d / 32 = s.rack) && decide (m.hdr.srcRack.toNat = s.rack) &&
      (List.range 4).any fun j => s.detourVia (d % 32) j = m.hdr.src.toNat
  | _ => false

/-- A response concerns a message kept: of the same home, or refused on a detour to it (log 79), and of the same source
behind a gateway (R434). -/
def State.concerns (s : State) (m : Msg) (o : OutMsg) : Bool :=
  let h := m.hdr
  (fromHome m o.dst || s.fromVia m o.dst) &&
  (match o.gw with
   | none => decide (h.dstRack.toNat = s.rack) && decide (h.dst.toNat = s.module)
   | some (_, w) => w.hdr.srcRack = h.dstRack && w.hdr.src = h.dst)

/-- A response answers a message kept. An ACK covers every store of the stream up to its number but atomics; an
ATOM_RESULT its atomic; a REFUSE a store or a read by its number; RD_DATA a read by its tag. -/
def State.answers (s : State) (m : Msg) (o : OutMsg) : Bool :=
  let h := m.hdr
  let d := (h.seq.toNat + 2 ^ 24 - o.seq) % 2 ^ 24
  s.concerns m o &&
  (match m.body with
   | .rdData _ => !o.store && d = 0
   | .ack => o.store && decide (o.stream = h.stream.toNat) && decide (d < 2 ^ 23) && !isAtom o.msg.body
   | .atomResult _ => o.store && decide (o.stream = h.stream.toNat) && d = 0 && isAtom o.msg.body
   | .refuse _ => d = 0 && (!o.store || decide (o.stream = h.stream.toNat))
   | _ => false)

/-- A message kept has its answer: it goes to the task that waits, or through the gateway to its source (R434). -/
def State.outAnswered (s : State) (m : Msg) (o : OutMsg) : State :=
  match o.gw with
  | some (p, w) =>
    let s := s.respondVia p w m.body false
    if o.store then s.storeDone w.hdr else s
  | none =>
    match o.task with
    | some id => s.deliver id (respAns m.hdr m.body)
    | none => s

/-- Messages kept that a response answers: the first only, one of the home that sent it before any other, but for the
cumulative ACK. -/
def State.answered (s : State) (m : Msg) : List OutMsg :=
  let l := s.fab.outs.filter (s.answers m)
  match m.body with
  | .ack => l
  | _ => ((l.filter fun o => fromHome m o.dst) ++ l).take 1

/-- The home of the subrequest that a report or a refusal answers. -/
def State.answersPart (s : State) (m : Msg) : Option Nat :=
  let ps := (s.eng.fans.flatMap fun e => e.2.parts).filter fun p => decide (p.tag = m.hdr.seq.toNat)
  (ps.find? fun p => decide (p.dst = m.hdr.src.toNat) || s.fromVia m (s.rack * 32 + p.dst)).map (·.dst)

/-- A STREAM_RESET that an ACK acknowledges (R432). -/
def resetDone (m w : Msg) : Bool :=
  match m.body, w.body with
  | .ack, .streamReset first =>
    w.hdr.dst = m.hdr.src && w.hdr.dstRack = m.hdr.srcRack && w.hdr.stream = m.hdr.stream && m.hdr.seq = first - 1 &&
      w.hdr.srcRack = m.hdr.dstRack && w.hdr.src = m.hdr.dst
  | _, _ => false

/-- Whether a response answers something of this module. -/
def State.awaited (s : State) (m : Msg) : Bool :=
  !(s.answered m).isEmpty || s.fab.resets.any (resetDone m) ||
  (decide (m.hdr.dstRack.toNat = s.rack) && decide (m.hdr.dst.toNat = s.module) &&
    (match m.body with
     | .report _ | .refuse _ => (s.answersPart m).isSome
     | _ => false))

/-- A response taken: to what it answers, or to the coordinator of its subrequest; any other is discarded (R431). -/
def State.response (s : State) (m : Msg) : State :=
  let l := s.answered m
  let s := { s with fab := { s.fab with
    outs := s.fab.outs.filter fun o => !l.contains o, resets := s.fab.resets.filter fun w => !resetDone m w } }
  let s := l.foldl (fun s o => s.outAnswered m o) s
  let s := match m.body, s.answersPart m with
    | .report r, some d => s.fanAnswer d m.hdr.seq.toNat (.ok r)
    | .refuse st, some d => if l.isEmpty then s.fanAnswer d m.hdr.seq.toNat (.error st) else s
    | _, _ => s
  s.go

/-! ## Messages that pass through (R427, R428, R434) -/

/-- A message sent on to another module of the rack on the direct port, or lost, or refused (R427). -/
def State.passOn (s : State) (p : Nat) (m : Msg) : State :=
  let h := m.hdr
  let d := h.dst.toNat
  let srcOk := h.srcRack.toNat ≠ s.rack ||
    (if h.srcAcc then bit (s.fld Reg.GLB_PART_MEMBERS Reg.GLB_PART_MEMBERS_ACCEL) h.src.toNat else s.member h.src.toNat)
  if !s.member d || !srcOk then
    if m.body.cls = .resp then s else s.respondVia p m (.refuse .fenced) false
  else if s.portUp (s.peerPort d) then s.enqueue (s.peerPort d) { m with hdr := { h with transit := true } }
  else s

/-- An accelerator asks for an operation that the hall level does not permit: an atomic or a doorbell (R13, R17). -/
def hallForbids (m : Msg) : Bool :=
  m.hdr.srcAcc && (match m.body with | .atom .. | .doorbell .. => true | _ => false)

/-- A message sent on to the hall (R13, R25, R433, R434). -/
def State.toHall (s : State) (p : Nat) (m : Msg) : State :=
  if hallForbids m then s.respondVia p m (.refuse .invalid) false
  else
  let h := m.hdr
  let open_ := s.flag Reg.GLB_PART_CTL Reg.GLB_PART_CTL_HALL &&
    (!h.srcAcc || bit (s.fld Reg.GLB_PART_MEMBERS Reg.GLB_PART_MEMBERS_ACCEL) h.src.toNat)
  match if open_ then s.pickUplink h.dstRack.toNat else (none, s) with
  | (some u, s) => s.enqueue (45 + u) { m with hdr := { h with transit := true } }
  | (none, s) => if m.body.cls = .resp then s else s.respondVia p m (.refuse .fenced) false

/-- A response whose DST may be a module or an accelerator position of this rack (log 31). -/
def State.passResponse (s : State) (p : Nat) (m : Msg) : State :=
  let d := m.hdr.dst.toNat
  let self := decide (d = s.module)
  match s.accPort d with
  | none => if self then s else s.passOn p m
  | some n =>
    let (k, s) := s.choose 2
    if k = 0 then (if s.portUp n then s.enqueue n m else s)
    else if self then s else s.passOn p m

/-! ## Messages for this module -/

/-- CANCEL (R350): the work of the subrequest is to end; an update whose batch has been answered closes (R374). -/
def State.cancelArrives (s : State) (p : Nat) (c : Msg) (tag : Nat) : State :=
  let h := c.hdr
  let l := s.tasks.filter fun t => match t.2.kind with
    | .msg _ m => m.hdr.src = h.src && m.hdr.srcRack = h.srcRack && decide (m.hdr.seq.toNat = tag) &&
        (match m.body with | .subreq _ => true | _ => false)
    | _ => false
  let s := l.foldl (fun s t => s.killTask t.1 .aborted) s
  let s := if l.isEmpty && s.openUpdate h.src.toNat tag ≠ 0 then
      (s.addTask { kind := .msg p c, src := s.msgSrc p c, ctx := h.ctx.toNat, start := s.tick }).2
    else s
  s.go

/-- A message for this module is served (R123, R424, R428 to R434). -/
def State.serveMsg (s : State) (p : Nat) (m : Msg) : State :=
  let task : Task := { kind := .msg p m, src := s.msgSrc p m, ctx := m.hdr.ctx.toNat, start := s.tick }
  match m.body with
  | .wr .. | .atom .. | .doorbell .. | .wrMasked .. => (s.storeArrive p m).go
  | .streamReset first => (s.resetArrive p m (first.toNat % 2 ^ 24)).go
  | .cancel tag => s.cancelArrives p m tag.toNat
  | .rd .. =>
    match s.gatewayHome p m with
    | some (.error st) => s.respondVia p m (.refuse st) false
    | some (.ok h) => s.gatewaySend p m h
    | none => (s.addTask task).2.go
  | .subreq _ => (s.addTask task).2.go
  | _ => s.response m

/-- A contained or retiring module's answer to a message (R504, R547). -/
def State.refuseMsg (s : State) (p : Nat) (m : Msg) : State :=
  if m.hdr.dst.toNat ≠ s.module ∨ m.hdr.dstRack.toNat ≠ s.rack then s
  else
    match m.body with
    | .rd .. | .wr .. | .wrMasked .. | .atom .. | .doorbell .. | .subreq _ => s.respondVia p m (.refuse .fenced) false
    | _ => s

/-- The check of an accelerator's message at its entry port (R428). -/
def State.entryOk (s : State) (p : Nat) (m : Msg) : Bool :=
  let c := m.hdr.ctx.toNat
  let g := fun f => s.fld (Reg.ZL_ACC_CTX (p - 31)) f
  !(decide (31 ≤ p) && decide (p ≤ 44)) ||
    (decide (c ≠ 0) && decide (g Reg.ZL_ACC_CTX_LO ≤ c) && decide (c ≤ g Reg.ZL_ACC_CTX_HI))

/-- A message acts: here, or on its way to where it goes. -/
def State.msgActs (s : State) (p : Nat) (m : Msg) : State :=
  let resp := decide (m.body.cls = .resp)
  if !s.live then s.refuseMsg p m
  else if !s.entryOk p m then
    if resp then s.discarded p m.body.type else s.respondVia p m (.refuse .prot) false
  else if resp && s.awaited m then s.response m
  else if m.hdr.dstRack.toNat ≠ s.rack then s.toHall p m
  else if resp then s.passResponse p m
  else if m.hdr.dst.toNat = s.module then s.serveMsg p m
  else s.passOn p m

/-- The first message of a virtual channel that a port has received. -/
def State.firstRx (s : State) (p vc : Nat) : Option Msg := (s.port p).rx.find? fun m => vcOf m = vc

/-- A message taken from its port, if it is the first of its virtual channel; its credits go back, and it acts. -/
def State.receive (s : State) (p : Nat) (h : MsgHdr) (body : Body) : State :=
  let m : Msg := { hdr := h, body := body, bad := false }
  if s.firstRx p (vcOf m) = some m then
    let s := s.setPort p { s.port p with rx := (s.port p).rx.erase m }
    (s.giveCredit p m).msgActs p m
  else s

/-- RD (R46, R431). -/
def execRd (p : Fin 50) (m : MsgHdr) (addr : BitVec 56) (len : Nat) (s : State) : Host.Outcome State Fault Refusal :=
  done s (s.receive p.val m (.rd addr len))

/-- WR (R429, R430). -/
def execWr (p : Fin 50) (m : MsgHdr) (addr : BitVec 56) (data : List Byte) (s : State) :
    Host.Outcome State Fault Refusal :=
  done s (s.receive p.val m (.wr addr data))

/-- ATOM (R506, R507, R570). -/
def execAtom (p : Fin 50) (m : MsgHdr) (addr : BitVec 56) (subop width : BitVec 8) (op1 op2 : Word) (s : State) :
    Host.Outcome State Fault Refusal :=
  done s (s.receive p.val m (.atom addr subop width op1 op2))

/-- WR_MASKED (R571). -/
def execWrMasked (p : Fin 50) (m : MsgHdr) (addr : BitVec 56) (mask : Word) (data : List Byte) (s : State) :
    Host.Outcome State Fault Refusal :=
  done s (s.receive p.val m (.wrMasked addr mask data))

/-- DOORBELL (R123). -/
def execDoorbell (p : Fin 50) (m : MsgHdr) (q : BitVec 12) (cq : Bool) (v : Word) (s : State) :
    Host.Outcome State Fault Refusal :=
  done s (s.receive p.val m (.doorbell q cq v))

/-- STREAM_RESET (R432). -/
def execStreamReset (p : Fin 50) (m : MsgHdr) (first : BitVec 24) (s : State) : Host.Outcome State Fault Refusal :=
  done s (s.receive p.val m (.streamReset first))

/-- SUBREQ (R48, R334, R362, R397). -/
def execSubreq (p : Fin 50) (m : MsgHdr) (w : Work) (s : State) : Host.Outcome State Fault Refusal :=
  done s (s.receive p.val m (.subreq w))

/-- CANCEL (R350). -/
def execCancel (p : Fin 50) (m : MsgHdr) (tag : BitVec 32) (s : State) : Host.Outcome State Fault Refusal :=
  done s (s.receive p.val m (.cancel tag))

/-- RD_DATA (R431). -/
def execRdData (p : Fin 50) (m : MsgHdr) (data : List Byte) (s : State) : Host.Outcome State Fault Refusal :=
  done s (s.receive p.val m (.rdData data))

/-- ACK (R430, R432). -/
def execAck (p : Fin 50) (m : MsgHdr) (s : State) : Host.Outcome State Fault Refusal :=
  done s (s.receive p.val m .ack)

/-- REPORT (R337, R380, R397). -/
def execReport (p : Fin 50) (m : MsgHdr) (r : Report) (s : State) : Host.Outcome State Fault Refusal :=
  done s (s.receive p.val m (.report r))

/-- REFUSE (R430). -/
def execRefuse (p : Fin 50) (m : MsgHdr) (st : Status) (s : State) : Host.Outcome State Fault Refusal :=
  done s (s.receive p.val m (.refuse st))

/-- ATOM_RESULT (R570). -/
def execAtomResult (p : Fin 50) (m : MsgHdr) (old : Word) (s : State) : Host.Outcome State Fault Refusal :=
  done s (s.receive p.val m (.atomResult old))

/-! ## Messages not answered in time (R431, R432) -/

/-- A kept message sent once more, with RESEND set, on the next path (R426, R431). -/
def State.resend (s : State) (o : OutMsg) : State :=
  let m : Msg := { o.msg with hdr := { o.msg.hdr with resend := true } }
  let rack := o.dst / 32
  let d := o.dst % 32
  let (s, path) : State × Nat :=
    if rack ≠ s.rack then
      match s.pickUplink rack with
      | (some u, s) => (s.enqueue (45 + u) m, 0)
      | (none, s) => (s, 0)
    else if o.gw.isSome then (if s.portUp (s.peerPort d) then s.enqueue (s.peerPort d) m else s, 0)
    else
      match s.nextPath d o.path with
      | some k => (s.enqueue (s.pathPort d k) m, k)
      | none => (s.enqueue (s.peerPort d) m, o.path)
  { s with fab := { s.fab with outs := s.fab.outs.map fun (x : OutMsg) => if x = o then { x with last := s.tick, path := path } else x } }

/-- The STREAM_RESET of a stream that is not acknowledged is sent again (R432). -/
def State.resendReset (s : State) (dst stream seq : Nat) : State :=
  match s.fab.resets.find? fun w => decide (w.hdr.dst.toNat = dst) && decide (w.hdr.stream.toNat = stream) &&
      (match w.body with | .streamReset f => decide (f.toNat = seq) | _ => false) with
  | some w => (s.sendTo w.hdr.dstRack.toNat dst w).1
  | none => s

/-- RESEND_TIMEOUT (R431). -/
def execResendTimeout (store : Bool) (dst : Fin 32) (stream : Fin 64) (seq : BitVec 24) (s : State) :
    Host.Outcome State Fault Refusal :=
  done s (if !s.live then s
    else
      match s.fab.outs.find? fun o => o.store = store ∧ o.dst % 32 = dst.val ∧ o.stream = stream.val ∧ o.seq = seq.toNat with
      | some o => if o.last + s.resendTicks ≤ s.tick then s.resend o else s
      | none => if store then s.resendReset dst.val stream.val seq.toNat else s)

/-- A message given up: its task gets `ST_TIMEOUT`; a gateway's source is not answered, its next store may go on (R432,
R434). -/
def State.giveUpMsg (s : State) (o : OutMsg) : State :=
  match o.gw with
  | some (_, w) => if o.store then s.storeDone w.hdr else s
  | none => match o.task with | some id => s.deliver id { st := .timeout } | none => s

/-- The STREAM_RESET that follows messages given up (R432): its header names the source of the stream. -/
def resetOf (o : OutMsg) (first : Nat) : Msg :=
  { hdr := { o.msg.hdr with seq := 0, resend := false }, body := .streamReset (BitVec.ofNat 24 first), bad := false }

/-- The number that a stream's next store takes. -/
def State.nextSeq (s : State) (o : OutMsg) : Nat :=
  match o.gw with
  | some (_, w) => SMap.get s.fab.outSeq (gatewayKey w.hdr (o.dst % 32)) 0
  | none => SMap.get s.fab.outSeq (outKey (o.dst / 32) (o.dst % 32) o.stream) 0

/-- Two kept messages are of one stream (R429, R434). -/
def OutMsg.sameStream (a b : OutMsg) : Bool :=
  a.store = b.store && decide (a.dst = b.dst) && decide (a.stream = b.stream) &&
    a.msg.hdr.srcRack = b.msg.hdr.srcRack && a.msg.hdr.srcAcc = b.msg.hdr.srcAcc && a.msg.hdr.src = b.msg.hdr.src

/-- A STREAM_RESET of the same stream as another, which a later one supersedes (R432). -/
def sameReset (a b : Msg) : Bool :=
  a.hdr.dst = b.hdr.dst && a.hdr.dstRack = b.hdr.dstRack && a.hdr.stream = b.hdr.stream && a.hdr.src = b.hdr.src &&
    a.hdr.srcAcc = b.hdr.srcAcc && a.hdr.srcRack = b.hdr.srcRack

/-- Every unanswered message of a stream given up; the stream restarts (R432). -/
def State.giveUpStream (s : State) (o : OutMsg) : State :=
  let l := s.fab.outs.filter fun x => x.sameStream o
  let s := { s with fab := { s.fab with outs := s.fab.outs.filter fun x => !x.sameStream o } }
  let m := resetOf o (s.nextSeq o)
  let s := { s with fab := { s.fab with resets := (s.fab.resets.filter fun w => !sameReset w m) ++ [m] } }
  let s := (s.sendTo (o.dst / 32) (o.dst % 32) m).1
  l.foldl State.giveUpMsg s

/-- STREAM_GIVEUP (R432): the stream's stores once the oldest has waited GIVEUP, and reads that have waited as long. -/
def execStreamGiveup (dst : Fin 32) (stream : Fin 64) (s : State) : Host.Outcome State Fault Refusal :=
  let late := fun (o : OutMsg) => decide (o.first + s.giveupTicks ≤ s.tick) && decide (o.dst % 32 = dst.val) &&
    decide (o.stream = stream.val)
  let rds := s.fab.outs.filter fun (o : OutMsg) => !o.store && late o
  let s1 : State := { s with fab := { s.fab with outs := s.fab.outs.filter fun o => !rds.contains o } }
  let s1 := rds.foldl State.giveUpMsg s1
  done s (if !s.live then s
    else
      (match s1.fab.outs.find? fun (o : OutMsg) => o.store && late o with
       | some o => s1.giveUpStream o
       | none => s1).go)

end Sys2Proof.Machine
end

