-- ==== Sys2Proof/Machine/Egress.lean ====
section
/-! DEFINITION. Traffic control's registers, and what leaves a fabric port: arbitration, shapers, time gates (15; R421,
R427, R437, R446 to R452). -/

namespace Sys2Proof.Machine

/-! ## Meters (R437, R442, R446) -/

/-- A write to `QOS_CTX_MAP` (R437). -/
def State.writeCtxMap (s : State) (via : Via) (v : Word) : State :=
  let s := s.writePlain (s.secureVia via) Reg.QOS_CTX_MAP [] v.toNat
  let c := newFld Reg.QOS_CTX_MAP_CTX v
  let map := if newFld Reg.QOS_CTX_MAP_MAPPED v = 1 then SMap.put s.qos.ctxMap c (newFld Reg.QOS_CTX_MAP_METER v)
    else SMap.del s.qos.ctxMap c
  let s : State := if newFld Reg.QOS_CTX_MAP_GO v = 0 then s else { s with qos := { s.qos with ctxMap := map } }
  if newFld Reg.QOS_CTX_MAP_READ v = 0 then s
  else
    match SMap.find s.qos.ctxMap c with
    | some m => (s.setFld Reg.QOS_CTX_MAP Reg.QOS_CTX_MAP_METER m).setFld Reg.QOS_CTX_MAP Reg.QOS_CTX_MAP_MAPPED 1
    | none => (s.setFld Reg.QOS_CTX_MAP Reg.QOS_CTX_MAP_METER 0).setFld Reg.QOS_CTX_MAP Reg.QOS_CTX_MAP_MAPPED 0

/-- METER_MAP_WRITE (R437). -/
def execMeterMapWrite (via : Via) (v : Word) (s : State) : Host.Outcome State Fault Refusal :=
  done s (if s.mayWrite via Reg.QOS_CTX_MAP.off ∧ newFld Reg.QOS_CTX_MAP_GO v = 1 then s.writeCtxMap via v else s)

/-- METER_MAP_READ (R437). -/
def execMeterMapRead (via : Via) (v : Word) (s : State) : Host.Outcome State Fault Refusal :=
  done s (if s.mayWrite via Reg.QOS_CTX_MAP.off ∧ newFld Reg.QOS_CTX_MAP_READ v = 1 then s.writeCtxMap via v else s)

/-- The head of a meter's delay queue decided again, as long as it leaves (R442). -/
def recolourLoop (k : Nat) : Nat → State → State
  | 0, s => s
  | n + 1, s =>
    let before := (s.meter k).dq.length
    let s := s.recolour k
    if (s.meter k).dq.length < before ∧ (s.meter k).dq ≠ [] then recolourLoop k n s else s

/-- A write to `QOS_MTR_CFG_m`: its fields, and APPLY (R446). -/
def State.writeMeterCfg (s : State) (via : Via) (m : Nat) (v : Word) : State :=
  let s := s.writePlain (s.secureVia via) (Reg.QOS_MTR_CFG m) [] v.toNat
  if newFld Reg.QOS_MTR_CFG_APPLY v = 0 then s
  else
    let rate := fun f => s.fld (Reg.QOS_MTR_RATE m) f
    let burst := fun f => s.fld (Reg.QOS_MTR_BURST m) f
    let cbs := burst Reg.QOS_MTR_BURST_CBS
    let xbs := burst Reg.QOS_MTR_BURST_XBS
    let full := newFld Reg.QOS_MTR_CFG_FILL v = 1
    let x : Meter := { (s.meter m) with
      cir := rate Reg.QOS_MTR_RATE_CIR, xir := rate Reg.QOS_MTR_RATE_XIR, cbs := cbs, xbs := xbs,
      tc := if full then cbs * 1000 else 0, tx := if full then xbs * 1000 else 0, last := s.tick }
    (recolourLoop m (x.dq.length + 1) (s.setMeter m x)).go

/-- APPLY (R446). -/
def execApply (via : Via) (m : Fin 4096) (v : Word) (s : State) : Host.Outcome State Fault Refusal :=
  done s (if s.mayWrite via (Reg.QOS_MTR_CFG m.val).off ∧ newFld Reg.QOS_MTR_CFG_APPLY v = 1 then
    s.writeMeterCfg via m.val v else s)

/-- A write to `QOS_MTR_SEL`: a snapshot of the meter's counters (R446). -/
def State.writeMeterSel (s : State) (via : Via) (v : Word) : State :=
  let s := s.writePlain (s.secureVia via) Reg.QOS_MTR_SEL [] v.toNat
  let m := s.meter (newFld Reg.QOS_MTR_SEL_METER v)
  let s := ((s.setReg Reg.QOS_MTR_GREEN m.green).setReg Reg.QOS_MTR_YELLOW m.yellow).setReg Reg.QOS_MTR_RED m.red
  (s.setFld Reg.QOS_MTR_STAT Reg.QOS_MTR_STAT_REFUSED m.refused).setFld Reg.QOS_MTR_STAT Reg.QOS_MTR_STAT_DQ m.dq.length

/-- METER_SNAPSHOT (R446). -/
def execMeterSnapshot (via : Via) (v : Word) (s : State) : Host.Outcome State Fault Refusal :=
  done s (if s.mayWrite via Reg.QOS_MTR_SEL.off then s.writeMeterSel via v else s)

/-- DELAY_QUEUE_RECOLOUR (R442). -/
def execDelayQueueRecolour (m : Fin 4096) (s : State) : Host.Outcome State Fault Refusal :=
  done s (if s.live ∧ (s.meter m.val).dq ≠ [] then (s.recolour m.val).go else s)

/-! ## Shapers (R448 to R450): credit in units of 1/1 024 byte -/

/-- A shaper's field, and its slope f in 1/1 024. -/
def State.shp (s : State) (n v : Nat) (f : Fld) : Nat := s.fld (Reg.QOS_SHP n v) f
def State.slope (s : State) (n v : Nat) : Nat := max 1 (s.shp n v Reg.QOS_SHP_IDLE)
def State.shpLo (s : State) (n v : Nat) : Int := (max 4112 (s.shp n v Reg.QOS_SHP_LO) * 1024 : Nat)
def State.shpHi (s : State) (n v : Nat) : Int := (s.shp n v Reg.QOS_SHP_HI * 1024 : Nat)

/-- A shaper's credit. -/
def shpKey (n v : Nat) : Nat := n * 8 + v
def State.credit (s : State) (n v : Nat) : Int := SMap.get s.qos.shp (shpKey n v) 0
def State.setCredit (s : State) (n v : Nat) (c : Int) : State :=
  { s with qos := { s.qos with shp := SMap.set s.qos.shp (shpKey n v) c 0 } }

/-- A write to `QOS_SHP_n_v` (R450): its fields, and the credit as FILL selects. -/
def State.writeShaper (s : State) (via : Via) (n v : Nat) (w : Word) : State :=
  let s := s.writePlain (s.secureVia via) (Reg.QOS_SHP n v) [] w.toNat
  s.setCredit n v (if newFld Reg.QOS_SHP_FILL w = 1 then s.shpHi n v else 0)

/-- SHAPER_WRITE (R450); virtual channels 0 and 1 have none (R448). -/
def execShaperWrite (via : Via) (n : Fin 50) (vc : Fin 8) (v : Word) (s : State) : Host.Outcome State Fault Refusal :=
  done s (if 2 ≤ vc.val ∧ s.mayWrite via (Reg.QOS_SHP n.val vc.val).off then s.writeShaper via n.val vc.val v else s)

/-- When the port leaves UP, every shaper credit of the port is 0 (R450). -/
def State.clearCredits (s : State) (n : Nat) : State :=
  { s with qos := { s.qos with shp := s.qos.shp.keep (fun k _ => k / 8 ≠ n), sending := SMap.del s.qos.sending n } }

/-! ## Time gates (R451, R452) -/

/-- A field of a port's gate control; entries of a list; OPEN and DUR of an entry. -/
def State.gateFld (s : State) (n : Nat) (f : Fld) : Nat := s.fld (Reg.QOS_GATE_CTL n) f
def State.gateLen (s : State) (n l : Nat) : Nat :=
  min 64 (max 1 (s.gateFld n (if l = 0 then Reg.QOS_GATE_CTL_LEN0 else Reg.QOS_GATE_CTL_LEN1)))
def State.gateOpens (s : State) (n l e v : Nat) : Bool := bit (s.fld (Reg.QOS_GCL n l e) Reg.QOS_GCL_OPEN) v
def State.gateDur (s : State) (n l e : Nat) : Nat := max 32 (s.fld (Reg.QOS_GCL n l e) Reg.QOS_GCL_DUR)

/-- A port's gate position. -/
def State.gate (s : State) (n : Nat) : Gate := SMap.get s.qos.gates n {}
def State.setGate (s : State) (n : Nat) (g : Gate) : State :=
  { s with qos := { s.qos with gates := SMap.set s.qos.gates n g {} } }

/-- The length of the entries that open v one after another from entry e on, at most one cycle; none when all do. -/
def State.openRun (s : State) (n l v e : Nat) : Option Nat :=
  let len := s.gateLen n l
  let es := (List.range len).map fun i => (e + i) % len
  let run := es.takeWhile fun x => s.gateOpens n l x v
  if run.length = len then none else some ((run.map (s.gateDur n l)).sum)

/-- The longest window that a list gives v: none when it never closes. -/
def State.longestWindow (s : State) (n l v : Nat) : Option Nat :=
  (List.range (s.gateLen n l)).foldl (fun a e =>
    match a, s.openRun n l v e with
    | some a, some b => some (max a b)
    | _, _ => none) (some 0)

/-- What a gate says to a message of a channel. -/
inductive GateSays where
  | go | overrun | wait
  deriving DecidableEq, Repr

/-- Whether a message of len body bytes may start now (R452). -/
def State.gateSays (s : State) (n v len : Nat) : GateSays :=
  if v < 2 ∨ s.gateFld n Reg.QOS_GATE_CTL_EN = 0 then .go
  else
    let l := s.gateFld n Reg.QOS_GATE_CTL_ACTIVE
    let g := s.gate n
    let ns := (16 + len + 204) / 205
    let k := s.gateLen n l
    if ¬ s.gateOpens n l g.entry v then .wait
    else
      match s.openRun n l v g.entry with
      | none => .go
      | some w =>
        if ns ≤ w - (s.tick - g.since) then .go
        else
          -- the first moment of the window at which the port is free
          let starts := decide (s.tick = max g.since (SMap.get s.qos.sending n (0, 0)).2) &&
            !s.gateOpens n l ((g.entry + k - 1) % k) v
          let ovr := match s.longestWindow n l v with | some m => decide (m < ns) | none => false
          if starts && ovr then .overrun else .wait

/-- A write to `QOS_GATE_CTL_n` (R451). -/
def State.writeGateCtl (s : State) (via : Via) (n : Nat) (v : Word) : State :=
  let was := s.gateFld n Reg.QOS_GATE_CTL_EN
  let l := s.gateFld n Reg.QOS_GATE_CTL_ACTIVE
  let hold := if was = 0 then [] else [if l = 0 then Reg.QOS_GATE_CTL_LEN0 else Reg.QOS_GATE_CTL_LEN1]
  let s := s.writePlain (s.secureVia via) (Reg.QOS_GATE_CTL n) hold v.toNat
  let en := newFld Reg.QOS_GATE_CTL_EN v
  let s := if was = 0 ∧ en = 1 then s.setGate n { entry := 0, since := s.tick } else s
  if en = 1 ∧ newFld Reg.QOS_GATE_CTL_SWITCH v = 1 then s.setGate n { s.gate n with switch := true } else s

/-- A write to an entry of a gate list: ignored for the active list while EN is 1 (R451). -/
def State.writeGateEntry (s : State) (via : Via) (n l e : Nat) (v : Word) : State :=
  if s.gateFld n Reg.QOS_GATE_CTL_EN = 1 ∧ s.gateFld n Reg.QOS_GATE_CTL_ACTIVE = l then s
  else s.writePlain (s.secureVia via) (Reg.QOS_GCL n l e) [] v.toNat

/-- GATE_ENABLE (R451). -/
def execGateEnable (via : Via) (n : Fin 50) (v : Word) (s : State) : Host.Outcome State Fault Refusal :=
  done s (if s.mayWrite via (Reg.QOS_GATE_CTL n.val).off ∧ newFld Reg.QOS_GATE_CTL_EN v = 1 then
    s.writeGateCtl via n.val v else s)

/-- SWITCH (R451). -/
def execSwitch (via : Via) (n : Fin 50) (v : Word) (s : State) : Host.Outcome State Fault Refusal :=
  done s (if s.mayWrite via (Reg.QOS_GATE_CTL n.val).off ∧ newFld Reg.QOS_GATE_CTL_SWITCH v = 1 then
    s.writeGateCtl via n.val v else s)

/-- The active list goes on to its next entry; a due switch takes place at the end of the cycle (R451). -/
def State.nextEntry (s : State) (n : Nat) : State :=
  let l := s.gateFld n Reg.QOS_GATE_CTL_ACTIVE
  let g := s.gate n
  let t := g.since + s.gateDur n l g.entry
  if g.entry + 1 < s.gateLen n l then s.setGate n { g with entry := g.entry + 1, since := t }
  else
    let s := if g.switch then s.setFld (Reg.QOS_GATE_CTL n) Reg.QOS_GATE_CTL_ACTIVE (1 - l) else s
    s.setGate n { entry := 0, since := t, switch := false }

/-- GATE_ENTRY_END (R452). -/
def execGateEntryEnd (n : Fin 50) (s : State) : Host.Outcome State Fault Refusal :=
  let k := n.val
  let g := s.gate k
  let l := s.gateFld k Reg.QOS_GATE_CTL_ACTIVE
  done s (if s.gateFld k Reg.QOS_GATE_CTL_EN = 1 ∧ g.since + s.gateDur k l g.entry ≤ s.tick then s.nextEntry k else s)

/-! ## Sending (R421, R427, R447) -/

/-- Credits of a channel that first-hop or transit messages may still take; the transit share counts on peer ports
only (R427). -/
def State.creditsLeft (s : State) (n v : Nat) (transit : Bool) : Nat :=
  let p := s.port n
  let t := p.total.getD v 0
  let used := fun (q : Nat × Nat × Bool → Bool) => ((p.flight.filter fun x => x.1 = v && q x).map fun x => x.2.1).sum
  if n < 31 then
    let share := t * min 50 (s.fld Reg.ZL_ROUTE_CFG Reg.ZL_ROUTE_CFG_TRANSIT_PCT) / 100
    (if transit then share else t - share) - used fun x => x.2.2 = transit
  else t - used fun _ => true

/-- The flits that a replay buffer holds (R421). -/
def replayMax (n : Nat) : Nat := if 45 ≤ n ∧ n ≤ 48 then 8192 else 1024

/-- A message of a channel has its credits and its gate. -/
def State.sendable1 (s : State) (n v : Nat) (m : Msg) : Option (Msg × Bool) :=
  if units m ≤ s.creditsLeft n v m.hdr.transit then
    match s.gateSays n v m.body.len with
    | .go => some (m, false)
    | .overrun => some (m, true)
    | .wait => none
  else none

/-- The message that a channel sends next: its oldest, or, since transit messages have credits of their own (R427), the oldest
of the other kind. -/
def State.sendable (s : State) (n v : Nat) : Option (Msg × Bool) :=
  if 2 ≤ v ∧ s.shp n v Reg.QOS_SHP_EN = 1 ∧ s.credit n v < 0 then none
  else
    match ((s.port n).tx.filter fun e => e.1 = v).map (·.2) with
    | [] => none
    | m :: rest =>
      match s.sendable1 n v m with
      | some x => some x
      | none => (rest.find? fun w => w.hdr.transit ≠ m.hdr.transit).bind (s.sendable1 n v)

/-- A message leaves a port in a flit. -/
def State.sendMsg (s : State) (n v : Nat) (m : Msg) (ovr : Bool) : State :=
  let p := s.port n
  let f := p.flit false [m]
  let b := 16 + m.body.len
  let p' := { p with tx := p.tx.erase (v, m), nextF := (p.nextF + 1) % 2 ^ 14, nak := false,
                     replay := p.replay ++ [f], flight := p.flight ++ [(v, units m, m.hdr.transit)] }
  let s := (s.setPort n p').emit n f
  let s := { s with qos := { s.qos with sending := SMap.put s.qos.sending n (v, s.tick + (b + 204) / 205) } }
  let s := if ovr then s.setFld (Reg.QOS_GATE_CTL n) Reg.QOS_GATE_CTL_OVERRUN 1 else s
  if 2 ≤ v ∧ s.shp n v Reg.QOS_SHP_EN = 1 then
    s.setCredit n v (max (s.credit n v - (b * (1024 - s.slope n v) : Nat)) (-s.shpLo n v))
  else s

/-- MESSAGE_SEND (R447): the first eligible channel in the order 1, 3, 5, 7, 0, 2, 4, 6. -/
def execMessageSend (n : Fin 50) (s : State) : Host.Outcome State Fault Refusal :=
  let k := n.val
  done s (if !s.portUp k || decide ((SMap.get s.qos.sending k (0, 0)).2 > s.tick) ||
      decide (replayMax k ≤ (s.port k).replay.length) then s
    else
      match [1, 3, 5, 7, 0, 2, 4, 6].findSome? fun v => (s.sendable k v).map fun x => (v, x) with
      | some (v, m, ovr) => s.sendMsg k v m ovr
      | none => s)

/-! ## Shapers as time passes (R449): 205 byte times a tick -/

/-- One shaper over one tick. -/
def State.shapeTick (s : State) (n v : Nat) : State :=
  let waits := (s.port n).tx.any fun e => e.1 = v
  let c := s.credit n v
  let gain : Int := (205 * s.slope n v : Nat)
  let (sv, until_) := SMap.get s.qos.sending n (0, 0)
  let l := s.gateFld n Reg.QOS_GATE_CTL_ACTIVE
  let closed := s.gateFld n Reg.QOS_GATE_CTL_EN = 1 ∧ ¬ s.gateOpens n l (s.gate n).entry v
  if s.shp n v Reg.QOS_SHP_EN = 0 ∨ closed ∨ (sv = v ∧ s.tick < until_) then s
  else if waits then s.setCredit n v (min (c + gain) (s.shpHi n v))
  else if c < 0 then s.setCredit n v (min (c + gain) 0)
  else s.setCredit n v 0

/-- Every shaper that has a credit or a message waiting, over one tick. -/
def State.shapersTick (s : State) : State :=
  let keys := (s.qos.shp.map (·.1) ++ s.fab.ports.flatMap fun (n, p) => p.tx.map fun e => shpKey n e.1).eraseDups
  (keys.filter fun k => k % 8 ≥ 2 && s.portUp (k / 8)).foldl (fun s k => s.shapeTick (k / 8) (k % 8)) s

end Sys2Proof.Machine
end

