-- ==== Sys2Proof/Machine/Ports.lean ====
section
/-! DEFINITION. Fabric ports and laser cartridges (14): training, identity, the load-margin check, retraining, fencing,
feeds (R413 to R420, R435, R436, R546), and the closing of the hall uplinks (R32). -/

namespace Sys2Proof.Machine

/-! ## Feeds (R413) -/

/-- The cartridges that feed an engine, A and B. -/
def feedA (e : Nat) : Nat := e % 8
def feedB (e : Nat) : Nat := (e + 3) % 8

/-- A cartridge is ACTIVE. -/
def State.laserOn (s : State) (c : Nat) : Bool := s.fld (Reg.ZL_LSR c) Reg.ZL_LSR_STATE = 2

/-- The engine of a port has light. -/
def State.lit (s : State) (n : Nat) : Bool := s.laserOn (feedA (n / 2)) || s.laserOn (feedB (n / 2))

/-- The engines that a cartridge feeds. -/
def fedBy (c : Nat) : List Nat := (List.range 25).filter fun e => feedA e = c || feedB e = c

/-- The ports of those engines. -/
def portsOf (c : Nat) : List Nat := (fedBy c).flatMap fun e => [2 * e, 2 * e + 1]

/-! ## Messages queued on a port that carries nothing (R426, R427, R435) -/

/-- A message queued on a port that is not UP takes another path or waits; a transit message is lost (R427). -/
def State.replace (s : State) (n : Nat) (m : Msg) : State :=
  if m.hdr.transit then s
  else if n < 31 then (s.sendPeer m.hdr.dst.toNat m).1
  else if n < 45 then s.enqueue n m
  else
    match s.pickUplink m.hdr.dstRack.toNat with
    | (some u, s) => s.enqueue (45 + u) m
    | (none, s) => s.enqueue n m

/-- Every message queued on a port that is not UP offered its paths again. -/
def State.requeue (s : State) : State :=
  ((List.range 50).filter fun n => !s.portUp n && !(s.port n).tx.isEmpty).foldl (fun s n =>
    let l := (s.port n).tx
    l.foldl (fun s e => s.replace n e.2) (s.setPort n { s.port n with tx := [] })) s

/-! ## The closing of hall uplinks (R32) -/

/-- Outstanding hall-level messages to the racks of a test end with `ST_FENCED`, and no flit carries one again (R31); a store's
answer says that it may have taken effect (R32, R33). -/
def State.closeHall (s : State) (p : Nat → Bool) : State :=
  let gone := fun (o : OutMsg) => decide (o.dst / 32 ≠ s.rack) && p (o.dst / 32)
  let l := s.fab.outs.filter gone
  let keep := fun (m : Msg) => !p m.hdr.dstRack.toNat
  let clear := fun (q : Port) => { q with
    tx := q.tx.filter fun x => keep x.2, replay := q.replay.map fun f => { f with msgs := f.msgs.filter keep } }
  let s := { s with fab := { s.fab with
    outs := s.fab.outs.filter fun o => !gone o,
    ports := s.fab.ports.mapv fun n q => if 45 ≤ n ∧ n ≤ 48 then clear q else q } }
  (l.foldl (fun s o => match o.task with
    | some id => s.deliver id { st := .fenced }
    | none => s) s).go

/-! ## Port states (R416 to R420) -/

/-- A port's STATE, and CAUSE. -/
def State.setPortState (s : State) (n st : Nat) : State := s.setFld (Reg.ZL_PORT_STAT n) Reg.ZL_PORT_STAT_STATE st
def State.setPortCause (s : State) (n c : Nat) : State := s.setFld (Reg.ZL_PORT_STAT n) Reg.ZL_PORT_STAT_CAUSE c
def State.portCause (s : State) (n : Nat) : Nat := s.fld (Reg.ZL_PORT_STAT n) Reg.ZL_PORT_STAT_CAUSE

/-- EN of a port. -/
def State.portEn (s : State) (n : Nat) : Bool := s.flag (Reg.ZL_PORT_CTL n) Reg.ZL_PORT_CTL_EN

/-- A port goes DOWN or FAILED: its replay buffer is discarded, its shapers restart, its messages move (R422, R450). -/
def State.portGoes (s : State) (n st cause : Nat) : State :=
  let s := ((s.setPortState n st).setPortCause n cause).clearCredits n
  (s.setPort n { s.port n with replay := [], fast := false, laser := false, since := s.tick }).requeue

/-- A full training starts, if nothing forbids it: the identity (R14), light, signal. -/
def State.startTraining (s : State) (n : Nat) : State :=
  if n ≠ 49 ∧ ¬ s.flag Reg.ZL_IDENT Reg.ZL_IDENT_SET then s.portGoes n 0 7
  else if ¬ s.lit n then s.portGoes n 0 6
  else if ¬ (s.port n).signal then s.portGoes n 0 2
  else
    let s := s.setPort n { s.port n with fast := false, badId := false, laser := false }
    (s.setPortState n 1).setPortCause n 0

/-- The far identity that R413 gives for a port is the one received (R414, R415). -/
def State.farOk (s : State) (n : Nat) (far : FarIdent) : Bool :=
  match far with
  | .peer r m p => decide (n < 31) && decide (r.toNat = s.rack) && decide (m.toNat = (s.module + 1 + n) % 32) &&
      decide (p.toNat = 30 - n)
  | .accel r q l => decide (31 ≤ n) && decide (n < 45) && decide (r.toNat = s.rack) &&
      decide (q.toNat = (s.module + (n - 31)) % 32) && decide (l.toNat = n - 31)
  | .hall w => decide (45 ≤ n) && decide (n < 49) &&
      (!s.flag (Reg.ZL_HALL_EXP (n - 45)) Reg.ZL_HALL_EXP_CHECK ||
        decide (w.toNat = s.fld (Reg.ZL_HALL_EXP (n - 45)) Reg.ZL_HALL_EXP_FAR_ID))
  | .service => n = 49

/-- The identity received, as `ZL_PORT_STAT_n` records it: rack, index, port, kind; of a hall's word the low bits
(log 32). -/
def farFields : FarIdent → Nat × Nat × Nat × Nat
  | .peer r m p => (r.toNat, m.toNat, p.toNat, 0)
  | .accel r q l => (r.toNat, q.toNat, l.toNat, 1)
  | .hall w => (bits w.toNat 5 0, bits w.toNat 10 6, bits w.toNat 16 11, 2)
  | .service => (0, 0, 0, 3)

/-- The far identity recorded. -/
def State.recordFar (s : State) (n : Nat) (far : FarIdent) : State :=
  let (r, i, p, k) := farFields far
  let g := Reg.ZL_PORT_STAT n
  (((s.setFld g Reg.ZL_PORT_STAT_FAR_RACK r).setFld g Reg.ZL_PORT_STAT_FAR_IDX i).setFld g Reg.ZL_PORT_STAT_FAR_PORT
    p).setFld g Reg.ZL_PORT_STAT_FAR_KIND k

/-- The far identity as one number, for the record's CAUSE. -/
def farWord : FarIdent → Nat
  | .hall w => w.toNat
  | f => let (r, i, p, k) := farFields f; r + i * 2 ^ 6 + p * 2 ^ 11 + k * 2 ^ 17

/-- IDENTITY_EXCHANGE (R414): in training, full or fast. -/
def execIdentityExchange (n : Fin 50) (far : FarIdent) (temp : BitVec 8) (s : State) :
    Host.Outcome State Fault Refusal :=
  let k := n.val
  done s (if s.portState k ≠ 1 ∧ s.portState k ≠ 4 then s
    else
      let s := s.recordFar k far
      if s.farOk k far then
        let s := s.setFld (Reg.ZL_PORT_STAT k) Reg.ZL_PORT_STAT_TTRAIN temp.toNat
        (s.setPort k { s.port k with since := s.tick }).setPortState k 2
      else
        let s := s.portGoes k 0 3
        (s.setPort k { s.port k with badId := true }).event .portWiring { object := obj 9 k, cause := farWord far })

/-- The module's own length of the load-margin check in ticks, and CE_TH (R417). -/
def State.lmTicks (s : State) : Nat := us (max 100 (s.fld Reg.ZL_LM_CFG Reg.ZL_LM_CFG_LM_TIME))
def State.ceTh (s : State) : Nat := min 12 (s.fld Reg.ZL_LM_CFG Reg.ZL_LM_CFG_CE_TH)

/-- This end's counts sent in a CREDIT. -/
def State.sendCounts (s : State) (n : Nat) : State :=
  { s with out := { s.out with credit := s.out.credit ++ [(n, (s.port n).given)] } }

/-- The link layer after a check: reset by a full training, the counts being free values (the spec gives no buffer sizes),
kept by a fast retrain, whose replay buffer is sent again (R416, R422). -/
def State.linkUp (s : State) (n : Nat) : State :=
  let p := s.port n
  if p.fast then
    let s := (s.setPort n { p with laser := false }).sendCounts n
    p.replay.foldl (fun s f => s.emit n { f with ack := (p.flit true []).ack }) s
  else
    let given := (List.range 8).map fun i => Config.freeNat (s.free + i) % 2 ^ 16
    let p := { p with nextF := 0, expect := 0, nak := false, replay := [], total := [], last := [], flight := [],
                      given := given, laser := false }
    (({ s with free := s.free + 8 } : State).setPort n p).sendCounts n

/-- A cartridge in SERVICE is STANDBY once every port it feeds has ended its check (R436). -/
def State.laserSettle (s : State) : State :=
  (List.range 8).foldl (fun s c =>
    let r := Reg.ZL_LSR c
    if s.flag r Reg.ZL_LSR_SERVICE ∧ s.laserOn c ∧ (portsOf c).all (fun n => !(s.port n).laser) then
      s.setFld r Reg.ZL_LSR_STATE 3
    else s) s

/-- The check of a port has passed: UP, or FENCED while FENCE is 1 (R416, R435). -/
def State.checkPassed (s : State) (n : Nat) : State :=
  let fenced := s.flag (Reg.ZL_PORT_CTL n) Reg.ZL_PORT_CTL_FENCE
  ((((s.setPortState n (if fenced then 5 else 3)).setPortCause n 0).linkUp n).laserSettle).requeue

/-- LOAD_MARGIN_CHECK (R417): both ends have judged the codewords received. -/
def execLoadMarginCheck (n : Fin 50) (worst : BitVec 8) (uncorr : Bool) (farPass : Bool) (s : State) :
    Host.Outcome State Fault Refusal :=
  let k := n.val
  done s (if s.portState k ≠ 2 ∨ s.tick < (s.port k).since + s.lmTicks then s
    else
      let s := s.setFld (Reg.ZL_PORT_STAT k) Reg.ZL_PORT_STAT_MARGIN worst.toNat
      if !uncorr && decide (worst.toNat ≤ s.ceTh) && farPass then s.checkPassed k
      else ((s.score (obj 9 k) .marginFail).portGoes k 0 (if (s.port k).laser then 6 else 4)).laserSettle)

/-- MARGIN_RETRY (R417): 1 s after the failed check. -/
def execMarginRetry (n : Fin 50) (s : State) : Host.Outcome State Fault Refusal :=
  let k := n.val
  done s (if s.portState k = 0 ∧ s.portCause k = 4 ∧ s.portEn k ∧ (s.port k).since + 10 ^ 9 ≤ s.tick then
    s.startTraining k else s)

/-- A fast retrain begins (R416, R418). -/
def State.enterRetrain (s : State) (n : Nat) : State :=
  let s := ((s.bump (Reg.ZL_PORT_ERR n) Reg.ZL_PORT_ERR_RETRAINS 1).setPortState n 4).clearCredits n
  let s := s.setPort n { s.port n with fast := true }
  (s.score (obj 9 n) .retrain).requeue

/-- An entry to RETRAIN under R418, counted toward R419. -/
def State.retrainCounted (s : State) (n : Nat) : State :=
  let win := s.fld Reg.ZL_LM_CFG Reg.ZL_LM_CFG_RETRAIN_WIN * 10 ^ 9
  let l := ((s.port n).retrains.filter fun t => s.tick < t + win) ++ [s.tick]
  let s := (s.setPort n { s.port n with retrains := l }).enterRetrain n
  if s.fld Reg.ZL_LM_CFG Reg.ZL_LM_CFG_RETRAIN_MAX < l.length then
    (s.portGoes n 6 5).event .portFailed { object := obj 9 n, cause := 5 }
  else s

/-- RETRAIN_TRIGGER (R418): what the port has counted, and the retrain. -/
def execRetrainTrigger (n : Fin 50) (why : RetrainCause) (s : State) : Host.Outcome State Fault Refusal :=
  let k := n.val
  let e := Reg.ZL_PORT_ERR k
  done s (if s.portState k ≠ 3 then s
    else
      let s := match why with
        | .watch => s.bump e Reg.ZL_PORT_ERR_HIGH_CW (max 1 (s.fld Reg.ZL_LM_CFG Reg.ZL_LM_CFG_WATCH_MAX))
        | .uncorrectable => (s.bump e Reg.ZL_PORT_ERR_UNCORR 1).score (obj 9 k) .uncorrectable
        | .temperature => s
      s.retrainCounted k)

/-! ## Software's hand on a port (R416, R420, R435) -/

/-- FENCE rises on a port that is UP: it carries link control only; the last open uplink to a rack closes (R435). -/
def State.fencePort (s : State) (n : Nat) : State :=
  if s.portState n ≠ 3 then s
  else
    let before := fun r => !(s.uplinks r).isEmpty
    let s := ((s.setPortState n 5).clearCredits n).requeue
    if 45 ≤ n ∧ n ≤ 48 then s.closeHall fun r => before r && (s.uplinks r).isEmpty else s

/-- FENCE falls: the port sends its counts and carries traffic again (R435). -/
def State.unfencePort (s : State) (n : Nat) : State :=
  if s.portState n ≠ 5 then s else ((s.setPortState n 3).sendCounts n).requeue

/-- A write to `ZL_PORT_CTL_n` (R416, R420, R435). -/
def State.writePortCtl (s : State) (via : Via) (n : Nat) (v : Word) : State :=
  let r := Reg.ZL_PORT_CTL n
  let en0 := s.portEn n
  let en1 := decide (newFld Reg.ZL_PORT_CTL_EN v = 1)
  let f0 := s.flag r Reg.ZL_PORT_CTL_FENCE
  let s := s.writePlain (s.secureVia via) r [] v.toNat
  let f1 := s.flag r Reg.ZL_PORT_CTL_FENCE
  let s := if f1 ∧ ¬ f0 then s.fencePort n else if f0 ∧ ¬ f1 then s.unfencePort n else s
  let s := if newFld Reg.ZL_PORT_CTL_RETRAIN v = 1 ∧ s.portState n = 3 then s.enterRetrain n else s
  if en0 ∧ ¬ en1 then (s.portGoes n 0 1).laserSettle
  else if en1 ∧ ¬ en0 then s.startTraining n
  else s

/-- PORT_ENABLE (R416). -/
def execPortEnable (via : Via) (n : Fin 50) (v : Word) (s : State) : Host.Outcome State Fault Refusal :=
  done s (if s.mayWrite via (Reg.ZL_PORT_CTL n.val).off ∧ newFld Reg.ZL_PORT_CTL_EN v = 1 then
    s.writePortCtl via n.val v else s)

/-- PORT_DISABLE (R422). -/
def execPortDisable (via : Via) (n : Fin 50) (v : Word) (s : State) : Host.Outcome State Fault Refusal :=
  done s (if s.mayWrite via (Reg.ZL_PORT_CTL n.val).off ∧ newFld Reg.ZL_PORT_CTL_EN v = 0 then
    s.writePortCtl via n.val v else s)

/-- PORT_FENCE (R435). -/
def execPortFence (via : Via) (n : Fin 50) (v : Word) (s : State) : Host.Outcome State Fault Refusal :=
  done s (if s.mayWrite via (Reg.ZL_PORT_CTL n.val).off ∧
      newFld Reg.ZL_PORT_CTL_FENCE v ≠ s.fld (Reg.ZL_PORT_CTL n.val) Reg.ZL_PORT_CTL_FENCE then
    s.writePortCtl via n.val v else s)

/-- RETRAIN (R420): a write of RETRAIN = 1 that leaves EN and FENCE as they are. -/
def execRetrain (via : Via) (n : Fin 50) (s : State) : Host.Outcome State Fault Refusal :=
  let r := Reg.ZL_PORT_CTL n.val
  done s (if s.mayWrite via r.off then
    s.writePortCtl via n.val (BitVec.ofNat 64 (Reg.ZL_PORT_CTL_RETRAIN.put (s.reg r) 1)) else s)

/-- SIGNAL_DETECT (R546): a port that is DOWN for want of signal trains by itself. -/
def execSignalDetect (n : Fin 50) (s : State) : Host.Outcome State Fault Refusal :=
  let k := n.val
  let t := s.setPort k { s.port k with signal := true }
  done s (if s.portState k = 0 ∧ s.portCause k = 2 ∧ s.portEn k ∧ ¬ (s.port k).badId then t.startTraining k else t)

/-- SIGNAL_LOSS (R422, R549): a port without signal is DOWN with cause 2. -/
def execSignalLoss (n : Fin 50) (s : State) : Host.Outcome State Fault Refusal :=
  let k := n.val
  let t := s.setPort k { s.port k with signal := false }
  done s (if s.portState k = 0 ∨ s.portState k = 6 then t else (t.portGoes k 0 2).laserSettle)

/-- A write to `ZL_IDENT`: ignored once SET is 1 (R14, 14, "Identity and the wiring map"). -/
def State.writeIdent (s : State) (via : Via) (v : Word) : State :=
  if s.flag Reg.ZL_IDENT Reg.ZL_IDENT_SET ∨ ¬ s.secureVia via then s
  else
    let s := s.writePlain true Reg.ZL_IDENT [] v.toNat
    if s.flag Reg.ZL_IDENT Reg.ZL_IDENT_SET then
      ((List.range 49).filter fun n => s.portState n = 0 && s.portCause n = 7 && s.portEn n).foldl State.startTraining s
    else s

/-- IDENT_SET (R14). -/
def execIdentSet (via : Via) (v : Word) (s : State) : Host.Outcome State Fault Refusal :=
  done s (if s.mayWrite via Reg.ZL_IDENT.off ∧ newFld Reg.ZL_IDENT_SET v = 1 then s.writeIdent via v else s)

/-! ## Laser cartridges (R436) -/

/-- The other feed of every engine that a cartridge feeds is ACTIVE. -/
def State.othersOn (s : State) (c : Nat) : Bool :=
  (fedBy c).all fun e => s.laserOn (if feedA e = c then feedB e else feedA e)

/-- SERVICE rises: the engines go to their other feed, and each of their ports that is UP runs its check (R436). -/
def State.serviceLaser (s : State) (c : Nat) : State :=
  let r := Reg.ZL_LSR c
  if ¬ s.othersOn c then s
  else
    let s := s.setFld r Reg.ZL_LSR_SERVICE 1
    if ¬ s.laserOn c then s
    else
      (((portsOf c).filter s.portUp).foldl (fun s n =>
        let s := (s.setPortState n 2).clearCredits n
        s.setPort n { s.port n with fast := true, laser := true, since := s.tick }) s).requeue.laserSettle

/-- SERVICE falls: the engines return to both feeds, and every port DOWN with cause laser trains again (R436). -/
def State.endService (s : State) (c : Nat) : State :=
  let r := Reg.ZL_LSR c
  let s := s.setFld r Reg.ZL_LSR_SERVICE 0
  let s := if s.fld r Reg.ZL_LSR_STATE = 3 then s.setFld r Reg.ZL_LSR_STATE 2 else s
  ((List.range 50).filter fun n => s.portState n = 0 && s.portCause n = 6 && s.portEn n).foldl State.startTraining s

/-- A write to `ZL_LSR_c`. -/
def State.writeLaser (s : State) (c : Nat) (v : Word) : State :=
  if newFld Reg.ZL_LSR_SERVICE v = 1 then
    if s.flag (Reg.ZL_LSR c) Reg.ZL_LSR_SERVICE then s else s.serviceLaser c
  else s.endService c

/-- LASER_SERVICE (R436). -/
def execLaserService (via : Via) (c : Fin 8) (s : State) : Host.Outcome State Fault Refusal :=
  done s (if s.mayWrite via (Reg.ZL_LSR c.val).off then s.writeLaser c.val 8 else s)

/-- LASER_SERVICE_END (R436). -/
def execLaserServiceEnd (via : Via) (c : Fin 8) (s : State) : Host.Outcome State Fault Refusal :=
  done s (if s.mayWrite via (Reg.ZL_LSR c.val).off then s.writeLaser c.val 0 else s)

/-- LASER_INSERTED (R436): the new cartridge has ramped to ACTIVE; its bias history starts (R523). -/
def execLaserInserted (c : Fin 8) (s : State) : Host.Outcome State Fault Refusal :=
  let st := s.fld (Reg.ZL_LSR c.val) Reg.ZL_LSR_STATE
  done s (if st = 0 then
      { (s.setFld (Reg.ZL_LSR c.val) Reg.ZL_LSR_STATE 2) with fab := { s.fab with lasers := SMap.del s.fab.lasers c.val } }
    else s)

/-- Ports whose engine has lost both feeds go DOWN with cause laser (R436). -/
def State.darkPorts (s : State) (c : Nat) : State :=
  ((portsOf c).filter fun n => !s.lit n && s.portState n ≠ 0 && s.portState n ≠ 6).foldl (fun s n => s.portGoes n 0 6) s

/-- LASER_LOSS (R436): a cartridge fails, or is removed without SERVICE. -/
def execLaserLoss (c : Fin 8) (failed : Bool) (s : State) : Host.Outcome State Fault Refusal :=
  let r := Reg.ZL_LSR c.val
  let st := s.fld r Reg.ZL_LSR_STATE
  done s (if st = 0 ∨ (st = 3 ∧ ¬ failed) then s
    else
      let s := (s.setFld r Reg.ZL_LSR_STATE (if failed then 4 else 0)).event .laserFailed
        { object := obj 0xA c.val, cause := s.fld r Reg.ZL_LSR_BIAS }
      (s.darkPorts c.val).laserSettle)

/-- LASER_CARTRIDGE_REMOVAL (R436): a cartridge in STANDBY is pulled out. -/
def execLaserCartridgeRemoval (c : Fin 8) (s : State) : Host.Outcome State Fault Refusal :=
  let r := Reg.ZL_LSR c.val
  done s (if s.fld r Reg.ZL_LSR_STATE = 3 then s.setFld r Reg.ZL_LSR_STATE 0 else s)

end Sys2Proof.Machine
end

