-- ==== Sys2Proof/Machine/Caddy.lean ====
section
/-! DEFINITION. Caddy's control of scratchpad banks (07): handovers, worlds, errors, field repair, retirement, clearing
(R223 to R241, R492). -/

namespace Sys2Proof.Machine

/-- Zeros with valid codes in every word of a bank; its poison is cleared (R227 step 4). -/
def State.scrubBank (s : State) (b : Nat) : State :=
  let lo := b * 2 ^ 21
  let s := { s with pad := { s.pad with
    mem := s.pad.mem.filter fun e => decide (e.1 < lo) || decide (lo + 2 ^ 21 ≤ e.1),
    poison := s.pad.poison.keep fun k _ => k / 2 ^ 15 ≠ b } }
  s.setFld (Reg.CADDY_OWN b) Reg.CADDY_OWN_POISONED 0

/-- The engine that a handover names (R225). -/
def nextEng (b kind idx : Nat) : Option Eng :=
  let i := Fin.ofNat 32 idx
  let e : Option Eng := match kind with
    | 0 => some ⟨.newt, i⟩
    | 1 => some ⟨.kettle, i⟩
    | 2 => some ⟨.gecko, i⟩
    | 3 => some ⟨.emb, i⟩
    | _ => none
  match e with
  | some e => if e.die = b / 1024 then some e else none
  | none => none

/-- A handover is refused (R226); `world` is the bank's. -/
def State.refusesHandover (s : State) (b kind idx : Nat) (world : Bool) : Bool :=
  !s.generalBank b || decide (2 ≤ s.own b Reg.CADDY_OWN_STATE) || [4, 5, 6].contains kind ||
  (decide (kind ≠ 7) &&
    match nextEng b kind idx with
    | some e => !s.present e || s.secureEng e ≠ world
    | none => true)

/-- A write to `CADDY_OWN_b` (R224 to R227, R492). -/
def State.writeCaddyOwn (s : State) (via : Via) (b : Nat) (v : Word) : State :=
  let r := Reg.CADDY_OWN b
  let sec := s.secureVia via
  let w0 := s.flag r Reg.CADDY_OWN_WORLD
  let w1 := if sec && s.own b Reg.CADDY_OWN_STATE = 0 then decide (newFld Reg.CADDY_OWN_WORLD v = 1) else w0
  let kind := newFld Reg.CADDY_OWN_NEXT_KIND v
  let idx := newFld Reg.CADDY_OWN_NEXT_IDX v
  let plain := fun (s : State) =>
    (s.writePlain sec r [Reg.CADDY_OWN_WORLD] v.toNat).setFld r Reg.CADDY_OWN_WORLD w1.toNat
  if newFld Reg.CADDY_OWN_GO v = 0 then
    if w1 = w0 then plain s else (plain s).scrubBank b
  else if s.refusesHandover b kind idx w1 then s.setFld r Reg.CADDY_OWN_REFUSED 1
  else
    let scrub := decide (newFld Reg.CADDY_OWN_SCRUB v = 1) || s.flag Reg.SEC_CFG Reg.SEC_CFG_FORCE_SCRUB || w1 || w0
    let s := (plain s).setFld r Reg.CADDY_OWN_STATE 2
    let h : Handover := ⟨kind, if kind = 7 then 0 else idx, scrub⟩
    { s with pad := { s.pad with handovers := SMap.put s.pad.handovers b h } }

/-- BANK_HANDOVER (R226, R227). -/
def execBankHandover (via : Via) (b : Fin 2048) (v : Word) (s : State) : Host.Outcome State Fault Refusal :=
  done s (if s.mayWrite via (Reg.CADDY_OWN b.val).off ∧ newFld Reg.CADDY_OWN_GO v = 1 then
    s.writeCaddyOwn via b.val v else s)

/-- The last steps of a handover (R227 steps 4 to 6). -/
def State.endHandover (s : State) (b : Nat) (h : Handover) : State :=
  let r := Reg.CADDY_OWN b
  let s := if h.scrub then s.scrubBank b else s
  let s := ((s.setFld r Reg.CADDY_OWN_KIND h.kind).setFld r Reg.CADDY_OWN_IDX h.idx).setFld r Reg.CADDY_OWN_STATE
    (if h.kind = 7 then 0 else 1)
  let s := { s with pad := { s.pad with handovers := SMap.del s.pad.handovers b } }
  (State.serveBank b true (s.bankWaiters b).length s).go

/-- BANK_HANDOVER_DONE (R227). -/
def execBankHandoverDone (b : Fin 2048) (s : State) : Host.Outcome State Fault Refusal :=
  done s (match SMap.find s.pad.handovers b.val with
    | some h => s.endHandover b.val h
    | none => s)

/-- BANK_WORLD_WRITE (R492). -/
def execBankWorldWrite (via : Via) (b : Fin 2048) (v : Word) (s : State) : Host.Outcome State Fault Refusal :=
  done s (if s.mayWrite via (Reg.CADDY_OWN b.val).off ∧
      newFld Reg.CADDY_OWN_WORLD v ≠ s.own b.val Reg.CADDY_OWN_WORLD then s.writeCaddyOwn via b.val v else s)

/-- The stable entries of a slice's directory. -/
def State.sliceEntries (s : State) (sl : Nat) : List (Nat × DirEnt) :=
  s.dir.filter fun e => decide (sliceOf (e.1 * 64) = sl) && !e.2.st.transient

/-- The hosts that a rebuilt entry's line is recalled from: those its region's domain lists that are up, and those the
lost entry held (R500). -/
def State.rebuildMask (s : State) (line : Nat) (e : DirEnt) : Nat :=
  (List.range 64).foldl (fun m h =>
    let listed := match s.domOf line with | some d => s.domLists d h | none => false
    let up := s.flag (Reg.HOME_HOST h) Reg.HOME_HOST_VALID && !s.flag (Reg.HOME_HOST h) Reg.HOME_HOST_DOWN
    if (listed && up) || e.holders.contains h then m ||| 2 ^ h else m) 0

/-- A lost directory entry is rebuilt by recalling its line (R203, R500); a recall without room for its snoops waits. -/
def State.rebuildEntry (s : State) (line : Nat) (e : DirEnt) : State :=
  match s.snoop line e (if e.st = .s then .sInv else .mInv) (s.rebuildMask line e) .evict with
  | some s' => s'
  | none => { s with waitq := s.waitq ++ e.holders.map fun g => { line := line, who := .recall g } }

/-- Region scope for a region, unless it is contained (R500). -/
def State.containRegion (s : State) (r nest : Nat) : State :=
  if s.ras.contained.contains (obj 0x12 r) then s else s.containObj (obj 0x12 r) 5 nest

/-- An error in a directory bank of a recovering slice contains every region of the recovering domains (R514). -/
def State.recoveringRegions (s : State) (sl : Nat) : State :=
  let busy := s.dir.any fun e => decide (sliceOf (e.1 * 64) = sl) && s.lineRecovering e.1
  if busy then
    (s.sec.regions.filter fun x => x.2.valid && decide (s.domState x.2.dom = 1)).foldl
      (fun s x => s.containRegion x.1 1) s
  else s

/-- An error in a security table: the regions whose entry, grant lines or key slot the word held are contained (R500);
which they are is free (log 77). -/
def State.securityUe (s : State) : State :=
  (s.sec.regions.filter fun x => x.2.valid).foldl (fun s x =>
    let (k, s) := s.choose 2
    if k = 0 then s else s.containRegion x.1 0) s

/-- An uncorrectable error in a directory bank: the entries that the word held are rebuilt (R500). Which stable entries
of the slice those are, at most four of 128 bits, is free (log 77). -/
def State.directoryUe (s : State) (sl : Nat) : State :=
  let (n, s) := s.choose 5
  let s := (List.range n).foldl (fun s _ =>
    let es := s.sliceEntries sl
    let (k, s) := s.choose es.length
    match es[k]? with
    | some e => s.rebuildEntry e.1 e.2
    | none => s) s
  s.recoveringRegions sl

/-- SCRATCHPAD_UE (R235): the word is poisoned, the bank scored, a directory bank's entries rebuilt and a security
table's regions contained (R500), and work whose state the bank holds ends (R516). -/
def execScratchpadUe (off : BitVec 32) (s : State) : Host.Outcome State Fault Refusal :=
  let n := bankOf off.toNat
  let b := obj 3 n
  let t := s.setWordPoison off.toNat true
  let t := (t.score b .ue).event .bankUe { object := b, cause := alignDown off.toNat 64 }
  let t := match t.own n Reg.CADDY_OWN_KIND with
    | 4 => t.directoryUe (n / 1024 * 32 + t.own n Reg.CADDY_OWN_IDX)
    | 5 => t.securityUe
    | _ => t
  done s (t.loseState b).go

/-- A further column of a bank can have reached THRESH corrected errors: the bank has had that many beside those of the columns
already repaired (R236; log 3). -/
def State.columnReached (s : State) (b : Nat) : Bool :=
  let thresh := max 1 (s.fld Reg.CADDY_REPAIR_CFG Reg.CADDY_REPAIR_CFG_THRESH)
  decide (thresh * ((s.pad.repaired.filter fun x => x.1 = b).length + 1) ≤ SMap.get s.pad.ces b 0)

/-- FIELD_REPAIR (R236): the column has reached THRESH, the subarray has a free spare of its four, the die an entry left; the
repair acts at the next wake. -/
def execFieldRepair (b : Fin 2048) (subarray : Fin 16) (column : Nat) (s : State) : Host.Outcome State Fault Refusal :=
  let d := b.val / 1024
  let left := if d = 0 then s.pad.fuses0 else s.pad.fuses1
  let used := (s.pad.repaired.filter fun x => x.1 = b.val && x.2.1 = subarray.val).length
  let x := (b.val, subarray.val, column)
  done s (if s.flag Reg.CADDY_REPAIR_CFG Reg.CADDY_REPAIR_CFG_AUTO && decide (0 < left) && decide (used < 4) &&
      s.columnReached b.val && !s.pad.repaired.contains x then
    let pad := { s.pad with repaired := s.pad.repaired ++ [x] }
    let pad := if d = 0 then { pad with fuses0 := pad.fuses0 - 1 } else { pad with fuses1 := pad.fuses1 - 1 }
    ({ s with pad := pad } : State).event .fuseRepair
      { object := obj 3 b.val, cause := (subarray.val * 2 ^ 16 + column) % 2 ^ 32 }
    else s)

/-! ## Retirement (R237) -/

/-- The lines of a slice that a lost directory bank tracked, which a free value tells, are recalled (R237). -/
def State.recallWays (s : State) (sl : Nat) : State :=
  (s.dir.filter fun e => decide (sliceOf (e.1 * 64) = sl)).foldl (fun s (line, e) =>
    let (k, s) := s.choose 2
    if k = 0 then s else (e.holders).foldl (fun s g => s.submit { line := line, who := .recall g }) s) s

/-- Another retired directory bank of the slice of bank `b`, while recalls of that slice are still under way: the slice
has lost both banks (R514). -/
def State.slicePairLost (s : State) (b sl : Nat) : Bool :=
  let other := (List.range 2048).any fun x =>
    decide (x ≠ b ∧ x / 1024 = b / 1024) && decide (s.own x Reg.CADDY_OWN_KIND = 4) &&
    decide (s.own x Reg.CADDY_OWN_IDX = sl % 32) && decide (s.own x Reg.CADDY_OWN_STATE = 3)
  other && s.recalling sl

/-- A bank's retirement: what held its role goes on elsewhere (R237). A slice keeps the ways of its other bank until its recalls
are done; a table's copy is made in the same step, so that its accesses wait no time. -/
def State.retireBank (s : State) (b : Nat) : State :=
  let kind := s.own b Reg.CADDY_OWN_KIND
  let idx := s.own b Reg.CADDY_OWN_IDX
  let die := b / 1024
  let s := s.setFld (Reg.CADDY_OWN b) Reg.CADDY_OWN_STATE 3
  let s := { s with pad := { s.pad with handovers := SMap.del s.pad.handovers b } }
  let s := s.bump Reg.CADDY_STATUS (if die = 0 then Reg.CADDY_STATUS_RETIRED0 else Reg.CADDY_STATUS_RETIRED1) 1
  let s : State :=
    if kind = 4 then
      let sl := die * 32 + idx
      let s := if s.slicePairLost b sl then s.containModule 0 1 else s
      let s := s.recallWays sl
      ({ s with pad := { s.pad with owed := s.pad.owed ++ [(b, sl)] } } : State).repairSlices
    else if kind = 5 ∨ kind = 6 then
      match s.spareBank die with
      | some x => s.replaceBank b x kind 0
      | none => s.containModule 0 0
    else s.capChange.advise Ev.healthRetireStart.code Ev.healthRetireStart.severity 0 (obj 3 b) 0 none (kind + idx * 8)
  (s.loseState (obj 3 b)).go

/-- BANK_RETIRE (R237): a bank whose retirement has started (R521). -/
def execBankRetire (b : Fin 2048) (s : State) : Host.Outcome State Fault Refusal :=
  done s (if (s.health (obj 3 b.val)).st = 2 ∧ s.own b.val Reg.CADDY_OWN_STATE ≠ 3 then s.retireBank b.val else s)

/-- Every bank as clearing leaves it: zeros, no poison, reset owners, an empty directory; banks that stay retired keep
their state and their replacements (R238, R240). -/
def State.clearBanks (s : State) : State :=
  { s with pad := { s.pad with mem := [], poison := [], handovers := [] }, dir := [] }

/-- The module domain is up. -/
def State.running (s : State) : Bool := s.power = 1 || s.power = 2 || s.power = 3 || s.power = 5

/-- Accesses that wait for a bank are granted as they rank, bank by bank (R233). -/
def State.serveBanks (s : State) : State :=
  let bs := ((s.tasks.filterMap fun t => t.2.bank.map (·.bank)) ++ s.eng.kettles.filterMap fun k => k.2.bank.map (·.bank)).eraseDups
  bs.foldl (fun s b => State.serveBank b false (s.bankWaiters b).length s) s

/-- Banks accept requests: those that waited are granted (R233, R241). -/
def State.banksReady (s : State) : State :=
  (s.clearBanks.setFld Reg.CADDY_STATUS Reg.CADDY_STATUS_READY 1).serveBanks.go

/-- CADDY_CLEAR_DONE (R240): the clearing that a wake or a module reset began has ended. -/
def execCaddyClearDone (s : State) : Host.Outcome State Fault Refusal :=
  done s (if s.flag Reg.CADDY_STATUS Reg.CADDY_STATUS_READY || !s.running then s else s.banksReady)

end Sys2Proof.Machine
end

