-- ==== Sys2Proof/Machine/Security.lean ====
section
/-! DEFINITION. Worlds, grants, regions, keys and firmware (17): R47, R474 to R497, R563. -/

namespace Sys2Proof.Machine

/-! ## Worlds of engines (R478, R563) -/

/-- WLOCK is set (R563). -/
def State.wlock (s : State) : Bool := s.flag Reg.SEC_CFG Reg.SEC_CFG_WLOCK

/-- A bank belongs to an engine, or is being handed to or from it. -/
def State.ownsBank (s : State) (e : Eng) : Bool :=
  (List.range 2048).any fun b =>
    let st := s.own b Reg.CADDY_OWN_STATE
    let k := ownerKind e.kind
    ((decide (st = 1) || decide (st = 2)) && decide (s.own b Reg.CADDY_OWN_KIND = k) &&
      decide (s.own b Reg.CADDY_OWN_IDX = e.idx.val)) ||
    (match SMap.find s.pad.handovers b with
     | some h => decide (h.kind = k) && decide (h.idx = e.idx.val)
     | none => false)

/-- An engine runs nothing and owns no bank (R478, R562). -/
def State.engineIdle (s : State) (e : Eng) : Bool :=
  !(s.tasks.any fun t => s.onEngine e t.1 t.2 && t.2.fin.isNone) && !s.ownsBank e

/-- World bits of the engines of a kind, the register's field first: each changed bit acts on its own, and the engine drops
its lines (R478). -/
def State.changeWorlds (s : State) (r : RegId) (f : Fld) (k : EngKind) (v : Nat) : State :=
  (engines k).foldl (fun s e =>
    let old := s.fld r f
    if e.idx.val ≥ f.hi + 1 - f.lo ∨ bit old e.idx.val = bit v e.idx.val then s
    else if s.engineIdle e then
      let s := s.setFld r f (putBit old e.idx.val (bit v e.idx.val))
      if engHasSteep e then s.setSteep e [] else s
    else s.ignored e.part r.off (f.put 0 v)) s

/-- The dirty lines of engines whose world is another one in `t` (R478). -/
def State.worldDirty (s t : State) : List (Eng × SteepLine) :=
  (engines .newt ++ engines .kettle).flatMap fun e =>
    if s.secureEng e = t.secureEng e then [] else ((s.steepOf e).filter fun x => x.dirty ≠ 0).map fun x => (e, x)

/-- A write to `SEC_WORLD_ENG` or `SEC_WORLD_MISC` (R478, R563): dirty bytes of the lines dropped are written back. -/
def State.writeWorld (s : State) (via : Via) (misc : Bool) (v : Word) : State :=
  if !s.secureVia via || s.wlock then s
  else if misc then
    let s := s.changeWorlds Reg.SEC_WORLD_MISC Reg.SEC_WORLD_MISC_GKO .gecko (newFld Reg.SEC_WORLD_MISC_GKO v)
    let s := s.changeWorlds Reg.SEC_WORLD_MISC Reg.SEC_WORLD_MISC_EMB .emb (newFld Reg.SEC_WORLD_MISC_EMB v)
    s.setFld Reg.SEC_WORLD_MISC Reg.SEC_WORLD_MISC_HEAD (newFld Reg.SEC_WORLD_MISC_HEAD v)
  else
    let t := s.changeWorlds Reg.SEC_WORLD_ENG Reg.SEC_WORLD_ENG_NEWT .newt (newFld Reg.SEC_WORLD_ENG_NEWT v)
    let t := t.changeWorlds Reg.SEC_WORLD_ENG Reg.SEC_WORLD_ENG_KTL .kettle (newFld Reg.SEC_WORLD_ENG_KTL v)
    ((s.worldDirty t).foldl (fun t x => (t.queueBack x.1 x.2).2) t).go

/-- ENGINE_WORLD_CHANGE (R478). -/
def execEngineWorldChange (via : Via) (misc : Bool) (v : Word) (s : State) : Host.Outcome State Fault Refusal :=
  done s (if s.mayWrite via (if misc then Reg.SEC_WORLD_MISC.off else Reg.SEC_WORLD_ENG.off) then
    s.writeWorld via misc v else s)

/-- A write to `SEC_CTX_SECURE` or `SEC_CFG` (R474, R563): ignored once WLOCK is set. -/
def State.writeLocked (s : State) (via : Via) (r : RegId) (v : Word) : State :=
  if s.wlock then s else s.writePlain (s.secureVia via) r [] v.toNat

/-- WLOCK_SET (R563). -/
def execWlockSet (via : Via) (v : Word) (s : State) : Host.Outcome State Fault Refusal :=
  done s (if s.mayWrite via Reg.SEC_CFG.off ∧ newFld Reg.SEC_CFG_WLOCK v = 1 then
    s.writeLocked via Reg.SEC_CFG v else s)

/-! ## Grants (R47, R484) -/

/-- A region as its entry stands. -/
def State.regionAt (s : State) (n : Nat) : Region := SMap.get s.sec.regions n {}

/-- A world as a key: 1 for secure. -/
def worldKey (sec : Bool) : Nat := sec.toNat

/-- A write to `SEC_GRANT` (R484). -/
def State.writeGrant (s : State) (via : Via) (v : Word) : State :=
  let sec := s.secureVia via
  let r := Reg.SEC_GRANT.world sec
  let busy := s.flag r Reg.SEC_GRANT_BUSY
  let s := s.writePlain sec r [] v.toNat
  if newFld Reg.SEC_GRANT_GO v = 0 then s
  else
    let n := newFld Reg.SEC_GRANT_REGION v
    let lo := newFld Reg.SEC_GRANT_CTX_LO v
    let hi := newFld Reg.SEC_GRANT_CTX_HI v
    if busy || decide (hi < lo) || (!sec && (s.regionAt n).world) then s.setFld r Reg.SEC_GRANT_REFUSED 1
    else
      let g : Grant := ⟨lo, hi, newFld Reg.SEC_GRANT_CODE v⟩
      let s := { s with sec := { s.sec with pendGrant := SMap.put s.sec.pendGrant (worldKey sec) (n, g) } }
      s.setFld r Reg.SEC_GRANT_BUSY 1

/-- GRANT_GO (R484). -/
def execGrantGo (via : Via) (v : Word) (s : State) : Host.Outcome State Fault Refusal :=
  done s (if s.mayWrite via Reg.SEC_GRANT.off ∧ newFld Reg.SEC_GRANT_GO v = 1 then s.writeGrant via v else s)

/-- A grant change joins a region's grants; writes that it covers whole are forgotten. -/
def addGrant (g : Grant) (l : List Grant) : List Grant :=
  g :: l.filter fun x => !(decide (g.lo ≤ x.lo) && decide (x.hi ≤ g.hi))

/-- GRANT_ACKNOWLEDGED (R47): the change acts from here on. -/
def execGrantAcknowledged (secure : Bool) (s : State) : Host.Outcome State Fault Refusal :=
  let k := worldKey secure
  done s (match SMap.find s.sec.pendGrant k with
    | some (n, g) =>
      let sec := { s.sec with
        grants := SMap.set s.sec.grants n (addGrant g (SMap.get s.sec.grants n [])) []
        pendGrant := SMap.del s.sec.pendGrant k }
      ({ s with sec := sec } : State).setFld (Reg.SEC_GRANT.world secure) Reg.SEC_GRANT_BUSY 0
    | none => s)

/-! ## Regions (R480 to R483) -/

/-- The staged registers of a world as a region. -/
def State.stagedRegion (s : State) (sec : Bool) : Region :=
  let c := Reg.SEC_RGN_CFG.world sec
  let g := Reg.SEC_RGN_RANGE.world sec
  { valid := s.flag c Reg.SEC_RGN_CFG_VALID, world := s.flag c Reg.SEC_RGN_CFG_WORLD,
    combine := s.flag c Reg.SEC_RGN_CFG_ATOMIC_MODE, enc := s.flag c Reg.SEC_RGN_CFG_ENC,
    key := s.fld c Reg.SEC_RGN_CFG_KEY, dom := s.fld c Reg.SEC_RGN_CFG_COH_DOMAIN,
    base := s.fld g Reg.SEC_RGN_RANGE_BASE, size := s.fld g Reg.SEC_RGN_RANGE_SIZE }

/-- A world's staged registers loaded from an entry; a non-secure load of a secure region gives zeros (R483). -/
def State.loadRegion (s : State) (sec : Bool) (n : Nat) : State :=
  let e := s.regionAt n
  let e : Region := if !sec && e.world then {} else e
  let c := Reg.SEC_RGN_CFG.world sec
  let g := Reg.SEC_RGN_RANGE.world sec
  let s := (s.setFld c Reg.SEC_RGN_CFG_VALID e.valid.toNat).setFld c Reg.SEC_RGN_CFG_WORLD e.world.toNat
  let s := (s.setFld c Reg.SEC_RGN_CFG_ATOMIC_MODE e.combine.toNat).setFld c Reg.SEC_RGN_CFG_ENC e.enc.toNat
  let s := (s.setFld c Reg.SEC_RGN_CFG_KEY e.key).setFld c Reg.SEC_RGN_CFG_COH_DOMAIN e.dom
  (s.setFld g Reg.SEC_RGN_RANGE_BASE e.base).setFld g Reg.SEC_RGN_RANGE_SIZE e.size

/-- Two ranges in units of 2 MiB share a unit. -/
def Region.meets (a b : Region) : Bool :=
  decide (a.base < b.base + b.size) && decide (b.base < a.base + a.size)

/-- A page of a range is not UNBACKED. -/
def State.backed (s : State) (r : Region) : Bool :=
  s.tier.pht.any fun e => decide (r.base * 512 ≤ e.1) && decide (e.1 < (r.base + r.size) * 512)

/-- A commit is refused (R481). -/
def State.refusesCommit (s : State) (sec : Bool) (n : Nat) (new : Region) : Bool :=
  let old := s.regionAt n
  s.flag (Reg.SEC_RGN_SEL.world sec) Reg.SEC_RGN_SEL_BUSY || (!sec && old.world) ||
  (new.valid &&
    (decide (new.size = 0) || decide ((new.base + new.size) * 2 ^ 21 > s.window) ||
     s.sec.regions.any (fun e => decide (e.1 ≠ n) && e.2.valid && e.2.meets new) ||
     (new.enc && match SMap.find s.sec.keys new.key with
       | some k => k.world ≠ new.world
       | none => true) ||
     (old.valid && (decide (old.base ≠ new.base) || decide (old.size ≠ new.size) || old.enc ≠ new.enc ||
        decide (old.key ≠ new.key)) && (s.backed old || s.backed new))))

/-- The host-held lines of a region whose COH_DOMAIN changes (R482). -/
def State.heldLines (s : State) (old new : Region) : List (Nat × Nat) :=
  if old.valid && decide (old.dom ≠ new.dom) then
    (s.dir.filter fun e => decide (old.base * 2 ^ 15 ≤ e.1) && decide (e.1 < (old.base + old.size) * 2 ^ 15)).flatMap
      fun e => e.2.holders.map fun g => (e.1, g)
  else []

/-- The lines of a region with combined atomics due before its ATOMIC_MODE changes (R191). -/
def State.dueCombines (s : State) (old new : Region) : List Nat :=
  if old.valid && old.combine ≠ new.combine then
    ((s.combine.map fun e => e.2.line).filter fun l =>
      decide (old.base * 2 ^ 15 ≤ l) && decide (l < (old.base + old.size) * 2 ^ 15)).dedup
  else []

/-- The recalls and combined atomics that a commit starts, where none waits yet. -/
def State.prepareCommit (s : State) (old new : Region) : State :=
  let s := (s.heldLines old new).foldl (fun s x => s.submitOnce { line := x.1, who := .recall x.2 }) s
  (s.dueCombines old new).foldl (fun s l => s.submitOnce { line := l, who := .comb }) s

/-- A write to `SEC_RGN_SEL` (R480 to R482). -/
def State.writeRgnSel (s : State) (via : Via) (v : Word) : State :=
  let sec := s.secureVia via
  let r := Reg.SEC_RGN_SEL.world sec
  let n := newFld Reg.SEC_RGN_SEL_REGION v
  let new := s.stagedRegion sec
  let refused := s.refusesCommit sec n new
  let s := s.writePlain sec r [] v.toNat
  if newFld Reg.SEC_RGN_SEL_COMMIT v = 0 then s.loadRegion sec n
  else if refused then s.setFld r Reg.SEC_RGN_SEL_REFUSED 1
  else
    let s := { s with sec := { s.sec with pendRgn := SMap.put s.sec.pendRgn (worldKey sec) (n, new) } }
    ((s.setFld r Reg.SEC_RGN_SEL_BUSY 1).prepareCommit (s.regionAt n) new).go

/-- REGION_LOAD (R480). -/
def execRegionLoad (via : Via) (v : Word) (s : State) : Host.Outcome State Fault Refusal :=
  done s (if s.mayWrite via Reg.SEC_RGN_SEL.off ∧ newFld Reg.SEC_RGN_SEL_COMMIT v = 0 then s.writeRgnSel via v else s)

/-- REGION_COMMIT (R481). -/
def execRegionCommit (via : Via) (v : Word) (s : State) : Host.Outcome State Fault Refusal :=
  done s (if s.mayWrite via Reg.SEC_RGN_SEL.off ∧ newFld Reg.SEC_RGN_SEL_COMMIT v = 1 then s.writeRgnSel via v else s)

/-- REGION_COMMIT_ACK (R482): nothing of the region is held or due any more, and every staged field acts. -/
def execRegionCommitAck (secure : Bool) (s : State) : Host.Outcome State Fault Refusal :=
  let k := worldKey secure
  done s (match SMap.find s.sec.pendRgn k with
    | some (n, new) =>
      let s := s.prepareCommit (s.regionAt n) new
      if (s.heldLines (s.regionAt n) new).isEmpty && (s.dueCombines (s.regionAt n) new).isEmpty then
        let sec := { s.sec with regions := SMap.set s.sec.regions n new {}, pendRgn := SMap.del s.sec.pendRgn k }
        (({ s with sec := sec } : State).setFld (Reg.SEC_RGN_SEL.world secure) Reg.SEC_RGN_SEL_BUSY 0).go
      else s.go
    | none => s)

/-! ## Keys (R488 to R490) -/

/-- VALID regions that are encrypted with a slot's key. -/
def State.keyUsers (s : State) (slot : Nat) : Nat :=
  (s.sec.regions.filter fun e => e.2.valid && e.2.enc && decide (e.2.key = slot)).length

/-- LOADED, SWORLD and USERS of a slot, into a world's `SEC_KEY_CTL`. -/
def State.loadKey (s : State) (sec : Bool) (slot : Nat) : State :=
  let r := Reg.SEC_KEY_CTL.world sec
  let k := SMap.find s.sec.keys slot
  ((s.setFld r Reg.SEC_KEY_CTL_LOADED k.isSome.toNat).setFld r Reg.SEC_KEY_CTL_SWORLD
    ((k.map Key.world).getD false).toNat).setFld r Reg.SEC_KEY_CTL_USERS (s.keyUsers slot)

/-- A key drawn for a slot (R489): free bits. -/
def State.drawKey (s : State) (sec : Bool) (slot : Nat) : State :=
  let (k, s) := s.fresh
  { s with sec := { s.sec with keys := SMap.put s.sec.keys slot ⟨Config.freeKey k, sec⟩ } }

/-- A GO on a slot is refused (R489). -/
def State.refusesKey (s : State) (sec : Bool) (op slot : Nat) : Bool :=
  let k := SMap.find s.sec.keys slot
  (decide (op = 1) && k.isSome) || (decide (op = 2) && decide (s.keyUsers slot ≠ 0)) ||
  (!sec && (k.map Key.world).getD false)

/-- A write to `SEC_KEY_CTL` (R489); OP 0 and 3 do nothing. -/
def State.writeKeyCtl (s : State) (via : Via) (v : Word) : State :=
  let sec := s.secureVia via
  let r := Reg.SEC_KEY_CTL.world sec
  let slot := newFld Reg.SEC_KEY_CTL_SLOT v
  let op := newFld Reg.SEC_KEY_CTL_OP v
  let s := s.writePlain sec r [] v.toNat
  let s : State :=
    if newFld Reg.SEC_KEY_CTL_GO v = 0 ∨ (op ≠ 1 ∧ op ≠ 2) then s
    else if s.refusesKey sec op slot then s.setFld r Reg.SEC_KEY_CTL_REFUSED 1
    else if op = 1 then s.drawKey sec slot
    else { s with sec := { s.sec with keys := SMap.del s.sec.keys slot } }
  s.loadKey sec slot

/-- KEY_SLOT_SELECT (R489). -/
def execKeySlotSelect (via : Via) (v : Word) (s : State) : Host.Outcome State Fault Refusal :=
  done s (if s.mayWrite via Reg.SEC_KEY_CTL.off ∧ newFld Reg.SEC_KEY_CTL_GO v = 0 then s.writeKeyCtl via v else s)

/-- GENERATE (R489). -/
def execGenerate (via : Via) (v : Word) (s : State) : Host.Outcome State Fault Refusal :=
  done s (if s.mayWrite via Reg.SEC_KEY_CTL.off ∧ newFld Reg.SEC_KEY_CTL_GO v = 1 ∧ newFld Reg.SEC_KEY_CTL_OP v = 1 then
    s.writeKeyCtl via v else s)

/-- ERASE (R489). -/
def execErase (via : Via) (v : Word) (s : State) : Host.Outcome State Fault Refusal :=
  done s (if s.mayWrite via Reg.SEC_KEY_CTL.off ∧ newFld Reg.SEC_KEY_CTL_GO v = 1 ∧ newFld Reg.SEC_KEY_CTL_OP v = 2 then
    s.writeKeyCtl via v else s)

/-! ## Firmware (R495 to R497) -/

/-- The bit of a variant in VARIANTS. -/
def variantBit : Variant → Nat
  | .gxm4160 => 0 | .gxm4120 => 1 | .gxm4080 => 2

/-- Every field of an image's header is in range (17, "Image header"). -/
def headerOk (i : Image) : Bool :=
  decide (i.magic = 0x57465747) && decide (i.format = 1) && decide (i.keyIdx.toNat < 4) &&
  decide (i.variants.toNat < 8) && decide (i.svn.toNat ≤ 64) && decide (i.length ≤ 48 * 2 ^ 20 - 256) && i.zeroOk

/-- What keeps an image from running, as `SEC_FW_STAT`.CAUSE codes it; 0 none (R495). -/
def State.imageCause (s : State) (i : Image) : Nat :=
  if !i.readOk then 7
  else if !headerOk i then 1
  else if bit s.fixed.revoked i.keyIdx.toNat then 2
  else if !i.sigOk then 3
  else if !i.digestOk then 4
  else if i.svn.toNat < s.sec.svnMin then 5
  else if !bit i.variants.toNat (variantBit s.fixed.variant) then 6
  else 0

/-- A command that its transport does not serve is discarded, with an event (R466, R461). -/
def State.mctpDiscard (s : State) (t : Transport) : State :=
  match t with
  | .vdm h => s.event .msgDiscarded { object := obj 0xB h.val }
  | _ => s

/-- Steward commands are served on this transport (R466). -/
def Transport.steward : Transport → Bool
  | .i3c | .service => true
  | _ => false

/-- FIRMWARE_UPDATE (R466, R495, R496, R501): a verified image goes to the slot and is marked STAGED. -/
def execFirmwareUpdate (t : Transport) (img : Image) (s : State) : Host.Outcome State Fault Refusal :=
  let c := s.imageCause img
  done s (if s.power = 0 ∨ s.ras.romOnly ∨ (t = .service ∧ !s.portUp 49) then s
    else if !Transport.steward t then s.mctpDiscard t
    else if c ≠ 0 then s.reply t 0x7F c []
    else
      let s := { s with sec := { s.sec with image := img, staged := some img } }
      (s.event .fwStaged { object := obj 0x20 0, cause := img.svn.toNat }).reply t 0x7F 0 [])

/-- A write to `SEC_FW_CTL` (17): anti-rollback fuses are blown up to the running SVN. -/
def State.writeFwCtl (s : State) (via : Via) (v : Word) : State :=
  if newFld Reg.SEC_FW_CTL_COMMIT_SVN v = 1 ∧ s.secureVia via ∧ s.power ≠ 2 then
    let n := max s.sec.svnMin s.sec.svn
    let s := { s with sec := { s.sec with svnMin := n } }
    s.event .svnCommit { object := obj 0x20 0, cause := n }
  else s

/-- COMMIT_SVN (R495). -/
def execCommitSvn (via : Via) (s : State) : Host.Outcome State Fault Refusal :=
  done s (if s.mayWrite via Reg.SEC_FW_CTL.off then s.writeFwCtl via 1 else s)

end Sys2Proof.Machine
end

