-- ==== Sys2Proof/Machine/Heads.lean ====
section
/-! DEFINITION. Host heads (16): mailboxes, HDM decoders, DOE, SPDM, IDE, MCTP, head resets and host-memory reads
(R453 to R473, R493, R494, R496, R504, R541). What an outside standard lays out is a free byte string (log 18). -/

namespace Sys2Proof.Machine

/-! ## Which requests arrive -/

/-- A head beside its registers. -/
def State.head (s : State) (h : Nat) : Head := SMap.get s.heads h {}
def State.setHead (s : State) (h : Nat) (x : Head) : State := { s with heads := SMap.set s.heads h x {} }

/-- A field of HEAD_STAT. -/
def State.headStat (s : State) (h : Nat) (f : Fld) : Nat := s.fld (Reg.HEAD_STAT h) f

/-- A head has its link and is served (R467, R541, R547). -/
def State.headUp (s : State) (h : Nat) : Bool :=
  decide (s.headStat h Reg.HEAD_STAT_IN_RESET = 0) && (s.power = 1 || s.power = 3 || s.power = 5)

/-- Messages reach the steward over a transport (R466, R496, R501, R504, R541, R547). -/
def State.transportUp (s : State) (t : Transport) : Bool :=
  !s.ras.romOnly &&
  match t with
  | .vdm h => s.headUp h.val
  | .doe h => s.headUp h.val
  | .i3c => s.power ≠ 0
  | .service => s.power ≠ 0 && s.power ≠ 4 && s.portUp 49

/-- MCTP over PCIe VDM is accepted on a head only while VDM_MCTP is 1 (R466). -/
def State.mctpOpen (s : State) (t : Transport) : Bool :=
  match t with
  | .vdm h => s.flag (Reg.HEAD_CFG h.val) Reg.HEAD_CFG_VDM_MCTP
  | _ => true

/-! ## The mailbox (R456) -/

/-- A mailbox command of a head: its return code and bytes come from the state it leaves. Replies of a head's own
mailboxes carry the head as `doe`, with CXL's opcode, below 0x10000. -/
def State.mailbox (s : State) (h : Fin 4) (op : Nat) (f : State → State × Nat × List Byte) : State :=
  if s.headUp h.val ∧ ¬ s.ras.romOnly then
    let (s, code, d) := f s
    s.reply (.doe h) op code d
  else s

/-- A payload that CXL 3.1 lays out: free bytes. -/
def State.payload (s : State) (op : Nat) : State × Nat × List Byte :=
  let (k, s) := s.fresh
  (s, 0, Config.payload op k)

/-- IDENTIFY (R456). -/
def execIdentify (h : Fin 4) (s : State) : Host.Outcome State Fault Refusal :=
  done s (s.mailbox h 0x0001 fun s => s.payload 0x0001)

/-- GET_SUPPORTED_LOGS (R456). -/
def execGetSupportedLogs (h : Fin 4) (s : State) : Host.Outcome State Fault Refusal :=
  done s (s.mailbox h 0x0400 fun s => s.payload 0x0400)

/-- GET_LOG (R456): the Command Effects Log. -/
def execGetLog (h : Fin 4) (s : State) : Host.Outcome State Fault Refusal :=
  done s (s.mailbox h 0x0401 fun s => s.payload 0x0401)

/-- GET_EVENT_RECORDS (R456): the records that the head's event log holds, by the codes of `State.dcEvent`. -/
def execGetEventRecords (h : Fin 4) (s : State) : Host.Outcome State Fault Refusal :=
  done s (s.mailbox h 0x0100 fun s => (s, 0, (s.head h.val).events.flatMap (natLE 8)))

/-- CLEAR_EVENT_RECORDS (R456): the oldest ones leave the log. -/
def execClearEventRecords (h : Fin 4) (count : Nat) (s : State) : Host.Outcome State Fault Refusal :=
  done s (s.mailbox h 0x0101 fun s =>
    let x := s.head h.val
    (s.setHead h.val { x with events := x.events.drop count }, 0, []))

/-- GET_EVENT_INTERRUPT_POLICY (R456). -/
def execGetEventInterruptPolicy (h : Fin 4) (s : State) : Host.Outcome State Fault Refusal :=
  done s (s.mailbox h 0x0102 fun s => (s, 0, natLE 5 (s.head h.val).policy.toNat))

/-- SET_EVENT_INTERRUPT_POLICY (R456). -/
def execSetEventInterruptPolicy (h : Fin 4) (policy : BitVec 40) (s : State) : Host.Outcome State Fault Refusal :=
  done s (s.mailbox h 0x0103 fun s => (s.setHead h.val { s.head h.val with policy := policy }, 0, []))

/-- GET_TIMESTAMP (R456): the value that the host set; the module never advances or uses it (R159). -/
def execGetTimestamp (h : Fin 4) (s : State) : Host.Outcome State Fault Refusal :=
  done s (s.mailbox h 0x0300 fun s => (s, 0, natLE 8 (s.head h.val).timestamp.toNat))

/-- SET_TIMESTAMP (R456). -/
def execSetTimestamp (h : Fin 4) (v : Word) (s : State) : Host.Outcome State Fault Refusal :=
  done s (s.mailbox h 0x0301 fun s => (s.setHead h.val { s.head h.val with timestamp := v }, 0, []))

/-- IDENTIFY_MEMORY_DEVICE (R456). -/
def execIdentifyMemoryDevice (h : Fin 4) (s : State) : Host.Outcome State Fault Refusal :=
  done s (s.mailbox h 0x4000 fun s => s.payload 0x4000)

/-- GET_POISON_LIST (R456). -/
def execGetPoisonList (h : Fin 4) (s : State) : Host.Outcome State Fault Refusal :=
  done s (s.mailbox h 0x4300 fun s => s.payload 0x4300)

/-- GET_DYNAMIC_CAPACITY_CONFIGURATION (R456, R568): base and length of the 8 regions. -/
def execGetDynamicCapacityConfiguration (h : Fin 4) (s : State) : Host.Outcome State Fault Refusal :=
  done s (s.mailbox h 0x4800 fun s =>
    (s, 0, (List.range 8).flatMap fun r =>
      let x := SMap.get s.tier.regions r (0, 0)
      natLE 8 x.1 ++ natLE 8 x.2))

/-- A host behind a head is listed in an extent. -/
def State.listedBehind (s : State) (h : Nat) (x : Extent) : Bool :=
  (setBits 64 x.listed).any fun n => s.hostHead n = h

/-- GET_DYNAMIC_CAPACITY_EXTENT_LIST (R456): base, length and tag of the extents that hosts behind the head hold. -/
def execGetDynamicCapacityExtentList (h : Fin 4) (s : State) : Host.Outcome State Fault Refusal :=
  done s (s.mailbox h 0x4801 fun s =>
    (s, 0, (s.tier.extents.filter fun e => s.listedBehind h.val e.2).flatMap fun e =>
      natLE 8 e.2.base ++ natLE 8 e.2.len ++ natLE 16 e.2.tag))

/-- Opcodes that the mailbox accepts (R456), as CXL 3.1 numbers them. -/
def mailboxOps : List Nat :=
  [0x0001, 0x0100, 0x0101, 0x0102, 0x0103, 0x0300, 0x0301, 0x0400, 0x0401, 0x4000, 0x4300, 0x4800, 0x4801, 0x4802, 0x4803]

/-- UNSUPPORTED_MAILBOX_COMMAND (R456): return code Unsupported, CXL's 0x0003. -/
def execUnsupportedMailboxCommand (h : Fin 4) (op : BitVec 16) (s : State) : Host.Outcome State Fault Refusal :=
  done s (if mailboxOps.contains op.toNat then s else s.mailbox h op.toNat fun s => (s, 3, []))

/-! ## Decoders (R457) -/

/-- A decoder may be committed (R457). -/
def State.decoderOk (s : State) (d : Decoder) : Bool :=
  ([1, 2, 4, 8, 16] : List Nat).contains d.ways && ([256, 512, 1024, 2048, 4096, 8192, 16384] : List Nat).contains d.gran &&
  decide (d.pos < d.ways) && decide (d.dpaBase + d.size / d.ways ≤ min (2 ^ 44) s.window)

/-- HDM_DECODER_COMMIT (R457). -/
def execHdmDecoderCommit (h : Fin 4) (k : Fin 8) (dec : Decoder) (s : State) : Host.Outcome State Fault Refusal :=
  let x := s.head h.val
  done s (if ¬ s.headUp h.val then s
    else if s.decoderOk dec then
      s.setHead h.val { x with decoders := SMap.put x.decoders k.val dec, decErr := putBit x.decErr k.val false }
    else s.setHead h.val { x with decErr := putBit x.decErr k.val true })

/-! ## DOE (R461) -/

/-- The objects of DOE: Discovery, CMA/SPDM, Secured CMA/SPDM, CDAT (vendor and type, as PCI Express and CXL number
them). -/
def doeObjects : List (Nat × Nat) := [(1, 0), (1, 1), (1, 2), (0x1E98, 2)]

/-- DOE_DISCOVERY (R461): the object of an index, and the next index. -/
def execDoeDiscovery (h : Fin 4) (index : Nat) (s : State) : Host.Outcome State Fault Refusal :=
  done s (s.mailbox h 0x10000 fun s =>
    (s, 0, match doeObjects[index]? with
      | some (v, t) => natLE 2 v ++ natLE 1 t ++ natLE 1 (if index < 3 then index + 1 else 0)
      | none => [0xFF, 0xFF, 0, 0]))

/-- CDAT_TABLE_ACCESS (R456, R461): DSMAS, DSLBIS and DSEMTS entries of the two tiers. -/
def execCdatTableAccess (h : Fin 4) (index : Nat) (s : State) : Host.Outcome State Fault Refusal :=
  done s (s.mailbox h 0x11E98 fun s => (s, 0, Config.payload 0x11E98 index))

/-! ## SPDM (R462, R493, R494) -/

/-- A transport as a key. -/
def transportKey : Transport → Nat
  | .vdm h => h.val
  | .doe h => 4 + h.val
  | .i3c => 8
  | .service => 9

/-- A responder's progress. -/
def State.spdmOf (s : State) (t : Transport) : Spdm := SMap.get s.spdm (transportKey t) {}
def State.setSpdm (s : State) (t : Transport) (x : Spdm) : State :=
  { s with spdm := SMap.set s.spdm (transportKey t) x {} }

/-- An SPDM ERROR response: 0x7F with a code (0x01 InvalidRequest, 0x04 UnexpectedRequest, 0x05 Unspecified). -/
def State.spdmError (s : State) (t : Transport) (code : Nat) : State := s.reply t 0x2007F code []

/-- An SPDM request (R462, R466, R496): refused in recovery, and out of its order. -/
def State.spdmReq (s : State) (t : Transport) (op : Nat) (inOrder : Spdm → Bool)
    (f : State → State × Except Nat (List Byte)) : State :=
  if !s.transportUp t then s
  else if !s.mctpOpen t then s.mctpDiscard t
  else if s.power = 2 then s.spdmError t 5
  else if !inOrder (s.spdmOf t) then s.spdmError t 4
  else
    match f s with
    | (s', .ok d) => s'.reply t (0x20000 + op) 0 d
    | (_, .error c) => s.spdmError t c

/-- The running image's number in opaque payloads. -/
def State.imageNo (s : State) : Nat := s.sec.svn * 2 ^ 32 + s.sec.version

/-- The chain of slot 0: device CA, DeviceID and Alias certificates; the last changes with the image (R493). -/
def State.chain (s : State) : List Byte := Config.payload 0x82 0 ++ Config.payload 0x83 s.imageNo

/-- Bytes signed with the Alias key, or drawn by the responder: free. -/
def State.signed (s : State) (op : Nat) : State × List Byte :=
  let (k, s) := s.fresh
  (s, Config.payload op k)

/-- GET_VERSION (R462): 1.3 alone; what was agreed before is void. -/
def execGetVersion (t : Transport) (s : State) : Host.Outcome State Fault Refusal :=
  done s (s.spdmReq t 0x84 (fun _ => true) fun s => (s.setSpdm t { version := true }, .ok [0x13]))

/-- GET_CAPABILITIES (R462). -/
def execGetCapabilities (t : Transport) (s : State) : Host.Outcome State Fault Refusal :=
  done s (s.spdmReq t 0xE1 (fun x => x.version) fun s =>
    (s.setSpdm t { s.spdmOf t with caps := true }, .ok (Config.payload 0xE1 0)))

/-- Every algorithm that the responder offers is among those asked for. -/
def offerOk (o : SpdmOffer) : Bool := o.p521 && o.sha512 && o.secp521r1 && o.aes256gcm && o.keySched

/-- NEGOTIATE_ALGORITHMS (R462). -/
def execNegotiateAlgorithms (t : Transport) (offer : SpdmOffer) (s : State) : Host.Outcome State Fault Refusal :=
  done s (s.spdmReq t 0xE3 (fun x => x.caps) fun s =>
    if offerOk offer then (s.setSpdm t { s.spdmOf t with algs := true }, .ok (Config.payload 0xE3 0))
    else (s, .error 1))

/-- GET_DIGESTS (R493): slot 0 alone is filled. -/
def execGetDigests (t : Transport) (s : State) : Host.Outcome State Fault Refusal :=
  done s (s.spdmReq t 0x81 (fun x => x.algs) fun s =>
    (s, .ok (1 :: natLE 64 (Config.sha512 s.chain).toNat)))

/-- GET_CERTIFICATE (R493): slots 1 to 7 are empty. -/
def execGetCertificate (t : Transport) (slot : Fin 8) (s : State) : Host.Outcome State Fault Refusal :=
  done s (s.spdmReq t 0x82 (fun x => x.algs) fun s =>
    if slot.val = 0 then (s, .ok s.chain) else (s, .error 1))

/-- CHALLENGE (R493): the nonce, answered with a signature of the Alias key. -/
def execChallenge (t : Transport) (slot : Fin 8) (nonce : List Byte) (s : State) : Host.Outcome State Fault Refusal :=
  done s (s.spdmReq t 0x83 (fun x => x.algs) fun s =>
    if slot.val = 0 then
      let (s, d) := s.signed 0x83
      (s, .ok (nonce ++ d))
    else (s, .error 1))

/-- The PCI Express device ID (R453). -/
def deviceId : Variant → Nat
  | .gxm4160 => 0x4160 | .gxm4120 => 0x4120 | .gxm4080 => 0x4080

/-- A measurement block (R494). -/
def State.measurement (s : State) (index : Nat) : List Byte :=
  let digest := fun (l : List Byte) => natLE 64 (Config.sha512 l).toNat
  match index with
  | 1 => digest (Config.payload 0x501 0)
  | 2 => digest (Config.payload 0x502 s.imageNo)
  | 3 => natLE 4 s.sec.svn ++ natLE 4 s.sec.svnMin
  | 4 => digest (natLE 8 (s.reg Reg.SEC_CTX_SECURE) ++ natLE 8 (s.reg Reg.SEC_WORLD_ENG) ++
      natLE 8 (s.reg Reg.SEC_WORLD_MISC) ++ natLE 8 (s.reg Reg.SEC_CFG) ++
      (s.sec.regions.filter fun e => e.2.valid).flatMap fun e => natLE 1 (e.2.world.toNat + 2 * e.2.enc.toNat))
  | 5 => natLE 8 (s.reg Reg.ZL_IDENT) ++ natLE 1 (s.fld Reg.GLB_PART_CTL Reg.GLB_PART_CTL_PART_ID) ++
      natLE 2 (s.fld Reg.GLB_PART_CTL Reg.GLB_PART_CTL_GEN) ++ natLE 2 (deviceId s.fixed.variant)
  | _ => []

/-- GET_MEASUREMENTS (R494). -/
def execGetMeasurements (t : Transport) (index : BitVec 8) (nonce : List Byte) (sign : Bool) (s : State) :
    Host.Outcome State Fault Refusal :=
  done s (s.spdmReq t 0xE0 (fun x => x.algs) fun s =>
    let l : Option (List Nat) :=
      if index = 0xFF then some [1, 2, 3, 4, 5]
      else if 1 ≤ index.toNat ∧ index.toNat ≤ 5 then some [index.toNat] else none
    match l with
    | none => (s, .error 1)
    | some l =>
      let d := l.flatMap fun i => natLE 1 i ++ s.measurement i
      if sign then
        let (s, g) := s.signed 0xE0
        (s, .ok (d ++ nonce ++ g))
      else (s, .ok d))

/-- KEY_EXCHANGE (R462). -/
def execKeyExchange (t : Transport) (_peer : List Byte) (s : State) : Host.Outcome State Fault Refusal :=
  done s (s.spdmReq t 0xE4 (fun x => x.algs) fun s =>
    let (s, d) := s.signed 0xE4
    (s.setSpdm t { s.spdmOf t with handshake := true }, .ok d))

/-- FINISH (R462). -/
def execFinish (t : Transport) (s : State) : Host.Outcome State Fault Refusal :=
  done s (s.spdmReq t 0xE5 (fun x => x.handshake) fun s =>
    (s.setSpdm t { s.spdmOf t with handshake := false, session := true, keyGen := 0 }, .ok []))

/-- KEY_UPDATE (R462). -/
def execKeyUpdate (t : Transport) (s : State) : Host.Outcome State Fault Refusal :=
  done s (s.spdmReq t 0xE9 (fun x => x.session) fun s =>
    (s.setSpdm t { s.spdmOf t with keyGen := (s.spdmOf t).keyGen + 1 }, .ok []))

/-- HEARTBEAT (R462). -/
def execHeartbeat (t : Transport) (s : State) : Host.Outcome State Fault Refusal :=
  done s (s.spdmReq t 0xE8 (fun x => x.session) fun s => (s, .ok []))

/-- END_SESSION (R462). -/
def execEndSession (t : Transport) (s : State) : Host.Outcome State Fault Refusal :=
  done s (s.spdmReq t 0xEC (fun x => x.session) fun s =>
    (s.setSpdm t { s.spdmOf t with session := false, keyGen := 0 }, .ok []))

/-! ## IDE (R463 to R465) -/

/-- The bit of a stream that shows it secure: CXL.io, or CXL.mem. -/
def ideFld (mem : Bool) : Fld := if mem then Reg.HEAD_STAT_IDE_MEM else Reg.HEAD_STAT_IDE_IO

/-- A secure session with the head's host stands (R463). -/
def State.headSession (s : State) (h : Fin 4) : Bool := (s.spdmOf (.doe h)).session || (s.spdmOf (.vdm h)).session

/-- IDE_KM (R463): keys are programmed; with `go` a stream that has its keys becomes secure. -/
def execIdeKm (h : Fin 4) (mem : Bool) (go : Bool) (s : State) : Host.Outcome State Fault Refusal :=
  let x := s.head h.val
  done s (if ¬ s.headUp h.val ∨ ¬ s.headSession h then s
    else if !go then s.setHead h.val { x with ideKeys := putBit x.ideKeys mem.toNat true }
    else if bit x.ideKeys mem.toNat then s.setFld (Reg.HEAD_STAT h.val) (ideFld mem) 1
    else s)

/-- The VALID hosts behind a head. -/
def State.hostsBehind (s : State) (h : Nat) : List Nat :=
  (List.range 64).filter fun n => s.flag (Reg.HOME_HOST n) Reg.HOME_HOST_VALID && decide (s.hostHead n = h)

/-- IDE_FAILURE (R465). -/
def execIdeFailure (h : Fin 4) (mem : Bool) (s : State) : Host.Outcome State Fault Refusal :=
  let k := h.val
  let x := s.head k
  done s (if s.headStat k (ideFld mem) = 0 then s
    else
      let t := (s.setHead k { x with ideKeys := putBit x.ideKeys mem.toNat false }).setFld (Reg.HEAD_STAT k) (ideFld mem) 0
      let t := (t.bump (Reg.HEAD_CNT k) Reg.HEAD_CNT_IDE_FAIL 1).score (obj 0xB k) .ideFail
      let t := t.event .ideFail { object := obj 0xB k, cause := mem.toNat }
      (t.hostsBehind k).foldl (fun t n => (t.score (obj 0xB k) .protocolError).declareDown n 4) t)

/-! ## MCTP (R466) -/

/-- A message type is accepted on a transport. -/
def mctpAccepts (t : Transport) (k : MctpType) : Bool :=
  match k with
  | .control | .spdm | .cci => true
  | .fmApi | .stewardCmd => Transport.steward t
  | .other _ => false

/-- MCTP_MESSAGE (R466): MCTP control is answered; what the other accepted types carry are commands of their own. -/
def execMctpMessage (t : Transport) (kind : MctpType) (s : State) : Host.Outcome State Fault Refusal :=
  done s (match t with
    | .doe _ => s
    | _ =>
      if !s.transportUp t then s
      else if !s.mctpOpen t || !mctpAccepts t kind then s.event .msgDiscarded { object := match t with
        | .vdm h => obj 0xB h.val
        | .service => obj 9 49
        | _ => obj 0x20 0 }
      else if kind = .control then
        let (k, s) := s.fresh
        s.reply t 0x30000 0 (Config.payload 0x30000 k)
      else s)

/-! ## Configuration space and resets (R467 to R469, R541) -/

/-- Messages that waited for a vector's mask or for Bus Master Enable go out (R150, R471). -/
def State.flushMsix (s : State) (h : Nat) : State :=
  let x := s.head h
  let l := (x.pend.filter fun e => SMap.get x.unmasked e.1 false).map (·.1)
  let s := s.setHead h { x with pend := x.pend.filter fun e => !(SMap.get x.unmasked e.1 false) }
  l.foldl (fun s v => s.msix h v) s

/-- CONFIG_REQUEST (R471, R541): Retry Status until READY; a write of Bus Master Enable takes it. -/
def execConfigRequest (h : Fin 4) (bme : Option Bool) (s : State) : Host.Outcome State Fault Refusal :=
  let x := s.head h.val
  done s (if s.power = 0 ∨ s.power = 2 then s.reply (.doe h) 0x40000 1 []
    else if ¬ s.headUp h.val then s
    else
      match bme with
      | none => s.reply (.doe h) 0x40000 0 [BitVec.ofNat 8 x.bme.toNat]
      | some b =>
        let t := s.setHead h.val { x with bme := b }
        (if b then t.flushMsix h.val else t).reply (.doe h) 0x40000 0 [])

/-- Replies of a head's DOE mailbox that have not been taken are gone. -/
def State.clearDoe (s : State) (h : Fin 4) : State :=
  { s with out := { s.out with replies := s.out.replies.filter fun r => !(r.via = .doe h && decide (0x10000 ≤ r.op)) } }

/-- FUNCTION_LEVEL_RESET (R469). -/
def execFunctionLevelReset (h : Fin 4) (s : State) : Host.Outcome State Fault Refusal :=
  done s (if s.headUp h.val then
    (s.setHead h.val { s.head h.val with bme := false, unmasked := [], pend := [] }).clearDoe h else s)

/-- The answer to a host-memory read reaches who waits (R100, R124, R472). -/
def State.dmaAnswer (s : State) (id : Nat) (a : Ans) : State :=
  match SMap.find s.dmas id with
  | none => s
  | some d =>
    let s := { s with dmas := SMap.del s.dmas id }
    match d.who with
    | .task t _ => s.deliver t a
    | .fetch q => s.slotArrived q a
    | _ => s

/-- The queues with a ring in host memory behind a head stop (R145, R467): records not written are lost. -/
def State.stopRings (s : State) (h : Nat) : State :=
  s.enabledQueues.foldl (fun s q =>
    let onHead := fun (r : RegId) (m f : Fld) => s.flag r m && decide (s.fld r f = h)
    let sq := onHead (Reg.Q_SQ_BASE q) Reg.Q_SQ_BASE_HOSTMEM Reg.Q_SQ_BASE_HEAD
    let cq := onHead (Reg.Q_CQ_BASE q) Reg.Q_CQ_BASE_HOSTMEM Reg.Q_CQ_BASE_HEAD
    let s := if sq then s.stopQueue q 2 0 else s
    if cq then s.cqFailed q else s) s

/-- The state that a head loses when it is reset (R467): what the table does not name stays. -/
def State.resetHead (s : State) (h : Fin 4) : State :=
  let k := h.val
  let r := Reg.HEAD_STAT k
  let x := s.head k
  let s := (s.setHead k { refusedIn := x.refusedIn, events := x.events, policy := x.policy, timestamp := x.timestamp }).setReg r
    (Reg.HEAD_STAT_IN_RESET.put 0 1)
  let s := (s.setSpdm (.doe h) {}).setSpdm (.vdm h) {}
  let out := { s.out with
    msix := s.out.msix.filter fun x => x.1 ≠ k
    hostWr := s.out.hostWr.filter fun x => x.head ≠ k
    hostRd := s.out.hostRd.filter fun x => x.1 ≠ k
    s2m := s.out.s2m.filter fun x => x.1 ≠ k
    replies := s.out.replies.filter fun x => x.via ≠ .doe h && x.via ≠ .vdm h }
  { s with out := out }

/-- Head h goes into reset (R467). Writes through it whose completion is unknown will set UNDEF: the task's note of the
head names none from here on. -/
def State.headReset (s : State) (h : Fin 4) : State :=
  let k := h.val
  if s.headStat k Reg.HEAD_STAT_IN_RESET = 1 then
    -- hosts set up or returned meanwhile go down (R213)
    ((s.hostsBehind k).foldl (fun s n => s.declareDown n 3) s).go
  else
    let s := s.resetHead h
    let lose := fun (_ : Nat) (t : Task) =>
      { t with heads := t.heads.map fun (x : Nat × Nat) => if x.1 = k then (9, x.2) else x }
    let s : State := { s with tasks := s.tasks.mapv lose }
    let s := (s.hostsBehind k).foldl (fun s n => s.declareDown n 3) s
    let s := s.stopRings k
    let ids := (s.dmas.filter fun d => decide (d.2.head = k)).map (·.1)
    (ids.foldl (fun s i => s.dmaAnswer i { st := .tierErr }) s).go

/-- HEAD_RESET (R467): PERST_N after its debounce, a hot reset, or the link going down, which is scored (R520). -/
def execHeadReset (h : Fin 4) (cause : HeadResetCause) (s : State) : Host.Outcome State Fault Refusal :=
  let was := s.headStat h.val Reg.HEAD_STAT_IN_RESET
  let t := s.headReset h
  done s (match cause with
    | .perst => t.setFld Reg.PWR_STAT Reg.PWR_STAT_PERST (putBit (t.fld Reg.PWR_STAT Reg.PWR_STAT_PERST) h.val true)
    | .hotReset => t
    | .linkDown => if was = 0 then t.score (obj 0xB h.val) .linkDown else t)

/-- HEAD_RESET_EXIT (R454, R468, R496): PERST_N is released after its debounce and the link has trained. -/
def execHeadResetExit (h : Fin 4) (speed : Fin 8) (width : Fin 32) (flit : Bool) (s : State) :
    Host.Outcome State Fault Refusal :=
  let r := Reg.HEAD_STAT h.val
  done s (if s.headStat h.val Reg.HEAD_STAT_IN_RESET = 0 ∨ s.power = 0 ∨ s.power = 4 then s
    else
      let t := s.setFld Reg.PWR_STAT Reg.PWR_STAT_PERST (putBit (s.fld Reg.PWR_STAT Reg.PWR_STAT_PERST) h.val false)
      let t := ((t.setFld r Reg.HEAD_STAT_IN_RESET 0).setFld r Reg.HEAD_STAT_SPEED speed.val).setFld r
        Reg.HEAD_STAT_WIDTH width.val
      let t := (t.setFld r Reg.HEAD_STAT_FLIT flit.toNat).setFld r Reg.HEAD_STAT_CXLMEM (flit && s.power ≠ 2).toNat
      if flit then t else t.event .configIgnored { object := obj 0xB h.val, where_ := r.off })

/-- HEAD_REFUSAL_INTERVAL (R460): once the interval of 2^30 ticks in which the head refused is over. -/
def execHeadRefusalInterval (h : Fin 4) (s : State) : Host.Outcome State Fault Refusal :=
  let x := s.head h.val
  done s (if x.refusedIn.any (· < s.tick / 2 ^ 30) then
    (s.setHead h.val { x with refusedIn := none }).event .headRefusals
      { object := obj 0xB h.val, cause := s.fld (Reg.HEAD_CNT h.val) Reg.HEAD_CNT_REFUSED }
    else s)

/-- HOST_DMA_COMPLETION (R100, R472). -/
def execHostDmaCompletion (id : Nat) (r : DmaOutcome) (s : State) : Host.Outcome State Fault Refusal :=
  let a : Ans := match r with
    | .data d => { data := d }
    | .poisoned => { st := .poison }
    | .error => { st := .tierErr }
  done s (if (SMap.find s.dmas id).isSome then (s.dmaAnswer id a).go else s)

/-- HOST_DMA_TIMEOUT (R100): `TIER_TMO`.HOST has passed. -/
def execHostDmaTimeout (id : Nat) (s : State) : Host.Outcome State Fault Refusal :=
  done s (match SMap.find s.dmas id with
    | some d =>
      if d.at_ + us (max 1 (s.fld Reg.TIER_TMO Reg.TIER_TMO_HOST)) ≤ s.tick then
        (s.dmaAnswer id { st := .tierErr }).go else s
    | none => s)

end Sys2Proof.Machine
end

