-- ==== Sys2Proof/Machine/Tiers.lean ====
section
/-! DEFINITION. The tiers' own events and settings (01, 03, 13, 20): late accesses, retraining and retirement, WINDOW, map
commits, composition meters, Dynamic Capacity, the partition, drain counts, unit disable (R22 to R34, R73 to R113, R404,
R520 to R522, R560 to R563, R568). -/

namespace Sys2Proof.Machine

/-! ## Late accesses (R97 to R99) -/

/-- The device of a line's home frame, and the tier. -/
def State.lineDevice (s : State) (line : Nat) : Option (Tier × PartId × Nat) :=
  (s.frameOf (line * 64)).map fun x =>
    let die := dieOf (line * 64)
    (x.1, deviceOf die x.1 x.2, globalChannel die x.1 x.2)

/-- A late or failed write leaves its chunk undefined: free bytes (R98). -/
def State.undefChunk (s : State) (line : Nat) : State :=
  (List.range 4).foldl (fun s i =>
    let l := line / 4 * 4 + i
    let s := s.writeLine l ((List.range 64).map fun j => Config.freeByte (s.free + j))
    { s with free := s.free + 64 }) s

/-- A tier access leaves the late list. -/
def State.endLate (s : State) (id : Nat) : State :=
  { s with tier := { s.tier with late := SMap.del s.tier.late id } }

/-- A late access has ended with an error (R97, R98): `ue` for an uncorrectable error, else the deadline. An error of the read that
an atomic makes poisons the line like any other's; a zero-fill of an extent is issued again (R106). -/
def State.lateError (s : State) (a : TierAcc) (ue : Bool) : State :=
  let writes := (a.who.lineOp.map LineOp.writes).getD false
  let s := match s.lineDevice a.line with
    | some (t, p, ch) =>
      let i : EvInfo := { object := p, where_ := a.line * 64, cause := tierCode t, extra := ch }
      if ue then (s.event .tierUe i).score p .ue else (s.event .tierDeadline i).score p .deadline
    | none => s
  let reads := match a.who.lineOp with | some .read | some (.atomic ..) => true | _ => false
  match a.who with
  | .scrub => s.serve a.line .scrub
  | _ =>
    let s := if ue && reads then s.setLinePoison a.line true else if writes then s.undefChunk a.line else s
    s.answer a.line a.who { st := if ue then .tierErr else .timeout }

/-- TIER_ACCESS_COMPLETE (R97, R234): its channel's retraining is over. -/
def execTierAccessComplete (id : Nat) (r : MediumOutcome) (s : State) : Host.Outcome State Fault Refusal :=
  done s (match SMap.find s.tier.late id with
    | none => s
    | some a =>
      let t := s.endLate id
      let t : State := match s.lineDevice a.line with
        | some (k, _, ch) => { t with tier := { t.tier with slow := t.tier.slow.filter (· ≠ (tierCode k, ch)) } }
        | none => t
      match r with
      | .ok | .ce =>
        let t := match r, t.lineDevice a.line with
          | .ce, some (_, p, _) => t.score p .ce
          | _, _ => t
        match a.who.lineOp with
        | some op =>
          let (t, x) := t.perform a.line op
          (t.answer a.line a.who x).pump.go
        | none => (t.answer a.line a.who {}).pump.go
      | .ue | .failed => (t.lateError a true).pump.go)

/-- The deadline of a tier in ticks (`TIER_TMO`). -/
def State.tierTicks (s : State) (t : Tier) : Nat :=
  us (max 1 (s.fld Reg.TIER_TMO (match t with | .hbm => Reg.TIER_TMO_HBM | .lpddr => Reg.TIER_TMO_LPDDR)))

/-- TIER_DEADLINE (R98). -/
def execTierDeadline (id : Nat) (s : State) : Host.Outcome State Fault Refusal :=
  done s (match SMap.find s.tier.late id with
    | none => s
    | some a =>
      let lim := match s.lineDevice a.line with
        | some (t, _, _) => s.tierTicks t
        | none => 0
      if a.at_ + lim ≤ s.tick then ((s.endLate id).lateError a false).pump.go else s)

/-- The part that a channel belongs to: 32 channels to a stack, 4 to a package. -/
def channelPart (t : Tier) (ch : Nat) : PartId :=
  match t with | .hbm => obj 1 (ch / 32) | .lpddr => obj 2 (ch / 4)

/-- CHANNEL_RETRAIN (R542): accesses to the channel wait from here on; the channels of one device retrain one at a time.
A retrain that errors start is scored. -/
def execChannelRetrain (tier : Tier) (ch : Fin 256) (byErrors : Bool) (s : State) : Host.Outcome State Fault Refusal :=
  let p := channelPart tier ch.val
  let k := tierCode tier
  let other := fun (x : Nat × Nat) => !(decide (x.1 = k) && channelPart tier x.2 = p)
  let t : State := { s with tier := { s.tier with slow := s.tier.slow.filter other ++ [(k, ch.val)] } }
  done s (if s.power = 1 ∨ s.power = 3 ∨ s.power = 5 then (if byErrors then (t.score p .phyRetrain).go else t) else s)

/-! ## Retirement (R100, R101, R521) -/

/-- RETIREMENT_RESUME (R101): a paused retirement goes on once a frame is free. -/
def execRetirementResume (part : PartId) (s : State) : Host.Outcome State Fault Refusal :=
  let i := part.idx.toNat
  let room := if part.kind = 1 then decide (0 < s.freeCount (i / 4) .lpddr)
    else decide (0 < s.freeCount (i / 16) .lpddr) || decide (0 < s.freeCount (i / 16) .hbm)
  done s (if s.tier.paused.contains part ∧ room then
    ({ s with tier := { s.tier with paused := s.tier.paused.filter (· ≠ part) } } : State).go else s)

/-- The capacity of a part in MiB: 64 GiB stacks and 128 GiB packages. -/
def partMib (p : PartId) : Nat := if p.kind = 1 then 65536 else if p.kind = 2 then 131072 else 0

/-- Nothing keeps a part's retirement from ending (R100 step 4, R237, R520). -/
def State.retireReady (s : State) (p : PartId) : Bool :=
  if p.kind = 1 ∨ p.kind = 2 then
    !(s.tier.pht.any fun e => deviceOf (dieOf (e.1 * 4096)) e.2.tier (e.2.frame * 4096) = p) &&
    !(s.tier.slots.any fun e => deviceOf (dieOf (e.2.page * 4096)) e.2.tier (e.2.frame * 4096) = p)
  else if p.kind = 3 then decide (s.own p.idx.toNat Reg.CADDY_OWN_STATE = 3)
  else
    match engOf p with
    | some e => !(s.tasks.any fun t => s.onEngine e t.1 t.2 && t.2.fin.isNone)
    | none => true

/-- RETIREMENT_DONE (R498, R521, R522, R560): it releases a contained engine; a port fails as a flapping one does (R520). -/
def execRetirementDone (part : PartId) (s : State) : Host.Outcome State Fault Refusal :=
  let h := s.health part
  done s (if h.st ≠ 2 ∨ ¬ s.retireReady part then s
    else
      let mib := partMib part
      let t := (s.setHealth part { h with st := 3 }).eventAdvise .healthRetired { object := part, cause := mib } mib
      let t : State := { t with tier := { t.tier with retiredParts := t.tier.retiredParts.filter (· ≠ part) },
                                ras := { t.ras with contained := t.ras.contained.filter (· ≠ part) } }
      let t := if part.kind = 9 then
          (t.portGoes part.idx.toNat 6 5).event .portFailed { object := part, cause := 5 }
        else if part.kind = 3 then t else t.capChange
      t.go)

/-! ## WINDOW, map commits, meters (R78, R79, R108, R113) -/

/-- Every frame by which the table area would grow is free on both dies (R79). -/
def State.windowFits (s t : State) : Bool :=
  (List.range (s.frameLimit .lpddr - t.frameLimit .lpddr)).all fun i =>
    !s.frameRetired 0 .lpddr (t.frameLimit .lpddr + i) && !s.frameRetired 1 .lpddr (t.frameLimit .lpddr + i)

/-- A write to `TIER_PHT_CFG` (R78, R79). -/
def State.writeWindow (s : State) (via : Via) (v : Word) : State :=
  let r := Reg.TIER_PHT_CFG
  if !s.secureVia via then s
  else
    let t := s.writePlain true r [] v.toNat
    if !s.tier.pht.isEmpty || !s.windowFits t then s.ignored (obj 0x20 0) r.off v.toNat else t

/-- WINDOW_WRITE (R79). -/
def execWindowWrite (via : Via) (v : Word) (s : State) : Host.Outcome State Fault Refusal :=
  done s (if s.mayWrite via Reg.TIER_PHT_CFG.off then s.writeWindow via v else s)

/-- A write to `TIER_MAP_EPOCH` (R36, R108). -/
def State.writeEpoch (s : State) (via : Via) (v : Word) : State :=
  let r := Reg.TIER_MAP_EPOCH
  let next := newFld Reg.TIER_MAP_EPOCH_NEXT v
  if !s.secureVia via then s
  else if next ≠ (s.epoch + 1) % 2 ^ 32 then s.ignored (obj 0x20 0) r.off next
  else
    let cur := s.staged
    let s := { s with tier := { s.tier with prev := s.tier.cur, cur := cur } }
    let s := (s.setFld r Reg.TIER_MAP_EPOCH_NEXT next).setFld r Reg.TIER_MAP_EPOCH_CUR next
    cur.foldl (fun s e => if e.2.valid ∧ e.2.broken ≠ 0 then
      s.event .isetInvalid { object := obj 0x16 e.1, cause := e.2.broken } else s) s

/-- MAP_EPOCH_COMMIT (R108). -/
def execMapEpochCommit (via : Via) (v : Word) (s : State) : Host.Outcome State Fault Refusal :=
  done s (if s.mayWrite via Reg.TIER_MAP_EPOCH.off then s.writeEpoch via v else s)

/-- Pages of a composition in a tier (R113). -/
def State.compPages (s : State) (c : Nat) (t : Tier) : Nat :=
  (s.tier.pht.filter fun e => decide (e.2.tier = t) && s.compOf (e.1 * 4096) = some c).length

/-- A write to `TIER_CMTR_SEL`: the four meters at one instant. -/
def State.writeCmtrSel (s : State) (via : Via) (v : Word) : State :=
  let c := newFld Reg.TIER_CMTR_SEL_COMP v
  let m := SMap.get s.tier.meters c {}
  let s := s.writePlain (s.secureVia via) Reg.TIER_CMTR_SEL [] v.toNat
  let pages := Reg.TIER_CMTR_PAGES_HBM.put (Reg.TIER_CMTR_PAGES_LPDDR.put 0 (s.compPages c .lpddr)) (s.compPages c .hbm)
  (((s.setReg Reg.TIER_CMTR_PAGES pages).setReg Reg.TIER_CMTR_PTICK m.ptick).setReg Reg.TIER_CMTR_RD m.rd).setReg
    Reg.TIER_CMTR_WR m.wr

/-- CMTR_SNAPSHOT (R113). -/
def execCmtrSnapshot (via : Via) (v : Word) (s : State) : Host.Outcome State Fault Refusal :=
  done s (if s.mayWrite via Reg.TIER_CMTR_SEL.off then s.writeCmtrSel via v else s)

/-- Each page adds one page-interval to the composition that holds it, modulo 2^64 (R113). -/
def State.addPticks (s : State) : State :=
  s.tier.pht.foldl (fun s e =>
    match s.compOf (e.1 * 4096) with
    | none => s
    | some c =>
      let m := SMap.get s.tier.meters c {}
      let m' := { m with ptick := (m.ptick + 1) % 2 ^ 64 }
      { s with tier := { s.tier with meters := SMap.set s.tier.meters c m' {} } }) s

/-- PTICK_PERIOD (R113): 2^20 of MODULE_TICK after the last. -/
def execPtickPeriod (s : State) : Host.Outcome State Fault Refusal :=
  done s (if s.tier.ptickAt + 2 ^ 20 ≤ s.tick then
    ({ s with tier := { s.tier with ptickAt := s.tier.ptickAt + 2 ^ 20 } } : State).addPticks else s)

/-! ## Dynamic Capacity (R102 to R106, R568) -/

/-- A Dynamic Capacity event in the log of every head behind which an offered host sits, and its interrupt: kind 0 Add,
1 Release, 2 forced Release, the event's number 4 × extent + kind. Byte 4 of the policy names mode and vector. -/
def State.dcEvent (s : State) (hosts kind ext : Nat) : State :=
  ((List.range 4).filter fun h => (setBits 64 hosts).any fun n => s.hostHead n = h).foldl (fun s h =>
    let x := s.head h
    let s := s.setHead h { x with events := x.events ++ [4 * ext + kind] }
    let p := bits x.policy.toNat 39 32
    if p % 4 = 1 then s.msix h (p / 16) else s) s

/-- The FM API is served: over I3C, from READY on (R466, R496, R504). -/
def State.fmServed (s : State) : Bool := !s.ras.romOnly && (s.power = 1 || s.power = 3 || s.power = 5)

/-- A reply of the FM API: 0 Success, 2 Invalid Input. -/
def State.fmReply (s : State) (op code : Nat) (d : List Byte) : State := s.reply .i3c (0x50000 + op) code d

/-- Two ranges share a byte; an empty range shares none. -/
def meets (a n b m : Nat) : Bool := decide (0 < n) && decide (0 < m) && decide (a < b + m) && decide (b < a + n)

/-- A range is one of whole units of 2 MiB. -/
def wholeUnits (a n : Nat) : Bool := decide (a % 2 ^ 21 = 0) && decide (n % 2 ^ 21 = 0)

/-- SET_DC_REGION_CONFIGURATION (R568). -/
def execSetDcRegionConfiguration (region : Fin 8) (base len : Nat) (s : State) : Host.Outcome State Fault Refusal :=
  let old := SMap.get s.tier.regions region.val (0, 0)
  let ok := wholeUnits base len && decide (base + len ≤ s.window) &&
    !(s.tier.regions.any fun e => decide (e.1 ≠ region.val) && meets base len e.2.1 e.2.2) &&
    !(s.tier.extents.any fun e => meets old.1 old.2 e.2.base e.2.len)
  done s (if !s.fmServed then s
    else if ok then
      ({ s with tier := { s.tier with regions := SMap.set s.tier.regions region.val (base, len) (0, 0) } } : State).fmReply
        0x02 0 []
    else s.fmReply 0x02 2 [])

/-- An Add of an extent is accepted (R568); one of no byte is refused (log 91). -/
def State.addOk (s : State) (base len hosts : Nat) : Bool :=
  wholeUnits base len && decide (0 < len) && decide (hosts ≠ 0) &&
  (s.tier.regions.any fun e => decide (e.2.1 ≤ base) && decide (base + len ≤ e.2.1 + e.2.2)) &&
  !(s.tier.extents.any fun e => meets base len e.2.base e.2.len) && decide (s.tier.extents.length < 8192)

/-- ADD_DYNAMIC_CAPACITY (R568): the extent is offered. -/
def execAddDynamicCapacity (base len tag : Nat) (hosts : Word) (s : State) : Host.Outcome State Fault Refusal :=
  done s (if !s.fmServed then s
    else if s.addOk base len hosts.toNat then
      let n := s.tier.nextExt
      let x : Extent := { base := base, len := len, tag := tag, offered := hosts.toNat }
      let t : State := { s with tier := { s.tier with extents := SMap.put s.tier.extents n x, nextExt := n + 1 } }
      (t.dcEvent hosts.toNat 0 n).fmReply 0x04 0 (natLE 8 n)
    else s.fmReply 0x04 2 [])

/-- The state with an extent replaced. -/
def State.setExtent (s : State) (n : Nat) (x : Extent) : State :=
  { s with tier := { s.tier with extents := SMap.put s.tier.extents n x } }

/-- A line lies in an extent. -/
def Extent.hasLine (x : Extent) (line : Nat) : Bool := decide (x.base ≤ line * 64) && decide (line * 64 < x.base + x.len)

/-- Lines of an extent are recalled from the hosts of a test, where no recall waits yet (R104, R105). -/
def State.recallExtent (s : State) (x : Extent) (p : Nat → Bool) : State :=
  (s.dir.filter fun e => x.hasLine e.1).foldl (fun s e =>
    (e.2.holders.filter p).foldl (fun s g =>
      s.submitOnce { line := e.1, who := .recall g }) s) s

/-- An extent enters DRAINING (R103, R105): requests that still wait for it are refused (R102). -/
def State.drainExtent (s : State) (n : Nat) (x : Extent) : State :=
  ((s.setExtent n { x with st := .draining, listed := 0 }).pump.recallExtent x fun _ => true).go

/-- A host sits behind a head that is served. -/
def State.hostAt (s : State) (h : Fin 4) (n : Nat) : Bool :=
  s.headUp h.val && !s.ras.romOnly && s.flag (Reg.HOME_HOST n) Reg.HOME_HOST_VALID && decide (s.hostHead n = h.val)

/-- ADD_DYNAMIC_CAPACITY_RESPONSE (R103). -/
def execAddDynamicCapacityResponse (h : Fin 4) (host : Fin 64) (ext : Nat) (accept : Bool) (s : State) :
    Host.Outcome State Fault Refusal :=
  let n := host.val
  done s (if !s.hostAt h n then s
    else
      match SMap.find s.tier.extents ext with
      | none => s.reply (.doe h) 0x4802 2 []
      | some x =>
        if !bit x.offered n || bit x.answered n || (x.st ≠ .offered && x.st ≠ .accepted) then s.reply (.doe h) 0x4802 2 []
        else
          let x := { x with answered := putBit x.answered n true }
          let s := s.reply (.doe h) 0x4802 0 []
          if accept then s.setExtent ext { x with listed := putBit x.listed n true, st := .accepted }
          else if x.listed = 0 ∧ x.answered = x.offered then s.drainExtent ext x
          else s.setExtent ext x)

/-- RELEASE_DYNAMIC_CAPACITY (R104, R105). -/
def execReleaseDynamicCapacity (h : Fin 4) (host : Fin 64) (ext : Nat) (s : State) : Host.Outcome State Fault Refusal :=
  let n := host.val
  done s (if !s.hostAt h n then s
    else
      match SMap.find s.tier.extents ext with
      | none => s.reply (.doe h) 0x4803 2 []
      | some x =>
        if x.st ≠ .accepted || !bit x.listed n then s.reply (.doe h) 0x4803 2 []
        else
          let l := putBit x.listed n false
          let s := s.reply (.doe h) 0x4803 0 []
          if l = 0 then s.drainExtent ext x
          else ((s.setExtent ext { x with listed := l }).pump.recallExtent x fun g => decide (g = n)).go)

/-- FORCED_RELEASE (R105). -/
def execForcedRelease (ext : Nat) (s : State) : Host.Outcome State Fault Refusal :=
  done s (if !s.fmServed then s
    else
      match SMap.find s.tier.extents ext with
      | none => s.fmReply 0x05 2 []
      | some x =>
        if x.st ≠ .offered ∧ x.st ≠ .accepted then s.fmReply 0x05 2 []
        else ((s.dcEvent x.offered 2 ext).fmReply 0x05 0 []).drainExtent ext x)

/-- Nothing keeps an extent's DRAINING from ending: no accepted request of it is outstanding, combined atomics among them, and
no host holds a line of it (R105, R189). -/
def State.extentDrained (s : State) (x : Extent) : Bool :=
  !(s.tier.late.any fun e => x.hasLine e.2.line) && !(s.tier.serving.any fun e => x.hasLine (e.2 * 4)) &&
  !(s.waitq.any fun r => x.hasLine r.line) && !(s.combine.any fun e => x.hasLine e.2.line) &&
  !(s.dir.any fun e => x.hasLine e.1)

/-- The combined atomics of an extent are performed (R189). -/
def State.combineExtent (s : State) (x : Extent) : State :=
  (s.combine.filter fun e => x.hasLine e.2.line).foldl (fun s e => s.submitOnce { line := e.2.line, who := .comb }) s

/-- EXTENT_DRAIN_DONE (R105). -/
def execExtentDrainDone (ext : Nat) (s : State) : Host.Outcome State Fault Refusal :=
  done s (match SMap.find s.tier.extents ext with
    | some x =>
      if x.st ≠ .draining then s
      else
        let s := (s.recallExtent x fun _ => true).combineExtent x
        if s.extentDrained x then s.setExtent ext { x with st := .scrubbing } else s.go
    | none => s)

/-- A zero-fill of a line of an extent is outstanding (R106). -/
def State.scrubLate (s : State) (x : Extent) : Bool :=
  s.tier.late.any fun e => decide (e.2.who = .scrub) && x.hasLine e.2.line

/-- Every line of the pages zero-filled; on a channel that retrains the write is late (R98, R106). -/
def State.scrubPages (s : State) (pages : List Nat) : State :=
  pages.foldl (fun s n => (List.range 64).foldl (fun s i => s.serve (n * 64 + i) .scrub) s) s

/-- EXTENT_SCRUB_DONE (R106): every backed page, once none of them is MOVING, is zero-filled; when every chunk holds zeros the
extent goes and the release is reported. -/
def execExtentScrubDone (ext : Nat) (s : State) : Host.Outcome State Fault Refusal :=
  done s (match SMap.find s.tier.extents ext with
    | some x =>
      let pages := (s.tier.pht.filter fun e => x.hasLine (e.1 * 64)).map (·.1)
      if x.st ≠ .scrubbing || (pages.any fun n => (s.page n).any fun e => e.st = .moving) || s.scrubLate x then s
      else
        let s := s.scrubPages pages
        if s.scrubLate x then s
        else ({ s with tier := { s.tier with extents := SMap.del s.tier.extents ext } } : State).fmReply 0x05 0 (natLE 8 ext)
    | none => s)

/-! ## The partition (R22 to R24, R32) -/

/-- The staged `GLB_PART_MEMBERS`; the register of that name is the one in force (R23). -/
def Reg.PART_STAGED : RegId := ⟨0x100 + 2 ^ 41, 0⟩

/-- A write to `GLB_PART_MEMBERS`: staged. -/
def State.writeMembers (s : State) (via : Via) (v : Word) : State :=
  if s.secureVia via then s.setReg Reg.PART_STAGED v.toNat else s

/-- A write to `GLB_PART_CTL` (R23, R32): all fields change in one step. -/
def State.writePartCtl (s : State) (via : Via) (v : Word) : State :=
  if !s.secureVia via then s
  else
    let was := s.flag Reg.GLB_PART_CTL Reg.GLB_PART_CTL_HALL
    let s := s.writePlain true Reg.GLB_PART_CTL [] v.toNat
    let s := s.setReg Reg.GLB_PART_MEMBERS (s.reg Reg.PART_STAGED)
    if was ∧ newFld Reg.GLB_PART_CTL_HALL v = 0 then s.closeHall fun _ => true else s

/-- PARTITION_COMMIT (R23). -/
def execPartitionCommit (via : Via) (v : Word) (s : State) : Host.Outcome State Fault Refusal :=
  done s (if s.mayWrite via Reg.GLB_PART_CTL.off then s.writePartCtl via v else s)

/-! ## Drain counts (R404) -/

/-- A write to `EMB_DRAIN_SEL`. -/
def State.writeDrainSel (s : State) (via : Via) (v : Word) : State :=
  let t := newFld Reg.EMB_DRAIN_SEL_TABLE v
  let s := s.writePlain (s.secureVia via) Reg.EMB_DRAIN_SEL [] v.toNat
  (s.setFld Reg.EMB_DRAIN Reg.EMB_DRAIN_VER0 (s.drainOf t false)).setFld Reg.EMB_DRAIN Reg.EMB_DRAIN_VER1 (s.drainOf t true)

/-- EMB_DRAIN_SNAPSHOT (R404). -/
def execEmbDrainSnapshot (via : Via) (v : Word) (s : State) : Host.Outcome State Fault Refusal :=
  done s (if s.mayWrite via Reg.EMB_DRAIN_SEL.off then s.writeDrainSel via v else s)

/-! ## Unit disable (R560 to R563) -/

/-- The disable bits of a kind: each changed bit acts on its own (R562). -/
def State.disableUnits (s : State) (f : Fld) (k : EngKind) (v : Nat) : State :=
  (engines k).foldl (fun s e =>
    let old := s.fld Reg.GLB_UNIT_DIS f
    if e.idx.val ≥ f.hi + 1 - f.lo ∨ bit old e.idx.val = bit v e.idx.val then s
    else if s.engineIdle e then
      let s := s.setFld Reg.GLB_UNIT_DIS f (putBit old e.idx.val (bit v e.idx.val))
      if engHasSteep e then s.setSteep e [] else s
    else s.ignored e.part Reg.GLB_UNIT_DIS.off (f.put 0 v)) s

/-- The engines that capability registers report. -/
def State.reported (s : State) : List Eng := s.presentOf .kettle ++ s.presentOf .gecko ++ s.presentOf .emb

/-- A write to `GLB_UNIT_DIS` (R562, R563). -/
def State.writeUnitDis (s : State) (via : Via) (v : Word) : State :=
  if !s.secureVia via || s.flag Reg.GLB_LOCK Reg.GLB_LOCK_UNITS then s
  else
    let t := s.disableUnits Reg.GLB_UNIT_DIS_KTL .kettle (newFld Reg.GLB_UNIT_DIS_KTL v)
    let t := t.disableUnits Reg.GLB_UNIT_DIS_GKO .gecko (newFld Reg.GLB_UNIT_DIS_GKO v)
    let t := t.disableUnits Reg.GLB_UNIT_DIS_EMB .emb (newFld Reg.GLB_UNIT_DIS_EMB v)
    (if t.reported = s.reported then t else t.capChange).go

/-- UNIT_DISABLE (R562). -/
def execUnitDisable (via : Via) (v : Word) (s : State) : Host.Outcome State Fault Refusal :=
  done s (if s.mayWrite via Reg.GLB_UNIT_DIS.off then s.writeUnitDis via v else s)

/-- A write to `GLB_LOCK`: UNITS once 1 stays 1 (R563). -/
def State.writeLock (s : State) (via : Via) (v : Word) : State :=
  if s.secureVia via ∧ newFld Reg.GLB_LOCK_UNITS v = 1 then s.setFld Reg.GLB_LOCK Reg.GLB_LOCK_UNITS 1 else s

/-- UNITS_LOCK (R563). -/
def execUnitsLock (via : Via) (v : Word) (s : State) : Host.Outcome State Fault Refusal :=
  done s (if s.mayWrite via Reg.GLB_LOCK.off then s.writeLock via v else s)

end Sys2Proof.Machine
end

