-- ==== Sys2Proof/Machine/Power.lean ====
section
/-! DEFINITION. Power, resets, pins and temperature (19): power-up, module reset, OFFLINE, loss of power, references, the
power and thermal demands (R31, R485, R490, R522, R527, R537 to R555). -/

namespace Sys2Proof.Machine

/-! ## What a reset leaves (R537, R539, R540) -/

/-- Parts by the bit of the retirement mask (R527). -/
def maskPart (i : Nat) : PartId :=
  if i < 8 then obj 1 i else if i < 40 then obj 2 (i - 8) else if i < 72 then obj 4 (i - 40)
  else if i < 104 then obj 5 (i - 72) else if i < 106 then obj 6 (i - 104) else if i < 108 then obj 7 (i - 106)
  else obj 8 (i - 108)

/-- The parts of a retirement mask as RETIRED; their scores begin at 0 (R522). -/
def maskHealth (mask : Nat) : SMap Health :=
  (setBits 116 mask).foldl (fun m i => SMap.put m (maskPart i).code { st := 3 }) []

/-- Banks that do not have their reset role: RETIRED ones, and general banks in a fixed role (R237). -/
def State.bankChanged (s : State) (b : Nat) : Bool :=
  decide (s.own b Reg.CADDY_OWN_STATE = 3) ||
  (decide (b % 1024 < 952) && ([4, 5, 6] : List Nat).contains (s.own b Reg.CADDY_OWN_KIND))

/-- A column of a bank has been repaired under R236. -/
def State.bankRepaired (s : State) (b : Nat) : Bool := s.pad.repaired.any fun x => decide (x.1 = b)

/-- The retired banks that return to service at a wake: where a column was repaired, whether the bank's failure lies in it is
free (R238; log 100). -/
def State.returning (s : State) : List Nat × State :=
  ((List.range 2048).filter fun b => decide (s.own b Reg.CADDY_OWN_STATE = 3) && s.bankRepaired b).foldl (fun (l, s) b =>
    let (k, s) := s.choose 2
    (if k = 0 then l else l ++ [b], s)) ([], s)

/-- The banks that keep their state over a reset: all that changed but those that return to service and their replacements
(R238, R537). -/
def State.keptBanks (s : State) (back : List Nat) : List Nat :=
  let repl := back.filterMap fun b => SMap.find s.pad.replaced b
  ((List.range 2048).filter s.bankChanged).filter fun b => !back.contains b && !repl.contains b

/-- A bank keeps its owner, state and world of another state; its poison and errors are gone (R238, R240). -/
def State.keepBank (s old : State) (b : Nat) : State :=
  [Reg.CADDY_OWN_KIND, Reg.CADDY_OWN_IDX, Reg.CADDY_OWN_STATE, Reg.CADDY_OWN_WORLD].foldl
    (fun s f => s.setFld (Reg.CADDY_OWN b) f (old.own b f)) s

/-- The module as a reset of the module domain leaves it before power-up's later steps: fuses, flash and the model's own
fields stay (R537). -/
def State.bare (s : State) (banks : List Nat) : State :=
  { State.reset with
    pending := s.pending, tick := s.tick, free := s.free, fixed := s.fixed, flash := s.flash
    regs := (banks.foldl (fun t b => t.keepBank s b) State.reset).regs
    pad := { repaired := s.pad.repaired, fuses0 := s.pad.fuses0, fuses1 := s.pad.fuses1,
             replaced := s.pad.replaced.keep fun k _ => banks.contains k }
    sec := { image := s.sec.image, svnMin := s.sec.svnMin } }

/-- Cartridges in place begin to ramp; `keep` holds what the others show (log 62). -/
def State.rampLasers (s : State) (keep : Nat → Nat) : State :=
  (List.range 8).foldl (fun s c => s.setFld (Reg.ZL_LSR c) Reg.ZL_LSR_STATE
    (if keep c = 0 ∨ keep c = 4 then keep c else 1)) s

/-- What a module reset keeps beside that: operating seconds, the recorder, the retirement mask, the debounced pins, and
`PWR_CNT`, which only power-up clears (R537, R522; the waiting records are the recorder's, log 61). -/
def State.bareReset (s : State) : State :=
  let t := s.bare (s.keptBanks [])
  let banks := (s.ras.health.filter fun e => bits e.1 31 24 = 3 && e.2.st = 3).map (·.1)
  let ras := { t.ras with
    health := banks.foldl (fun m k => SMap.put m k { st := 3 }) (maskHealth s.retiredMask)
    healthAt := s.ras.healthAt, open_ := s.ras.open_, toFlash := s.ras.toFlash, nextSeq := s.ras.nextSeq
    dropped := s.ras.dropped, counterAt := s.ras.counterAt, secBase := s.ras.secBase }
  let t := { t with ras := ras, pwr := { hpArmed := s.pwr.hpArmed } }
  let t := t.rampLasers fun c => s.fld (Reg.ZL_LSR c) Reg.ZL_LSR_STATE
  let p := fun (t : State) (f : Fld) => t.setFld Reg.PWR_STAT f (s.fld Reg.PWR_STAT f)
  let t := p (p (p (p t Reg.PWR_STAT_HP_REQ) Reg.PWR_STAT_FENCE) Reg.PWR_STAT_PERST) Reg.PWR_STAT_WAKE
  ((t.setReg Reg.PWR_CNT (s.reg Reg.PWR_CNT)).setReg Reg.EVR_COUNT (s.reg Reg.EVR_COUNT))

/-- The steward records an event of the module itself. -/
def State.selfEvent (s : State) (e : Ev) (cause extra : Nat) : State :=
  s.event e { object := obj 0x20 0, cause := cause, extra := extra }

/-- Step 2: the boot ROM verifies the image, or enters the recovery loader; a module key is drawn (R488, R495, R496). -/
def State.bootRom (s : State) : State :=
  let c := s.imageCause s.sec.image
  let (k, s) := s.fresh
  let img := s.sec.image
  let sec := { s.sec with
    svn := if c = 0 then img.svn.toNat else 0, version := if c = 0 then img.version.toNat else 0, recovery := c
    staged := none, moduleKey := Config.freeKey k, udsLatched := true }
  let s := { s with sec := sec }
  if c = 0 then s.selfEvent .fwBoot sec.svn sec.version else s.selfEvent .recoveryLoader c 0

/-- Ports as power-up leaves them: DOWN with cause 7 until the identity is set, the service port in training; every
cartridge that ramped is ACTIVE (R14, R540; log 62). -/
def State.startPorts (s : State) : State :=
  let s := (List.range 8).foldl (fun s c =>
    if s.fld (Reg.ZL_LSR c) Reg.ZL_LSR_STATE = 1 then s.setFld (Reg.ZL_LSR c) Reg.ZL_LSR_STATE 2 else s) s
  ((List.range 49).foldl (fun s n => s.setPortCause n 7) s).startTraining 49

/-- Banks in state RETIRED on a die. -/
def State.retiredBanks (s : State) (die : Nat) : Nat :=
  ((List.range 1024).filter fun j => s.own (die * 1024 + j) Reg.CADDY_OWN_STATE = 3).length

/-- Steps 4 to 9: Caddy clears every bank (READY follows with CADDY_CLEAR_DONE, log 36), the tiers are trained and empty, records are written, STATE tells the
outcome (R240, R540, R544). -/
def State.comeUp (s : State) (wake : Nat) : State :=
  let s := (s.setFld Reg.CADDY_STATUS Reg.CADDY_STATUS_RETIRED0 (s.retiredBanks 0)).setFld Reg.CADDY_STATUS
    Reg.CADDY_STATUS_RETIRED1 (s.retiredBanks 1)
  let s := s.startPorts
  let s := (s.setFld Reg.PWR_STAT Reg.PWR_STAT_WAKE wake).selfEvent .powerUp wake 0
  s.setFld Reg.PWR_STAT Reg.PWR_STAT_STATE (if s.sec.recovery = 0 then 1 else 2)

/-- Why the last power-down happened (R544). -/
def wakeCause (c : Option CounterEnt) : Nat :=
  match c with
  | none => 0
  | some e => if e.off = 1 then 1 else if e.off = 3 then 3 else 2

/-- The next SEQ at power-up: above every programmed record (R528). -/
def nextSeqOf (m : SMap Rec) : Nat := m.foldl (fun n e => max n (e.1 + 1)) 0

/-- POWER_UP (R540): the slot holds the image that the surroundings name. -/
def State.powerUp (s : State) (img : Image) : State :=
  let (back, s) := s.returning
  let t := s.bare (s.keptBanks back)
  let c := s.flash.counter
  let base := (c.map CounterEnt.opSec).getD 0
  let ras := { t.ras with
    health := maskHealth ((c.map CounterEnt.mask).getD 0), nextSeq := nextSeqOf s.flash.records
    dropped := (c.map CounterEnt.dropped).getD 0, secBase := base, counterAt := base, healthAt := base }
  let t := { t with ras := ras, sec := { t.sec with image := img }, tick := 0 }
  let t := t.rampLasers fun _ => 1
  let t := t.setFld Reg.EVR_COUNT Reg.EVR_COUNT_PCYCLE ((c.map CounterEnt.pcycle).getD 0 + 1)
  (t.bootRom.comeUp (wakeCause c)).writeCounter 0

/-- POWER_UP (R540): `MODULE_TICK` starts at 0. -/
def execPowerUp (img : Image) (s : State) : Host.Outcome State Fault Refusal :=
  if s.power = 0 then .next { settle s (s.powerUp img) with tick := 0 } else done s s

/-! ## Module reset (R539) -/

/-- A module reset, by a register write (CAUSE 1) or the MCTP command (CAUSE 2). -/
def State.moduleReset (s : State) (cause : Nat) : State :=
  let wake := s.fld Reg.PWR_STAT Reg.PWR_STAT_WAKE
  ((s.bareReset.selfEvent .reset cause 0).bootRom).comeUp wake

/-! ## OFFLINE (R547, R548) -/

/-- The rails go off: what the module domain held is gone; queues show where they stopped, ports are DOWN (R547 steps 2
and 3), the lasers dark. -/
def State.railsOff (s : State) : State :=
  let t := s.bareReset
  let regs : SMap Word := s.regs.filter fun e => blockOfOff e.1 = 2
  let t : State := { t with regs := regs.foldr (fun (e : Nat × Word) m => SMap.put m e.1 e.2) t.regs }
  let t := (List.range 50).foldl (fun t n => t.setPortCause n 6) t
  t.setFld Reg.PWR_STAT Reg.PWR_STAT_STATE 4

/-- Every queue stops with a cause; what it had started ends without a record (R504, R547). -/
def State.stopAll (s : State) (cause : Nat) : State :=
  s.enabledQueues.foldl (fun s q =>
    let st := s.qState q
    let s := s.setFld (Reg.Q_STATE q) Reg.Q_STATE_STATE 3
    if st = 1 then s.setFld (Reg.Q_STATE q) Reg.Q_STATE_STOP_CAUSE cause else s) s

/-- OFFLINE (R547): waiting records are written, then a counter entry marked clean. -/
def State.goOffline (s : State) : State := (((s.stopAll 4).closeAll).writeCounter 1).railsOff

/-- A write to `PWR_CTL` (R548): the key, and the secure world. -/
def State.writePwrCtl (s : State) (via : Via) (v : Word) : State :=
  if !s.secureVia via || newFld Reg.PWR_CTL_KEY v ≠ 0xA5 then s
  else if newFld Reg.PWR_CTL_RESET v = 1 then s.moduleReset 1
  else if newFld Reg.PWR_CTL_OFFLINE v = 1 ∧ s.power ≠ 4 then s.goOffline
  else s

/-- MODULE_RESET (R539): the steward's MCTP command is served whenever the steward runs. -/
def execModuleReset (mctp : Bool) (via : Via) (v : Word) (s : State) : Host.Outcome State Fault Refusal :=
  done s (if mctp then (if s.power = 0 then s else s.moduleReset 2)
    else if s.mayWrite via Reg.PWR_CTL.off ∧ newFld Reg.PWR_CTL_RESET v = 1 then s.writePwrCtl via v else s)

/-- OFFLINE (R547). -/
def execOffline (via : Via) (v : Word) (s : State) : Host.Outcome State Fault Refusal :=
  done s (if s.mayWrite via Reg.PWR_CTL.off ∧ newFld Reg.PWR_CTL_OFFLINE v = 1 ∧ newFld Reg.PWR_CTL_RESET v = 0 then
    s.writePwrCtl via v else s)

/-- INPUT_POWER_LOSS (R549): nothing more is written; fuses and flash stay, and which banks failed. -/
def execInputPowerLoss (s : State) : Host.Outcome State Fault Refusal :=
  done s (s.bare (s.keptBanks []))

/-! ## References (R550, R552) -/

/-- FABRIC_REFERENCE_LOSS (R552). -/
def execFabricReferenceLoss (s : State) : Host.Outcome State Fault Refusal :=
  done s (if s.running ∧ s.pwr.refLostAt = none then
    { (s.setFld Reg.PWR_STAT Reg.PWR_STAT_REF_HOLD 1) with pwr := { s.pwr with refLostAt := some s.tick } } else s)

/-- FABRIC_REFERENCE_RETURN (R552). -/
def execFabricReferenceReturn (s : State) : Host.Outcome State Fault Refusal :=
  done s { (s.setFld Reg.PWR_STAT Reg.PWR_STAT_REF_HOLD 0) with pwr := { s.pwr with refLostAt := none } }

/-- REF_HOLD_TIMEOUT (R552): 100 ms. EXTRA 2 names the reference. -/
def execRefHoldTimeout (s : State) : Host.Outcome State Fault Refusal :=
  done s (match s.pwr.refLostAt with
    | some t => if t + us 100000 ≤ s.tick ∧ ¬ s.ras.moduleContained then s.containModule 2 0 else s
    | none => s)

/-- HEAD_REFERENCE_LOSS (R467, R550). -/
def execHeadReferenceLoss (h : Fin 4) (s : State) : Host.Outcome State Fault Refusal :=
  done s (if s.headStat h.val Reg.HEAD_STAT_IN_RESET = 1 then s
    else (s.headReset h).score (obj 0xB h.val) .linkDown)

/-! ## Pins (R31, R550, R551) -/

/-- FENCE_N_ASSERT (R31, R32). -/
def execFenceNAssert (s : State) : Host.Outcome State Fault Refusal :=
  done s (if s.power = 0 ∨ s.flag Reg.PWR_STAT Reg.PWR_STAT_FENCE then s
    else (s.setFld Reg.PWR_STAT Reg.PWR_STAT_FENCE 1).closeHall fun _ => true)

/-- FENCE_N_RELEASE (R550). -/
def execFenceNRelease (s : State) : Host.Outcome State Fault Refusal :=
  done s (s.setFld Reg.PWR_STAT Reg.PWR_STAT_FENCE 0).go

/-- HP_REQ_N (R550, R551): one request; a new one needs a release first. -/
def execHpReqN (s : State) : Host.Outcome State Fault Refusal :=
  done s (if s.power = 0 ∨ ¬ s.pwr.hpArmed then s
    else
      let t := (s.setFld Reg.PWR_STAT Reg.PWR_STAT_HP_REQ 1).setFld Reg.PWR_STAT Reg.PWR_STAT_HP_SEEN 1
      { t with pwr := { t.pwr with hpArmed := false } })

/-- HP_REQ_N_RELEASE (R550). -/
def execHpReqNRelease (s : State) : Host.Outcome State Fault Refusal :=
  let t := s.setFld Reg.PWR_STAT Reg.PWR_STAT_HP_REQ 0
  done s { t with pwr := { t.pwr with hpArmed := true } }

/-- GLITCH (R551). -/
def execGlitch (_pin : Pin) (s : State) : Host.Outcome State Fault Refusal :=
  done s (if s.power = 0 then s else s.bump Reg.PWR_CNT Reg.PWR_CNT_GLITCH 1)

/-! ## Power and temperature (R543, R553 to R555) -/

/-- The effective limit in W (R553). -/
def State.powerLimit (s : State) (tin : Nat) : Nat :=
  max 600 (min 1800 (max 600 (s.fld Reg.PWR_LIMIT Reg.PWR_LIMIT_LIMIT)) - 60 * (tin - 40))

/-- A demand after one control interval (R554): up when high, down after ten low intervals in a row. -/
def demand (d run : Nat) (high low : Bool) : Nat × Nat :=
  let run := if low then min (run + 1) 10 else 0
  if high then (min (d + 1) 8, run) else if run = 10 then (d - 1, run) else (d, run)

/-- KTL_LVL and the two throttle flags follow the demands. -/
def State.showDemands (s : State) (hbm : Bool) : State :=
  let r := Reg.PWR_STAT
  ((s.setFld r Reg.PWR_STAT_KTL_LVL (max s.pwr.lp s.pwr.lt)).setFld r Reg.PWR_STAT_THR_T
    (decide (0 < s.pwr.lt) || hbm).toNat).setFld r Reg.PWR_STAT_THR_P (decide (0 < s.pwr.lp)).toNat

/-- One control interval (R554): input power, die and stack temperature, inlet temperature. -/
def State.controlTick (s : State) (pin tdie thbm tin : Nat) : State :=
  let r := Reg.PWR_STAT
  let lim := s.powerLimit tin
  let tthr := min 100 (s.fld Reg.PWR_LIMIT Reg.PWR_LIMIT_TTHR)
  let hthr := min 95 (s.fld Reg.PWR_LIMIT Reg.PWR_LIMIT_HTHR)
  let (lp, lowP) := demand s.pwr.lp s.pwr.lowP (decide (lim < pin)) (decide (100 * pin < 95 * lim))
  let (lt, lowT) := demand s.pwr.lt s.pwr.lowT (decide (tthr ≤ tdie)) (decide (tdie + 5 < tthr))
  let hot := s.pwr.hot || decide (0 < max lp lt)
  let turn := decide (s.pwr.beats = 9)
  let pwr := { s.pwr with
    lp := lp, lowP := lowP, lt := lt, lowT := lowT
    throttle := (decide (max lp lt = 8) && decide (lim < pin)) || decide (hthr ≤ thbm)
    beats := (s.pwr.beats + 1) % 10, hot := !turn && hot }
  let s := { s with pwr := pwr }
  let s := ((s.setFld r Reg.PWR_STAT_TDIE tdie).setFld r Reg.PWR_STAT_THBM thbm).setFld r Reg.PWR_STAT_TIN tin
  let s := (s.setFld r Reg.PWR_STAT_PIN pin).showDemands (decide (hthr ≤ thbm))
  if turn && hot then s.bump Reg.PWR_CNT Reg.PWR_CNT_THR_MS 1 else s

/-- POWER_CONTROL_TICK (R554): once in each interval of 100 µs of MODULE_TICK (R159). -/
def execPowerControlTick (pin tdie thbm tin : Nat) (s : State) : Host.Outcome State Fault Refusal :=
  done s (if s.running && decide (s.pwr.ctlAt + us 100 ≤ s.tick) then
    ({ s with pwr := { s.pwr with ctlAt := alignDown s.tick (us 100) } } : State).controlTick pin tdie thbm tin else s)

/-- DROOP (R543). -/
def execDroop (s : State) : Host.Outcome State Fault Refusal :=
  done s (if s.running then
    { (s.bump Reg.PWR_CNT Reg.PWR_CNT_DROOP 1) with pwr := { s.pwr with droops := s.pwr.droops + 1 } } else s)

/-- A 1 ms window ends: more than 1 000 droops in it raise the thermal demand (R543). -/
def State.droopWindow (s : State) : State :=
  let many := decide (1000 < s.pwr.droops)
  let t := { s with pwr := { s.pwr with droops := 0, droopAt := alignDown s.tick (us 1000),
                                        lt := if many then min (s.pwr.lt + 1) 8 else s.pwr.lt } }
  if many then t.showDemands (decide (min 95 (s.fld Reg.PWR_LIMIT Reg.PWR_LIMIT_HTHR) ≤ s.fld Reg.PWR_STAT Reg.PWR_STAT_THBM))
  else t

/-- DROOP_WINDOW (R543): once in each millisecond of MODULE_TICK (R159). -/
def execDroopWindow (s : State) : Host.Outcome State Fault Refusal :=
  done s (if s.pwr.droopAt + us 1000 ≤ s.tick then s.droopWindow else s)

/-- THERMAL_TRIP (R555): EXTRA 3 names the temperature. -/
def execThermalTrip (s : State) : Host.Outcome State Fault Refusal :=
  done s (if s.running ∧ s.power ≠ 5 then
    (s.containModule 3 (if s.ras.moduleContained then 2 else 0)).setFld Reg.PWR_STAT Reg.PWR_STAT_STATE 5 else s)

/-- THERMAL_SHUTDOWN (R555): steps 4 and 5 of R547, with wake cause 3. -/
def execThermalShutdown (s : State) : Host.Outcome State Fault Refusal :=
  done s (if s.power = 5 then ((s.closeAll).writeCounter 3).railsOff else s)

end Sys2Proof.Machine
end

