-- ==== Sys2Proof/Machine/RegWrite.lean ====
section
/-! DEFINITION. REGISTER_WRITE, and what a read of BAR0 returns (00, 20): R5, R8 to R10, R480, R483, R541, R556 to R565. -/

namespace Sys2Proof.Machine

/-! ## Writes -/

/-- The index of a register of a row with one index, and the two or three indices of the others. -/
def RegRow.idx (row : RegRow) (r : RegId) : Nat × Nat × Nat :=
  let x := r.off - row.base
  match row.dims with
  | [] => (0, 0, 0)
  | [(a, _)] => (x / a, 0, 0)
  | [(a, _), (b, _)] => (x / a, x % a / b, 0)
  | (a, _) :: (b, _) :: (c, _) :: _ => (x / a, x % a / b, x % a % b / c)

/-- Pointers of a ring of records: HEAD moves, and records that waited for room are written (R63, R219, R526). -/
def State.writePtrs (s : State) (via : Via) (k : Nat) (v : Word) : State :=
  let s := s.writePlain (s.secureVia via) (ringPtrs k) [] v.toNat
  let n := s.ringLen k
  let head := s.fld (ringPtrs k) Reg.XLT_FQ_PTRS_HEAD
  let tail := s.fld (ringPtrs k) Reg.XLT_FQ_PTRS_TAIL
  let keep := fun i => decide ((i + n - head) % n < (tail + n - head) % n)
  let s := if k = 2 then { s with ras := { s.ras with alertAdv := s.ras.alertAdv.filter keep } } else s
  s.pumpRings

/-- A write that may let waiting requests go on. -/
def State.writeAndGo (s : State) (via : Via) (r : RegId) (v : Word) : State :=
  (s.writePlain (s.secureVia via) r [] v.toNat).pump.go

/-- `RAS_HCFG_k`: AUTO of cartridges and heads ignores writes (18). -/
def State.writeHcfg (s : State) (via : Via) (k : Nat) (v : Word) : State :=
  let s := s.writePlain (s.secureVia via) (Reg.RAS_HCFG k) [] v.toNat
  if k = 0xA ∨ k = 0xB then s.setFld (Reg.RAS_HCFG k) Reg.RAS_HCFG_AUTO 0 else s

/-- The rows of the register map whose registers act when written, by the row's offset. -/
def handlers : List (Nat × (State → Via → RegId → Nat × Nat × Nat → Word → State)) := [
  (0x48, fun s via _ _ v => s.writeUnitDis via v),
  (0x50, fun s via _ _ v => s.writeLock via v),
  (0x100, fun s via _ _ v => s.writeMembers via v),
  (0x108, fun s via _ _ v => s.writePartCtl via v),
  (0x200000, fun s via r i v => s.writeQBase via i.1 r v),
  (0x200008, fun s via r i v => s.writeQBase via i.1 r v),
  (0x200010, fun s via _ i v => s.writeQCfg via i.1 v),
  (0x200020, fun s _ _ i v => s.writeQCtl i.1 v),
  (0x302008, fun s via _ _ v => s.writeRingBase via 0 v),
  (0x302010, fun s via _ _ v => s.writePtrs via 0 v),
  (0x302020, fun s _ _ _ v => s.faultResponse v),
  (0x400000, fun s via _ i v => s.writeHomeHost via i.1 v),
  (0x401000, fun s via _ i v => s.writeDomState via i.1 v),
  (0x401800, fun s via r _ v => s.writeAndGo via r v),
  (0x401810, fun s via _ _ v => s.writeRingBase via 1 v),
  (0x401818, fun s via _ _ v => s.writePtrs via 1 v),
  (0x500000, fun s via _ _ v => s.writeWindow via v),
  (0x500028, fun s via _ _ v => s.writeEpoch via v),
  (0x500030, fun s via _ _ v => s.writeCmtrSel via v),
  (0x600000, fun s via _ i v => s.writeCaddyOwn via i.1 v),
  (0xA00008, fun s via _ _ v => s.writeDrainSel via v),
  (0xB00000, fun s via _ _ v => s.writeIdent via v),
  (0xB000C0, fun s _ _ i v => s.writeLaser i.1 v),
  (0xB00200, fun s via r _ v => s.writeAndGo via r v),
  (0xB01000, fun s via _ i v => s.writePortCtl via i.1 v),
  (0xC00000, fun s via _ _ v => s.writeCtxMap via v),
  (0xC00008, fun s via _ _ v => s.writeMeterSel via v),
  (0xC20000, fun s via _ i v => s.writeMeterCfg via i.1 v),
  (0xC40000, fun s via _ i v => s.writeShaper via i.1 i.2.1 v),
  (0xC50000, fun s via _ i v => s.writeGateCtl via i.1 v),
  (0xC60000, fun s via _ i v => s.writeGateEntry via i.1 i.2.1 i.2.2 v),
  (0xD00000, fun s via r _ v => s.writeLocked via r v),
  (0xD00008, fun s via _ _ v => s.writeWorld via false v),
  (0xD00010, fun s via _ _ v => s.writeWorld via true v),
  (0xD00018, fun s via r _ v => s.writeLocked via r v),
  (0xD00020, fun s via _ _ v => s.writeRgnSel via v),
  (0xD00028, fun s via r _ v => s.writePlain (s.secureVia via) (r.world (s.secureVia via)) [] v.toNat),
  (0xD00030, fun s via r _ v => s.writePlain (s.secureVia via) (r.world (s.secureVia via)) [] v.toNat),
  (0xD00038, fun s via _ _ v => s.writeGrant via v),
  (0xD00040, fun s via _ _ v => s.writeKeyCtl via v),
  (0xD00050, fun s via _ _ v => s.writeFwCtl via v),
  (0xE00008, fun s via _ _ v => s.writeContain via v),
  (0xE00018, fun s via _ _ v => s.writeHealthSel via v),
  (0xE00030, fun s via _ _ v => s.writeRingBase via 2 v),
  (0xE00038, fun s via _ _ v => s.writePtrs via 2 v),
  (0xE00100, fun s via _ i v => s.writeHcfg via i.1 v),
  (0xF00010, fun s via _ _ v => s.writeEvrRd via v),
  (0x1000008, fun s via _ _ v => s.writePwrCtl via v)]

/-- A write that has reached a register: what it does beside setting fields, or its fields alone (R10). -/
def State.writeReg (s : State) (via : Via) (off : Nat) (v : Word) : State :=
  match findReg off with
  | none => s
  | some (row, r) =>
    match handlers.find? fun h => h.1 = row.base with
    | some h => h.2 s via r (row.idx r) v
    | none => s.writePlain (s.secureVia via) r [] v.toNat

/-- REGISTER_WRITE (R5, R8, R10): 64-bit and aligned, to a register that exists and acts. -/
def execRegisterWrite (via : Via) (bytes : Nat) (off : BitVec 26) (v : Word) (s : State) :
    Host.Outcome State Fault Refusal :=
  done s (if bytes = 8 ∧ off.toNat % 8 = 0 ∧ s.mayWrite via off.toNat then
    s.writeReg via off.toNat v else s)

/-! ## Reads -/

/-- The bits of the engines of a kind that are present. -/
def State.presentMask (s : State) (k : EngKind) : Nat := maskOf ((s.presentOf k).map fun e => e.idx.val)

/-- Parts of a kind in service. -/
def State.inService (s : State) (kind n : Nat) : List Nat := (List.range n).filter fun i => !s.retired (obj kind i)

/-- General banks of a die, neither retired nor taken into a fixed role. -/
def State.generalBanks (s : State) (die : Nat) : Nat :=
  ((List.range 952).filter fun j =>
    s.generalBank (die * 1024 + j) && decide (s.own (die * 1024 + j) Reg.CADDY_OWN_STATE ≠ 3)).length

/-- Fields put into a word. -/
def putAll (w : Nat) (l : List (Fld × Nat)) : Nat := l.foldl (fun w x => x.1.put w x.2) w

/-- `GLB_CAP_` words and `GLB_ID`. -/
def State.capWord (s : State) (off : Nat) : Option Nat :=
  let f := s.fixed
  match off with
  | 0x00 => some (putAll 0 [(Reg.GLB_ID_DEVICE, deviceId f.variant), (Reg.GLB_ID_VARIANT, variantBit f.variant),
      (Reg.GLB_ID_STEPPING, f.stepping), (Reg.GLB_ID_CAP_VER, 1)])
  | 0x08 => some (putAll 0 [(Reg.GLB_CAP_CORE_KTL, s.presentMask .kettle), (Reg.GLB_CAP_CORE_NEWT, s.presentMask .newt)])
  | 0x10 => some (putAll 0 [(Reg.GLB_CAP_ENG_GKO, s.presentMask .gecko), (Reg.GLB_CAP_ENG_EMB, s.presentMask .emb),
      (Reg.GLB_CAP_ENG_MOVER, s.presentMask .mover), (Reg.GLB_CAP_ENG_FLT_NEWT, f.faultMode .newt),
      (Reg.GLB_CAP_ENG_FLT_KTL, f.faultMode .kettle), (Reg.GLB_CAP_ENG_FLT_GKO, f.faultMode .gecko),
      (Reg.GLB_CAP_ENG_FLT_EMB, f.faultMode .emb)])
  | 0x18 => some (putAll 0 [(Reg.GLB_CAP_MEM_HBM, maskOf (s.inService 1 8)), (Reg.GLB_CAP_MEM_LPDDR, maskOf (s.inService 2 32))])
  | 0x20 => some (putAll 0 [(Reg.GLB_CAP_SIZE_HBM_MIB, 65536 * (s.inService 1 8).length),
      (Reg.GLB_CAP_SIZE_LPDDR_MIB, 131072 * (s.inService 2 32).length)])
  | 0x28 => some (putAll 0 [(Reg.GLB_CAP_SRAM_GEN0, s.generalBanks 0), (Reg.GLB_CAP_SRAM_GEN1, s.generalBanks 1)])
  | _ => none

/-- A built-in kernel or a forwarded subrequest runs on Kettle n: the module's own access program runs on its Newt (R242). -/
def State.builtin (s : State) (n : Nat) : Bool := (s.kettle n).task.isSome && (s.kettle n).id ≠ 0

/-- `NEWT_STAT_n`: reads outstanding, stalled descriptors, whether a program runs, run-ahead in 64-byte units. -/
def State.newtStat (s : State) (n : Nat) : Nat :=
  let e : Eng := ⟨.newt, Fin.ofNat 32 n⟩
  let out := s.newtReads n true true + s.newtReads n false true
  let r := s.newt n
  putAll 0 [(Reg.NEWT_STAT_OUT_RD, out), (Reg.NEWT_STAT_STALLED, (s.stalledOn e).length),
    (Reg.NEWT_STAT_PROG, (r.task.isSome || s.builtin n).toNat),
    (Reg.NEWT_STAT_AHEAD, r.ahead / 64)]

/-- `KTL_STAT_n`. -/
def State.kettleStat (s : State) (n : Nat) : Nat :=
  let k := s.kettle n
  let stall := s.tasks.any fun t => t.2.wait = .fault && (t.2.eng = some ⟨.kettle, Fin.ofNat 32 n⟩ || k.sub = some t.1)
  putAll 0 [(Reg.KTL_STAT_PROG_ID, k.id), (Reg.KTL_STAT_BUSY, k.task.isSome.toNat), (Reg.KTL_STAT_RWAIT, k.rwait.toNat),
    (Reg.KTL_STAT_FSTALL, stall.toNat), (Reg.KTL_STAT_PC, k.pc)]

/-- `GKO_STAT_n`: queries holding slots, reads outstanding, queries waiting for a slot. -/
def State.geckoStat (s : State) (n : Nat) : Nat :=
  let on := s.eng.queries.filter fun q => q.eng = some n && q.task.isSome && q.res.isNone
  let out := s.tasks.filter fun t => t.2.eng = some ⟨.gecko, Fin.ofNat 32 n⟩ && t.2.reading &&
    (t.2.wait = .line || t.2.wait = .late || t.2.wait = .dma || t.2.wait = .fabric)
  let wait := s.eng.queries.filter fun q => q.task.isNone && q.res.isNone
  putAll 0 [(Reg.GKO_STAT_ACTIVE, on.length), (Reg.GKO_STAT_OUT_RD, out.length), (Reg.GKO_STAT_WAITING, wait.length)]

/-- `SEC_FW_STAT`. -/
def State.fwStat (s : State) : Nat :=
  putAll 0 [(Reg.SEC_FW_STAT_RECOVERY, (decide (s.sec.recovery ≠ 0)).toNat), (Reg.SEC_FW_STAT_CAUSE, s.sec.recovery),
    (Reg.SEC_FW_STAT_SVN, s.sec.svn), (Reg.SEC_FW_STAT_SVN_MIN, s.sec.svnMin), (Reg.SEC_FW_STAT_REVOKED, s.fixed.revoked),
    (Reg.SEC_FW_STAT_STAGED, s.sec.staged.isSome.toNat)]

/-- `RAS_WORST`: the part that is not RETIRED with the highest S ÷ RETIRE; the lowest object code among equals. -/
def State.worst (s : State) : Nat :=
  let ratio := fun (e : Nat × Health) =>
    let r := s.retirePoint (bits e.1 31 24)
    if r = 0 then 0 else min 0xFFFF (e.2.score * 1024 / r)
  let best := (s.ras.health.filter fun e => e.2.st ≠ 3).foldl (fun (b : Nat × Nat) e =>
    if b.2 < ratio e then (e.1, ratio e) else b) (0, 0)
  putAll 0 [(Reg.RAS_WORST_PART, best.1), (Reg.RAS_WORST_RATIO, best.2)]

/-- `EVR_STAT`. -/
def State.evrStat (s : State) : Nat :=
  putAll 0 [(Reg.EVR_STAT_NEXT, s.ras.nextSeq), (Reg.EVR_STAT_RESERVE, (decide (recCapacity - recReserve ≤ s.ras.nextSeq)).toNat),
    (Reg.EVR_STAT_FULL, (decide (recCapacity ≤ s.ras.nextSeq)).toNat), (Reg.EVR_STAT_DROPPED, s.ras.dropped)]

/-- The word of a register as it is read, before access types: computed ones, and the words kept. -/
def State.word (s : State) (row : RegRow) (r : RegId) (sec : Bool) : Nat :=
  let i := (row.idx r).1
  match s.capWord r.off with
  | some w => w
  | none =>
    if row.base = Reg.GLB_TICK.off then s.tick
    else if row.base = (Reg.TIER_FREE 0).off then
      putAll 0 [(Reg.TIER_FREE_HBM, s.freeCount i .hbm), (Reg.TIER_FREE_LPDDR, s.freeCount i .lpddr)]
    else if row.base = Reg.CADDY_STATUS.off then
      putAll (s.reg r) [(Reg.CADDY_STATUS_FUSES0, s.pad.fuses0), (Reg.CADDY_STATUS_FUSES1, s.pad.fuses1)]
    else if row.base = (Reg.NEWT_STAT 0).off then s.newtStat i
    else if row.base = (Reg.KTL_STAT 0).off then s.kettleStat i
    else if row.base = (Reg.GKO_STAT 0).off then s.geckoStat i
    else if row.base = Reg.SEC_FW_STAT.off then s.fwStat
    else if row.base = Reg.RAS_JRNL.off then Reg.RAS_JRNL_USED.put (s.reg r) s.ras.journal.length
    else if row.base = Reg.RAS_WORST.off then s.worst
    else if row.base = Reg.EVR_STAT.off then s.evrStat
    else if row.base = Reg.EVR_COUNT.off then Reg.EVR_COUNT_OP_SEC.put (s.reg r) s.opSec
    else if row.base = (Reg.QOS_MTR_RATE 0).off then
      putAll 0 [(Reg.QOS_MTR_RATE_CIR, (s.meter i).cir), (Reg.QOS_MTR_RATE_XIR, (s.meter i).xir)]
    else if row.base = (Reg.QOS_MTR_BURST 0).off then
      putAll 0 [(Reg.QOS_MTR_BURST_CBS, (s.meter i).cbs), (Reg.QOS_MTR_BURST_XBS, (s.meter i).xbs)]
    else if ([0xD00020, 0xD00028, 0xD00030, 0xD00038, 0xD00040] : List Nat).contains row.base then s.reg (r.world sec)
    else s.reg r

/-- A read reaches its register: in the recovery loader and after a watchdog the steward serves some blocks only (R501,
R565). -/
def State.mayRead (s : State) (via : Via) (off : Nat) : Bool :=
  let b := blockOfOff off
  if via = .steward ∧ s.power = 2 then b = 15 || b = 16 || off = Reg.SEC_FW_STAT.off || decide (off ≤ 0x40)
  else if via = .steward ∧ s.ras.romOnly then b = 14 || b = 15 || b = 16
  else true

/-- What a read of BAR0 returns; none when the access is not served at all (R5, R8 to R10, R541, R556, R564). -/
def State.readBar0 (s : State) (via : Via) (bytes off : Nat) : Option Nat :=
  let sec := s.secureVia via
  if !s.served via then none
  else if bytes ≠ 8 || off % 8 ≠ 0 || !s.mayRead via off || (s.secureOnly off && !sec) || s.absentAt off then some 0
  else
    match findReg off with
    | none => some 0
    | some (row, r) => some (readFields sec row.flds (s.word row r sec) 0)

end Sys2Proof.Machine
end

