-- ==== Sys2Proof/Machine/Dispatch.lean ====
section
/-! DEFINITION. The dispatch: one arm for each command, each a direct call of its meaning. -/

namespace Sys2Proof.Machine

/-- What a command does to everything but the command queue. -/
def exec (i : Instr) (s : State) : Host.Outcome State Fault Refusal :=
  match i with
  | .registerWrite via bytes off v => Sys2Proof.Machine.execRegisterWrite via bytes off v s
  | .sqTailDoorbell h q v => Sys2Proof.Machine.execSqTailDoorbell h q v s
  | .cqHeadDoorbell h q v => Sys2Proof.Machine.execCqHeadDoorbell h q v s
  | .doorbell p m q cq v => Sys2Proof.Machine.execDoorbell p m q cq v s
  | .slotFetch q => Sys2Proof.Machine.execSlotFetch q s
  | .invalidOpcode q => Sys2Proof.Machine.execInvalidOpcode q s
  | .descriptorComplete d => Sys2Proof.Machine.execDescriptorComplete d s
  | .completionRecordWrite q => Sys2Proof.Machine.execCompletionRecordWrite q s
  | .irqTimeExpiry q => Sys2Proof.Machine.execIrqTimeExpiry q s
  | .msixUnmask h vec => Sys2Proof.Machine.execMsixUnmask h vec s
  | .deadlineExpiry d => Sys2Proof.Machine.execDeadlineExpiry d s
  | .queueEnable via q v => Sys2Proof.Machine.execQueueEnable via q v s
  | .queueDisable via q v => Sys2Proof.Machine.execQueueDisable via q v s
  | .abort via q => Sys2Proof.Machine.execAbort via q s
  | .resume via q => Sys2Proof.Machine.execResume via q s
  | .queueStopped q => Sys2Proof.Machine.execQueueStopped q s
  | .nop q => Sys2Proof.Machine.execNop q s
  | .fence q => Sys2Proof.Machine.execFence q s
  | .acquire q => Sys2Proof.Machine.execAcquire q s
  | .acquireAtLeast q => Sys2Proof.Machine.execAcquireAtLeast q s
  | .acquireNoWait q => Sys2Proof.Machine.execAcquireNoWait q s
  | .acquirePoll d => Sys2Proof.Machine.execAcquirePoll d s
  | .releaseStore q => Sys2Proof.Machine.execReleaseStore q s
  | .releaseAdd q => Sys2Proof.Machine.execReleaseAdd q s
  | .flushRange q => Sys2Proof.Machine.execFlushRange q s
  | .invalRange q => Sys2Proof.Machine.execInvalRange q s
  | .copy q => Sys2Proof.Machine.execCopy q s
  | .copy2d q => Sys2Proof.Machine.execCopy2d q s
  | .gatherRows q => Sys2Proof.Machine.execGatherRows q s
  | .atomicAdd q => Sys2Proof.Machine.execAtomicAdd q s
  | .atomicAnd q => Sys2Proof.Machine.execAtomicAnd q s
  | .atomicOr q => Sys2Proof.Machine.execAtomicOr q s
  | .atomicXor q => Sys2Proof.Machine.execAtomicXor q s
  | .atomicMinSigned q => Sys2Proof.Machine.execAtomicMinSigned q s
  | .atomicMaxSigned q => Sys2Proof.Machine.execAtomicMaxSigned q s
  | .atomicMinUnsigned q => Sys2Proof.Machine.execAtomicMinUnsigned q s
  | .atomicMaxUnsigned q => Sys2Proof.Machine.execAtomicMaxUnsigned q s
  | .atomicSwap q => Sys2Proof.Machine.execAtomicSwap q s
  | .atomicCompareSwap q => Sys2Proof.Machine.execAtomicCompareSwap q s
  | .atomicFadd q => Sys2Proof.Machine.execAtomicFadd q s
  | .combineEntryExpiry slice k => Sys2Proof.Machine.execCombineEntryExpiry slice k s
  | .attnDecodeExact q => Sys2Proof.Machine.execAttnDecodeExact q s
  | .attnDecodeBounded q => Sys2Proof.Machine.execAttnDecodeBounded q s
  | .blendMerge q => Sys2Proof.Machine.execBlendMerge q s
  | .kvAppend q => Sys2Proof.Machine.execKvAppend q s
  | .ktlRun q => Sys2Proof.Machine.execKtlRun q s
  | .gkoSearch q => Sys2Proof.Machine.execGkoSearch q s
  | .gkoQueryStart e => Sys2Proof.Machine.execGkoQueryStart e s
  | .gkoInsert q => Sys2Proof.Machine.execGkoInsert q s
  | .insertSlotReuse tag => Sys2Proof.Machine.execInsertSlotReuse tag s
  | .gkoDelete q => Sys2Proof.Machine.execGkoDelete q s
  | .gkoMerge q => Sys2Proof.Machine.execGkoMerge q s
  | .embGather q => Sys2Proof.Machine.execEmbGather q s
  | .embUpdate q => Sys2Proof.Machine.execEmbUpdate q s
  | .rowUpdate k => Sys2Proof.Machine.execRowUpdate k s
  | .embSwitchInstall q => Sys2Proof.Machine.execEmbSwitchInstall q s
  | .embSwitchAndDrain q => Sys2Proof.Machine.execEmbSwitchAndDrain q s
  | .embSwitchWait q => Sys2Proof.Machine.execEmbSwitchWait q s
  | .drainCountZero t ver => Sys2Proof.Machine.execDrainCountZero t ver s
  | .rehome q => Sys2Proof.Machine.execRehome q s
  | .chunkMove slot c rd => Sys2Proof.Machine.execChunkMove slot c rd s
  | .chunkWriteAck slot c rd => Sys2Proof.Machine.execChunkWriteAck slot c rd s
  | .back q => Sys2Proof.Machine.execBack q s
  | .unback q => Sys2Proof.Machine.execUnback q s
  | .stageIn q => Sys2Proof.Machine.execStageIn q s
  | .stageOut q => Sys2Proof.Machine.execStageOut q s
  | .survey q => Sys2Proof.Machine.execSurvey q s
  | .decaySweep => Sys2Proof.Machine.execDecaySweep s
  | .xltShootdown q => Sys2Proof.Machine.execXltShootdown q s
  | .xltSync q => Sys2Proof.Machine.execXltSync q s
  | .pageWalk d va acc => Sys2Proof.Machine.execPageWalk d va acc s
  | .faultRecordWaitEnd tok => Sys2Proof.Machine.execFaultRecordWaitEnd tok s
  | .faultReplay via tok => Sys2Proof.Machine.execFaultReplay via tok s
  | .faultAbort via tok => Sys2Proof.Machine.execFaultAbort via tok s
  | .faultResponseTimeout tok => Sys2Proof.Machine.execFaultResponseTimeout tok s
  | .faultRingEnable via v => Sys2Proof.Machine.execFaultRingEnable via v s
  | .faultRingDisable via v => Sys2Proof.Machine.execFaultRingDisable via v s
  | .newtSlotBegin n ring => Sys2Proof.Machine.execNewtSlotBegin n ring s
  | .newtReadReturn n k => Sys2Proof.Machine.execNewtReadReturn n k s
  | .ktlNop n => Sys2Proof.Machine.execKtlNop n s
  | .ktlEnd n => Sys2Proof.Machine.execKtlEnd n s
  | .ktlSet n => Sys2Proof.Machine.execKtlSet n s
  | .ktlAddi n => Sys2Proof.Machine.execKtlAddi n s
  | .ktlAdd n => Sys2Proof.Machine.execKtlAdd n s
  | .loop n => Sys2Proof.Machine.execLoop n s
  | .rwait n => Sys2Proof.Machine.execRwait n s
  | .rrel n => Sys2Proof.Machine.execRrel n s
  | .lds n => Sys2Proof.Machine.execLds n s
  | .mma n => Sys2Proof.Machine.execMma n s
  | .accrd n => Sys2Proof.Machine.execAccrd n s
  | .accclr n => Sys2Proof.Machine.execAccclr n s
  | .vld n => Sys2Proof.Machine.execVld n s
  | .vst n => Sys2Proof.Machine.execVst n s
  | .vopAdd n => Sys2Proof.Machine.execVopAdd n s
  | .vopSub n => Sys2Proof.Machine.execVopSub n s
  | .vopMul n => Sys2Proof.Machine.execVopMul n s
  | .vopMax n => Sys2Proof.Machine.execVopMax n s
  | .vopMin n => Sys2Proof.Machine.execVopMin n s
  | .vopiAdd n => Sys2Proof.Machine.execVopiAdd n s
  | .vopiSub n => Sys2Proof.Machine.execVopiSub n s
  | .vopiMul n => Sys2Proof.Machine.execVopiMul n s
  | .vopiMax n => Sys2Proof.Machine.execVopiMax n s
  | .vopiMin n => Sys2Proof.Machine.execVopiMin n s
  | .ktlFma n => Sys2Proof.Machine.execKtlFma n s
  | .vfnExp2 n => Sys2Proof.Machine.execVfnExp2 n s
  | .vfnRcp n => Sys2Proof.Machine.execVfnRcp n s
  | .vfnRsqrt n => Sys2Proof.Machine.execVfnRsqrt n s
  | .vfnTanh n => Sys2Proof.Machine.execVfnTanh n s
  | .vfnSigmoid n => Sys2Proof.Machine.execVfnSigmoid n s
  | .vfnMov n => Sys2Proof.Machine.execVfnMov n s
  | .redSum n => Sys2Proof.Machine.execRedSum n s
  | .redMax n => Sys2Proof.Machine.execRedMax n s
  | .cast n => Sys2Proof.Machine.execCast n s
  | .lsem n => Sys2Proof.Machine.execLsem n s
  | .mask n => Sys2Proof.Machine.execMask n s
  | .scap n => Sys2Proof.Machine.execScap n s
  | .topk n => Sys2Proof.Machine.execTopk n s
  | .engineWatchdog e => Sys2Proof.Machine.execEngineWatchdog e s
  | .memRd r mv => Sys2Proof.Machine.execMemRd r mv s
  | .memRdData r => Sys2Proof.Machine.execMemRdData r s
  | .memInv r mv => Sys2Proof.Machine.execMemInv r mv s
  | .memClnEvct r => Sys2Proof.Machine.execMemClnEvct r s
  | .memSpecRd r => Sys2Proof.Machine.execMemSpecRd r s
  | .memWr r mv data poison => Sys2Proof.Machine.execMemWr r mv data poison s
  | .memWrPtl r mv mask data => Sys2Proof.Machine.execMemWrPtl r mv mask data s
  | .biConflict r => Sys2Proof.Machine.execBiConflict r s
  | .biRspI r => Sys2Proof.Machine.execBiRspI r s
  | .biRspS r => Sys2Proof.Machine.execBiRspS r s
  | .engineRead r => Sys2Proof.Machine.execEngineRead r s
  | .engineWrite r mask data => Sys2Proof.Machine.execEngineWrite r mask data s
  | .snoopTimeout host => Sys2Proof.Machine.execSnoopTimeout host s
  | .hostDownDeclare via host v => Sys2Proof.Machine.execHostDownDeclare via host v s
  | .domainDown => Sys2Proof.Machine.execDomainDown s
  | .hostReturn via host v => Sys2Proof.Machine.execHostReturn via host v s
  | .hostInvalidate via host v => Sys2Proof.Machine.execHostInvalidate via host v s
  | .restart via dom => Sys2Proof.Machine.execRestart via dom s
  | .poisonLogEnable via v => Sys2Proof.Machine.execPoisonLogEnable via v s
  | .setDcRegionConfiguration region base len => Sys2Proof.Machine.execSetDcRegionConfiguration region base len s
  | .addDynamicCapacity base len tag hosts => Sys2Proof.Machine.execAddDynamicCapacity base len tag hosts s
  | .addDynamicCapacityResponse h host ext accept => Sys2Proof.Machine.execAddDynamicCapacityResponse h host ext accept s
  | .releaseDynamicCapacity h host ext => Sys2Proof.Machine.execReleaseDynamicCapacity h host ext s
  | .forcedRelease ext => Sys2Proof.Machine.execForcedRelease ext s
  | .extentDrainDone ext => Sys2Proof.Machine.execExtentDrainDone ext s
  | .extentScrubDone ext => Sys2Proof.Machine.execExtentScrubDone ext s
  | .getDynamicCapacityConfiguration h => Sys2Proof.Machine.execGetDynamicCapacityConfiguration h s
  | .getDynamicCapacityExtentList h => Sys2Proof.Machine.execGetDynamicCapacityExtentList h s
  | .identify h => Sys2Proof.Machine.execIdentify h s
  | .getSupportedLogs h => Sys2Proof.Machine.execGetSupportedLogs h s
  | .getLog h => Sys2Proof.Machine.execGetLog h s
  | .getEventRecords h => Sys2Proof.Machine.execGetEventRecords h s
  | .clearEventRecords h count => Sys2Proof.Machine.execClearEventRecords h count s
  | .getEventInterruptPolicy h => Sys2Proof.Machine.execGetEventInterruptPolicy h s
  | .setEventInterruptPolicy h policy => Sys2Proof.Machine.execSetEventInterruptPolicy h policy s
  | .getTimestamp h => Sys2Proof.Machine.execGetTimestamp h s
  | .setTimestamp h v => Sys2Proof.Machine.execSetTimestamp h v s
  | .identifyMemoryDevice h => Sys2Proof.Machine.execIdentifyMemoryDevice h s
  | .getPoisonList h => Sys2Proof.Machine.execGetPoisonList h s
  | .unsupportedMailboxCommand h op => Sys2Proof.Machine.execUnsupportedMailboxCommand h op s
  | .hdmDecoderCommit h k dec => Sys2Proof.Machine.execHdmDecoderCommit h k dec s
  | .doeDiscovery h index => Sys2Proof.Machine.execDoeDiscovery h index s
  | .cdatTableAccess h index => Sys2Proof.Machine.execCdatTableAccess h index s
  | .getVersion t => Sys2Proof.Machine.execGetVersion t s
  | .getCapabilities t => Sys2Proof.Machine.execGetCapabilities t s
  | .negotiateAlgorithms t offer => Sys2Proof.Machine.execNegotiateAlgorithms t offer s
  | .getDigests t => Sys2Proof.Machine.execGetDigests t s
  | .getCertificate t slot => Sys2Proof.Machine.execGetCertificate t slot s
  | .challenge t slot nonce => Sys2Proof.Machine.execChallenge t slot nonce s
  | .getMeasurements t index nonce sign => Sys2Proof.Machine.execGetMeasurements t index nonce sign s
  | .keyExchange t peer => Sys2Proof.Machine.execKeyExchange t peer s
  | .finish t => Sys2Proof.Machine.execFinish t s
  | .keyUpdate t => Sys2Proof.Machine.execKeyUpdate t s
  | .heartbeat t => Sys2Proof.Machine.execHeartbeat t s
  | .endSession t => Sys2Proof.Machine.execEndSession t s
  | .ideKm h mem go => Sys2Proof.Machine.execIdeKm h mem go s
  | .ideFailure h mem => Sys2Proof.Machine.execIdeFailure h mem s
  | .mctpMessage t kind => Sys2Proof.Machine.execMctpMessage t kind s
  | .firmwareUpdate t img => Sys2Proof.Machine.execFirmwareUpdate t img s
  | .commitSvn via => Sys2Proof.Machine.execCommitSvn via s
  | .functionLevelReset h => Sys2Proof.Machine.execFunctionLevelReset h s
  | .configRequest h bme => Sys2Proof.Machine.execConfigRequest h bme s
  | .headReset h cause => Sys2Proof.Machine.execHeadReset h cause s
  | .headResetExit h speed width flit => Sys2Proof.Machine.execHeadResetExit h speed width flit s
  | .headRefusalInterval h => Sys2Proof.Machine.execHeadRefusalInterval h s
  | .hostDmaCompletion id r => Sys2Proof.Machine.execHostDmaCompletion id r s
  | .hostDmaTimeout id => Sys2Proof.Machine.execHostDmaTimeout id s
  | .tierAccessComplete id r => Sys2Proof.Machine.execTierAccessComplete id r s
  | .tierDeadline id => Sys2Proof.Machine.execTierDeadline id s
  | .channelRetrain tier ch byErrors => Sys2Proof.Machine.execChannelRetrain tier ch byErrors s
  | .retirementResume part => Sys2Proof.Machine.execRetirementResume part s
  | .retirementDone part => Sys2Proof.Machine.execRetirementDone part s
  | .windowWrite via v => Sys2Proof.Machine.execWindowWrite via v s
  | .mapEpochCommit via v => Sys2Proof.Machine.execMapEpochCommit via v s
  | .cmtrSnapshot via v => Sys2Proof.Machine.execCmtrSnapshot via v s
  | .ptickPeriod => Sys2Proof.Machine.execPtickPeriod s
  | .partitionCommit via v => Sys2Proof.Machine.execPartitionCommit via v s
  | .grantGo via v => Sys2Proof.Machine.execGrantGo via v s
  | .grantAcknowledged secure => Sys2Proof.Machine.execGrantAcknowledged secure s
  | .regionLoad via v => Sys2Proof.Machine.execRegionLoad via v s
  | .regionCommit via v => Sys2Proof.Machine.execRegionCommit via v s
  | .regionCommitAck secure => Sys2Proof.Machine.execRegionCommitAck secure s
  | .keySlotSelect via v => Sys2Proof.Machine.execKeySlotSelect via v s
  | .generate via v => Sys2Proof.Machine.execGenerate via v s
  | .erase via v => Sys2Proof.Machine.execErase via v s
  | .engineWorldChange via misc v => Sys2Proof.Machine.execEngineWorldChange via misc v s
  | .wlockSet via v => Sys2Proof.Machine.execWlockSet via v s
  | .bankHandover via b v => Sys2Proof.Machine.execBankHandover via b v s
  | .bankHandoverDone b => Sys2Proof.Machine.execBankHandoverDone b s
  | .bankWorldWrite via b v => Sys2Proof.Machine.execBankWorldWrite via b v s
  | .scratchpadUe off => Sys2Proof.Machine.execScratchpadUe off s
  | .fieldRepair b subarray column => Sys2Proof.Machine.execFieldRepair b subarray column s
  | .bankRetire b => Sys2Proof.Machine.execBankRetire b s
  | .caddyClearDone => Sys2Proof.Machine.execCaddyClearDone s
  | .contain via v => Sys2Proof.Machine.execContain via v s
  | .release via v => Sys2Proof.Machine.execRelease via v s
  | .moduleContainment cause => Sys2Proof.Machine.execModuleContainment cause s
  | .stewardWatchdog => Sys2Proof.Machine.execStewardWatchdog s
  | .healthEvent part ev => Sys2Proof.Machine.execHealthEvent part ev s
  | .healthDecay => Sys2Proof.Machine.execHealthDecay s
  | .laserScoreUpdate c bias => Sys2Proof.Machine.execLaserScoreUpdate c bias s
  | .healthSnapshot via v => Sys2Proof.Machine.execHealthSnapshot via v s
  | .advisoryRingEnable via v => Sys2Proof.Machine.execAdvisoryRingEnable via v s
  | .recordWindowClose seq => Sys2Proof.Machine.execRecordWindowClose seq s
  | .counterEntryWrite => Sys2Proof.Machine.execCounterEntryWrite s
  | .evrLoad via v => Sys2Proof.Machine.execEvrLoad via v s
  | .embDrainSnapshot via v => Sys2Proof.Machine.execEmbDrainSnapshot via v s
  | .flitReceived n f => Sys2Proof.Machine.execFlitReceived n f s
  | .rd p m addr len => Sys2Proof.Machine.execRd p m addr len s
  | .wr p m addr data => Sys2Proof.Machine.execWr p m addr data s
  | .atom p m addr subop width op1 op2 => Sys2Proof.Machine.execAtom p m addr subop width op1 op2 s
  | .wrMasked p m addr mask data => Sys2Proof.Machine.execWrMasked p m addr mask data s
  | .streamReset p m first => Sys2Proof.Machine.execStreamReset p m first s
  | .subreq p m w => Sys2Proof.Machine.execSubreq p m w s
  | .cancel p m tag => Sys2Proof.Machine.execCancel p m tag s
  | .rdData p m data => Sys2Proof.Machine.execRdData p m data s
  | .ack p m => Sys2Proof.Machine.execAck p m s
  | .report p m r => Sys2Proof.Machine.execReport p m r s
  | .refuse p m st => Sys2Proof.Machine.execRefuse p m st s
  | .atomResult p m old => Sys2Proof.Machine.execAtomResult p m old s
  | .credit n counts => Sys2Proof.Machine.execCredit n counts s
  | .messageSend n => Sys2Proof.Machine.execMessageSend n s
  | .resendTimeout store dst stream seq => Sys2Proof.Machine.execResendTimeout store dst stream seq s
  | .streamGiveup dst stream => Sys2Proof.Machine.execStreamGiveup dst stream s
  | .homeTmoExpiry d => Sys2Proof.Machine.execHomeTmoExpiry d s
  | .portEnable via n v => Sys2Proof.Machine.execPortEnable via n v s
  | .portDisable via n v => Sys2Proof.Machine.execPortDisable via n v s
  | .signalDetect n => Sys2Proof.Machine.execSignalDetect n s
  | .signalLoss n => Sys2Proof.Machine.execSignalLoss n s
  | .identityExchange n far temp => Sys2Proof.Machine.execIdentityExchange n far temp s
  | .loadMarginCheck n worst uncorr farPass => Sys2Proof.Machine.execLoadMarginCheck n worst uncorr farPass s
  | .marginRetry n => Sys2Proof.Machine.execMarginRetry n s
  | .retrainTrigger n why => Sys2Proof.Machine.execRetrainTrigger n why s
  | .retrain via n => Sys2Proof.Machine.execRetrain via n s
  | .portFence via n v => Sys2Proof.Machine.execPortFence via n v s
  | .identSet via v => Sys2Proof.Machine.execIdentSet via v s
  | .laserService via c => Sys2Proof.Machine.execLaserService via c s
  | .laserServiceEnd via c => Sys2Proof.Machine.execLaserServiceEnd via c s
  | .laserInserted c => Sys2Proof.Machine.execLaserInserted c s
  | .laserLoss c failed => Sys2Proof.Machine.execLaserLoss c failed s
  | .meterMapWrite via v => Sys2Proof.Machine.execMeterMapWrite via v s
  | .meterMapRead via v => Sys2Proof.Machine.execMeterMapRead via v s
  | .apply via m v => Sys2Proof.Machine.execApply via m v s
  | .meterSnapshot via v => Sys2Proof.Machine.execMeterSnapshot via v s
  | .delayQueueRecolour m => Sys2Proof.Machine.execDelayQueueRecolour m s
  | .shaperWrite via n vc v => Sys2Proof.Machine.execShaperWrite via n vc v s
  | .gateEnable via n v => Sys2Proof.Machine.execGateEnable via n v s
  | .switch via n v => Sys2Proof.Machine.execSwitch via n v s
  | .gateEntryEnd n => Sys2Proof.Machine.execGateEntryEnd n s
  | .unitDisable via v => Sys2Proof.Machine.execUnitDisable via v s
  | .unitsLock via v => Sys2Proof.Machine.execUnitsLock via v s
  | .powerUp img => Sys2Proof.Machine.execPowerUp img s
  | .moduleReset mctp via v => Sys2Proof.Machine.execModuleReset mctp via v s
  | .offline via v => Sys2Proof.Machine.execOffline via v s
  | .inputPowerLoss => Sys2Proof.Machine.execInputPowerLoss s
  | .fabricReferenceLoss => Sys2Proof.Machine.execFabricReferenceLoss s
  | .fabricReferenceReturn => Sys2Proof.Machine.execFabricReferenceReturn s
  | .refHoldTimeout => Sys2Proof.Machine.execRefHoldTimeout s
  | .headReferenceLoss h => Sys2Proof.Machine.execHeadReferenceLoss h s
  | .fenceNAssert => Sys2Proof.Machine.execFenceNAssert s
  | .fenceNRelease => Sys2Proof.Machine.execFenceNRelease s
  | .hpReqN => Sys2Proof.Machine.execHpReqN s
  | .glitch pin => Sys2Proof.Machine.execGlitch pin s
  | .powerControlTick pin tdie thbm tin => Sys2Proof.Machine.execPowerControlTick pin tdie thbm tin s
  | .droop => Sys2Proof.Machine.execDroop s
  | .droopWindow => Sys2Proof.Machine.execDroopWindow s
  | .thermalTrip => Sys2Proof.Machine.execThermalTrip s
  | .thermalShutdown => Sys2Proof.Machine.execThermalShutdown s
  | .hpReqNRelease => Sys2Proof.Machine.execHpReqNRelease s
  | .laserCartridgeRemoval c => Sys2Proof.Machine.execLaserCartridgeRemoval c s
  | .memRdFwd r wr => Sys2Proof.Machine.execMemRdFwd r wr s
  | .biRspE r blk => Sys2Proof.Machine.execBiRspE r blk s

end Sys2Proof.Machine
end

