-- ==== Sys2Proof/Machine/Step.lean ====
section
/-! DEFINITION. One step of the block: the command at the front of the queue, or one tick of the module clock. -/

namespace Sys2Proof.Machine

/-- The state with a command put at the front of the queue. -/
def State.withFront (s : State) (c : Instr) : State := { s with pending := c :: s.pending }

/-- What happens while no command waits: MODULE_TICK counts one nanosecond (R158) and the shapers gain their credit
(R448). Log 2. -/
def State.idle (s : State) : State := { s.shapersTick with tick := s.tick + 1 }

/-- One step: the front command acts on the state with the queue's rest; with no command waiting the clock ticks. -/
def step (s : State) : Host.Outcome State Fault Refusal :=
  match s.pending with
  | [] => .next s.idle
  | c :: rest => exec c { s with pending := rest }

/-- The state with the command that a table word spells put at the front of the queue. The table gives no row bits, so
no word spells a command and the state is unchanged (log 21). -/
def State.withFetchWord (s : State) (nbits w : Nat) : State :=
  match decodeTableWord nbits w with
  | some c => s.withFront c
  | none => s

end Sys2Proof.Machine
end

