-- ==== Sys2Proof/Safety.lean ====
section
/-! DEFINITION. What the statements about the module speak of: steps that answer, what a command may change, the canonical
form of the memories, and what the event recorder keeps. -/

namespace Sys2Proof.Machine

/-! ## What may change -/

/-- No record is on its way to flash: so it is after every step (`RecorderOk`). -/
abbrev State.Quiet (s : State) : Prop := s.ras.toFlash = []

/-- Everything but the word of one register is as it was. -/
def State.OnlyReg (s t : State) (r : RegId) : Prop :=
  (∃ w, t = { s with regs := w }) ∧ ∀ q : RegId, q.off ≠ r.off → t.reg q = s.reg q

/-- Everything but the words of the listed registers is as it was. -/
def State.OnlyRegs (s t : State) (l : List RegId) : Prop :=
  (∃ w, t = { s with regs := w }) ∧ ∀ q : RegId, (∀ r ∈ l, q.off ≠ r.off) → t.reg q = s.reg q

/-- Lanes of a vector register of a Kettle. -/
def State.vec (s : State) (n r : Nat) : List Nat := (s.kettle n).vget r

/-- Everything but the files of one Kettle, its flag and count registers and the count of free values is as it was. -/
def State.OnlyKettle (s t : State) (n : Nat) : Prop :=
  (∃ w k f, t = { s with regs := w, eng := { s.eng with kettles := k }, free := f }) ∧
  (∀ m, m ≠ n → t.kettle m = s.kettle m) ∧
  ∀ q : RegId, q.off ≠ (Reg.KTL_FLAGS n).off → q.off ≠ (Reg.KTL_ACT n).off → t.reg q = s.reg q

/-- Everything but the vector registers of one Kettle, its flag register, in which no flag clears, and the count of free
values is as it was. -/
def State.OnlyVectors (s t : State) (n : Nat) : Prop :=
  s.OnlyKettle t n ∧ (∃ v, t.kettle n = { s.kettle n with vreg := v }) ∧ t.reg (Reg.KTL_ACT n) = s.reg (Reg.KTL_ACT n) ∧
  ∀ b, (s.reg (Reg.KTL_FLAGS n)).testBit b = true → (t.reg (Reg.KTL_FLAGS n)).testBit b = true

/-- The module is contained at module scope (R504, R505): it answers nothing as READY, no work is left, and every queue that
was enabled is STOPPED with cause 5. -/
def State.Halted (s u : State) : Prop :=
  u.ras.moduleContained = true ∧ u.live = false ∧ u.tasks = [] ∧
  ∀ q, q < 4096 → s.qState q ≠ 0 → u.qState q = 3 ∧ u.fld (Reg.Q_STATE q) Reg.Q_STATE_STOP_CAUSE = 5

/-- A message waits first on its virtual channel at a port of the live module, and its context may enter there (R428). -/
def State.Arrives (s : State) (p : Nat) (m : Msg) : Prop :=
  s.live = true ∧ s.firstRx p (vcOf m) = some m ∧ s.entryOk p m = true

/-- The message's place in the port's buffer is free again, and its credits are given back (R421). -/
def State.FreedRx (s u : State) (p : Nat) (m : Msg) : Prop :=
  (u.port p).rx = (s.port p).rx.erase m ∧
  (u.port p).given = (s.port p).given.set (vcOf m) (((s.port p).given.getD (vcOf m) 0 + units m) % 2 ^ 16)

/-! ## What a Kettle reads -/

/-- Kettle n may read `len` bytes of scratchpad, on its die, 16-byte aligned if `al`, in banks that grant it, none of them
poisoned (R224, R285, R305): they are `d`. -/
def State.PadHolds (s : State) (n off len : Nat) (al : Bool) (d : List Byte) : Prop :=
  padRangeOk n off len al = true ∧
  (∀ w ∈ cut 64 off len, s.bankGrant (asEng (kEng n)) w.1 = some .ok ∧ s.wordPoison w.1 = false) ∧
  d = s.padBytes off len

/-- Slot number `slot` of a stream, counted modulo 2^32 from RELEASED on, is in the ring, filled and not failed (R251, R309). -/
def Stream.Ready (x : Stream) (slot : Nat) : Prop :=
  slot < streamSlots x.bytes ∧ ∃ k, k % 2 ^ 32 = slot % 2 ^ 32 ∧ x.released ≤ k ∧ k < x.released + 2 ^ stSlotsLog x.bytes ∧
    k < streamSlots x.bytes ∧ k < x.filled ∧ ∀ f, x.failed = some f → k < f.1

/-- Kettle n may read `len` bytes of a ring's stream from byte x on, 16-byte aligned if `al`: every slot they lie in is ready and
their scratchpad can be read (R246, R309). They are `d`. -/
def State.RingHolds (s : State) (n ring x len : Nat) (al : Bool) (d : List Byte) : Prop :=
  ∃ st, (s.newt n).streams[ring]? = some st ∧ (al = true → x % 16 = 0) ∧
    (∀ p ∈ cut (slotBytes st.bytes) x len, st.Ready (p.1 / slotBytes st.bytes)) ∧
    (∀ p ∈ cut 64 x len, s.PadHolds n (stRing st.bytes + p.1 % ringSpan st.bytes) p.2 false
      (s.padBytes (stRing st.bytes + p.1 % ringSpan st.bytes) p.2)) ∧
    d = (cut 64 x len).flatMap fun p => s.padBytes (stRing st.bytes + p.1 % ringSpan st.bytes) p.2

/-- Group j of an MMA on array a may be taken (R278, R283, R302, R308): its column and tile exist, its formats pair, and `d` and `sc`
are the streamed bytes and scale bytes that it reads. -/
def State.MmaInput (s : State) (n i a j : Nat) (d sc : List Byte) : Prop :=
  let k := s.kettle n
  let p := bits (kX i) 7 0
  let g := groupLen (kFmt i) (k.tile a (kD i)).fmt
  let len := g * elemWidth (kFmt i) / 8
  let tile := k.tile a (kD i + j % p * g / 128)
  let arr := if bit (kM i) 0 then a else 0
  let at_ := if isMx (kFmt i) then j * (g / 32) else 4 * (j / p)
  let n4 := if isMx (kFmt i) then g / 32 else 4
  kD i + j % p * g / 128 ≤ 3 ∧ bits (kX i) 14 8 + j / p ≤ 127 ∧ streamFmts.contains (kFmt i) = true ∧
  groupLen (kFmt i) tile.fmt = g ∧
  (bit (kM i) 2 = true → (kFmt i = 10 ∨ kFmt i = 11) ∧ (tile.fmt = 10 ∨ tile.fmt = 11)) ∧
  (if bit (kA i) 4 then s.RingHolds n (bits (kA i) 2 0 + arr) (k.addr i * 64 + j * len) len false d
    else k.addr i % 16 = 0 ∧ s.PadHolds n (k.addr i + arr * kN i * len + j * len) len false d) ∧
  (if isMx (kFmt i) || isRs (kFmt i) then
      (if bit (kB i) 3 then s.RingHolds n (bits (kB i) 2 0 + arr) (k.sget (kSC i) * 64 + at_) n4 false sc
        else s.PadHolds n (k.sget (kSC i) + at_) n4 false sc)
    else sc = [])

/-- An accumulator after group j of an MMA on array a, of streamed bytes `d` and scale bytes `sc`: the group's sum is added, or at the
first group of a column with M[1] put (R282 to R284, R302). -/
def mmaValue (s : State) (n i a j row : Nat) (d sc : List Byte) (old : Nat) : Nat :=
  let k := s.kettle n
  let p := bits (kX i) 7 0
  let g := groupLen (kFmt i) (k.tile a (kD i)).fmt
  let e := j % p * g
  let tile := k.tile a (kD i + e / 128)
  let codes := unpack (elemWidth (kFmt i)) g d
  let first := bit (kM i) 1 && j % p = 0
  if bit (kM i) 2 then
    wrap 32 (satI32 ((if first then 0 else signed 32 old) + intGroup (kFmt i) tile.fmt codes
      ((List.range g).map fun q => (tile.rows.getD row []).getD (e % 128 + q) 0))).1
  else
    let x := (groupOf (kFmt i) codes sc (tile.row row (e % 128) g)).1
    (if first then x else (accAdd old x).1) % 2 ^ 32

/-! ## Requests at the home -/

/-- A line at which nothing stands in a request's way but the directory: it has a home, no move, UNBACK or tier access holds it, its
channel is not retraining and no combined atomic is due there. -/
def State.LineFree (s : State) (line : Nat) : Prop :=
  (s.cell (line * 64)).isSome ∧ s.lineHeld line = false ∧ s.slowLine line = false ∧ s.combinesOf line = []

/-- The arbiter takes a request now: no earlier request comes before it, its line is free, and nothing refuses it (R47, R102, R201,
R216). -/
def State.Taken (s : State) (q : LineReq) : Prop :=
  (s.waitq.any fun x => s.comesBefore x q) = false ∧ s.LineFree q.line ∧ s.refusal q = none ∧ s.domainHolds q = false

/-- A request of an engine under a context is served at once at a line: nothing waits there, no host holds it, and the checks at its
acceptance pass (R47, R76, R208). -/
def State.ServesNow (s : State) (ctx line : Nat) (write : Bool) : Prop :=
  s.LineFree line ∧ (∀ x ∈ s.waitq, x.line ≠ line) ∧ SMap.find s.dir line = none ∧
  s.grantedNow ctx (line * 64) write = true ∧ s.placeCheck (line * 64) = .ok ∧ (write = false → s.sliceFull line = false)

/-- Nothing is held in the name of the task that comes next. -/
def State.FreshTask (s : State) : Prop :=
  (∀ e ∈ s.tier.pageHold, e.2 ≠ s.nextTask) ∧ ∀ e ∈ s.tier.serving, e.1 ≠ s.nextTask

/-- A read of this module under context 0x0000 is served at once (R42, R46, R119): `len` bytes of one line at store address a are
`d`. -/
def State.TableRead (s : State) (a len : Nat) (d : List Byte) : Prop :=
  s.whither a = 1 ∧ ∃ l n rest, s.homeCheck .steward 0 s.epoch (a % 2 ^ 50) len false = .ok ((l, n) :: rest) ∧
    s.readmit 0 false [(l, len)] = .ok ∧ s.ServesNow 0 (l / 64) false ∧ s.linePoison (l / 64) = false ∧
    d = ((s.readLine (l / 64)).drop (a % 64)).take len

/-- The table at a store address maps a virtual address from a level down, by entries that can be read at once: the leaf's level and
word (R50, R53). -/
def State.Maps (s : State) (va : Nat) (hostOk : Bool) : Nat → Nat → Nat × Nat → Prop
  | 0, _, _ => False
  | level + 1, table, r => ∃ d, s.TableRead (table + 8 * (vpnAt va (level + 1) % 512)) 8 d ∧
      let e := fieldLE d 0 8
      bit e 0 = true ∧ malformed (level + 1) e hostOk = false ∧
      if bit e 4 then bits e 7 6 ≠ 3 ∧ r = (level + 1, e) else s.Maps va hostOk level (bits e 55 12 * 2 ^ 12) r

/-- Bytes of module-local ranges, line by line. -/
def State.bytesOf (s : State) (ps : List (Nat × Nat)) : List Byte :=
  ps.flatMap fun p => (cut 64 p.1 p.2).flatMap fun w => ((s.readLine (w.1 / 64)).drop (w.1 % 64)).take w.2

/-- The line writes that a masked write of a request's bytes makes at its module-local ranges: line, mask, bytes. -/
def lineWrites (ps : List (Nat × Nat)) (mask : Nat) (data : List Byte) : List (Nat × Nat × List Byte) :=
  (chunksOf ps).flatMap fun c => (cut 64 c.1 c.2.1).map fun w =>
    let at_ := c.2.2 + (w.1 - c.1)
    (w.1 / 64, mask / 2 ^ at_ % 2 ^ w.2 * 2 ^ (w.1 % 64), List.replicate (w.1 % 64) 0 ++ (data.drop at_).take w.2)

/-- Line writes performed one after another. -/
def State.written (s : State) (ws : List (Nat × Nat × List Byte)) : State :=
  ws.foldl (fun s w => (s.perform w.1 (.write w.2.1 w.2.2)).1) s

/-- The host and the request that a CXL.mem command brings (R203, 06 "The message set"): No-Op asks as I; nothing for a reserved
MetaValue, nor for a partial write with S or A. -/
def hostOpOf : Instr → Option (HostMsg × HostOp)
  | .memRd r mv => match mv with
    | .a => some (r, .rdA) | .s => some (r, .rdS) | .i | .noOp => some (r, .rdI) | .reserved => none
  | .memRdData r => some (r, .rdS)
  | .memInv r mv => match mv with
    | .a => some (r, .invA) | .s | .i | .noOp => some (r, .invN) | .reserved => none
  | .memWr r mv d p => match mv with
    | .reserved => none
    | .i | .noOp => some (r, .wr fullMask (fitBytes 64 d) p .i)
    | .a => some (r, .wr fullMask (fitBytes 64 d) p .a)
    | .s => some (r, .wr fullMask (fitBytes 64 d) p .s)
  | .memWrPtl r mv mask d => match mv with
    | .i | .noOp => some (r, .wr mask.toNat (fitBytes 64 d) false .i)
    | _ => none
  | _ => none

/-! ## Memories -/

/-- The canonical form of a memory: addresses strictly rising, no entry equal to what an unlisted address reads as. -/
abbrev Memory.wf (m : List Host.Cell) : Prop := SMap.wf m 0 = true

/-- The tiers' memory and the scratchpad are in canonical form. -/
def State.MemoriesWf (s : State) : Prop := Memory.wf s.tier.mem ∧ Memory.wf s.pad.mem

/-! ## The recorder -/

/-- Every record of the old flash is in the new one, as it was (R528). -/
def Kept (old new : SMap Rec) : Prop := ∀ k r, SMap.find old k = some r → SMap.find new k = some r

/-- The recorder's flash: positions strictly rising, each record at the position of its SEQ, none on its way. -/
def State.RecorderOk (s : State) : Prop :=
  SMap.rising s.flash.records = true ∧ (∀ k r, SMap.find s.flash.records k = some r → r.seq = k) ∧ s.Quiet

/-! ## Runs -/

/-- A state is reached from another by steps that answer. -/
inductive Reaches : State → State → Prop where
  | refl (s : State) : Reaches s s
  | tail {s t u : State} : Reaches s t → step t = .next u → Reaches s u

end Sys2Proof.Machine
end

