-- ==== Sys2Proof/Certificates/Slice0/Obligations.lean ====
section
/-! DEFINITION. The statements about the module, one for each family of commands and each kind of state, with the step, the
clock and the recorder. `s.Quiet` (no record is on its way to flash) holds after every step: `RecorderInvariant`. -/

open Sys2Proof Sys2Proof.Machine

/-! ## The step, the clock, the recorder -/

/-- A step with a command at the front of the queue is that command's effect on the state with the queue's rest. -/
def Obligations.StepRunsFront : Prop :=
  ∀ (c : Instr) (rest : List Instr) (s : State), s.pending = c :: rest → step s = exec c { s with pending := rest }

/-- The model's choice (log 2): with no command waiting a step is one tick of `MODULE_TICK`, in which only shaper credits
change. -/
def Obligations.IdleStepTicks : Prop :=
  ∀ s : State, s.pending = [] →
    ∃ shp, step s = .next { s with tick := s.tick + 1, qos := { s.qos with shp := shp } }

/-- Every command answers a next state in every state: none faults and none is refused. It leaves the queue of waiting
commands and what manufacture fixed as they are. -/
def Obligations.EveryCommandAnswers : Prop :=
  ∀ (c : Instr) (s : State), ∃ t, exec c s = .next t ∧ t.pending = s.pending ∧ t.fixed = s.fixed ∧ t.ras.toFlash = []

/-- R158: no step moves `MODULE_TICK` backward but POWER_UP, which alone clears it; `GLB_TICK` shows it modulo 2^64, which
nanoseconds reach after 584 years. -/
def Obligations.TickNeverBackward : Prop :=
  (∀ s t : State, step s = .next t → s.tick ≤ t.tick ∨ ∃ img rest, s.pending = .powerUp img :: rest ∧ t.tick = 0) ∧
  (∀ (s : State) (via : Via), s.served via = true → s.mayRead via Reg.GLB_TICK.off = true →
    s.readBar0 via 8 Reg.GLB_TICK.off = some (s.tick % 2 ^ 64)) ∧
  2 ^ 64 / (10 ^ 9 * 60 * 60 * 24 * 365) = 584

/-- R528: no position of the recorder's flash that holds a record is ever programmed again: over any run every record stays
as it was. -/
def Obligations.RecordsNeverRewritten : Prop :=
  ∀ s t : State, Reaches s t → Kept s.flash.records t.flash.records

/-- The recorder's flash keeps its form in every step: positions rising, each record at the position its SEQ names, none on
its way. -/
def Obligations.RecorderInvariant : Prop :=
  ∀ s t : State, s.RecorderOk → step s = .next t → t.RecorderOk

/-- Right after reset no command waits, the clock is at zero, no work runs, the module is without power, every register reads
the value the register map gives it, and the recorder's invariant and the canonical form of the memories hold. Where the spec
gives a register no reset value the map holds the model's choice (log 8). -/
def Obligations.ResetState : Prop :=
  let s := State.reset
  s.pending = [] ∧ s.tick = 0 ∧ s.tasks = [] ∧ s.power = 0 ∧ (∀ r, s.reg r = r.rst % 2 ^ 64) ∧ s.RecorderOk ∧ s.MemoriesWf

/-! ## Lines and scratchpad words -/

/-- R509: a write of all 64 bytes of a line that has a home clears its poison; a partial write of a poisoned line
completes normally and leaves it poisoned; an atomic on a poisoned line answers `ST_POISON` and has no effect. -/
def Obligations.PoisonOfLines : Prop :=
  ∀ (s : State) (line : Nat), (s.cell (line * 64)).isSome →
    (∀ d, (s.perform line (.write fullMask d)).1.linePoison line = false) ∧
    (s.linePoison line = true →
      (∀ mask d, mask ≠ fullMask → (s.perform line (.write mask d)).2.st = .ok ∧
        (s.perform line (.write mask d)).1.linePoison line = true) ∧
      ∀ subop width off op1 op2, s.perform line (.atomic subop width off op1 op2) = (s, { st := .poison }))

/-- A read of a line after a write of all of it gives what was written, in an encrypted region too (R486): for every state
in which the line has a home.
The frame of an access to a line: every byte of memory outside the line's 64 cells, every other line's poison mark and
every other part of the state are as they were; a line without a home answers `ST_INVALID` and changes nothing; and the
memory keeps its canonical form. -/
def Obligations.LineAccesses : Prop :=
  (∀ (s : State) (line : Nat) (d : List Byte), (s.cell (line * 64)).isSome → d.length = 64 →
    (s.perform line (.write fullMask d)).1.perform line .read =
      ((s.perform line (.write fullMask d)).1, { data := d })) ∧
  (∀ (s : State) (line : Nat) (op : LineOp),
    (s.cell (line * 64) = none → s.perform line op = (s, { st := .invalid })) ∧
    ∀ c, s.cell (line * 64) = some c →
      (∀ a, a < c ∨ c + 64 ≤ a → SMap.get (s.perform line op).1.tier.mem a 0 = SMap.get s.tier.mem a 0) ∧
      (∀ k, k ≠ c / 64 → SMap.get (s.perform line op).1.tier.poison k false = SMap.get s.tier.poison k false) ∧
      (∃ m p, (s.perform line op).1 = { s with tier := { s.tier with mem := m, poison := p } }) ∧
      (Memory.wf s.tier.mem → Memory.wf (s.perform line op).1.tier.mem))

/-- An atomic on a line that is not poisoned answers the old value of its bytes, replaces them by the operation's value and
leaves the line's other bytes as they were (R184).
What the eleven operations of ATOMIC compute on operands of the width (R184, R187): sum, bitwise and, or and exclusive
or, the lesser and the greater of two signed and of two unsigned numbers, the new operand, the new operand if the old value
equals OP2, and the sum of two FP32 numbers. -/
def Obligations.AtomicsOnLines : Prop :=
  (∀ (s : State) (line subop width off op1 op2 : Nat), (s.cell (line * 64)).isSome → s.linePoison line = false →
    0 < width → off + width ≤ 64 → subop ≤ 10 →
    (width = 4 ∨ (width = 8 ∧ subop ≠ 10)) →
    ∃ t a, s.perform line (.atomic subop width off op1 op2) = (t, a) ∧ a.st = .ok ∧
      a.val = fieldLE (s.readLine line) off width ∧
      fieldLE (t.readLine line) off width = atomicNew subop width (fieldLE (s.readLine line) off width) op1 op2 ∧
      ∀ i, i < off ∨ off + width ≤ i → (t.readLine line).getD i 0 = (s.readLine line).getD i 0) ∧
  (∀ (width old op1 op2 : Nat), width = 4 ∨ width = 8 → old < 2 ^ (8 * width) → op1 < 2 ^ (8 * width) → op2 < 2 ^ (8 * width) →
    let f := fun subop => atomicNew subop width old op1 op2
    let sg := signed (8 * width)
    (∀ subop, subop ≤ 9 → f subop < 2 ^ (8 * width)) ∧
    f 0 = (old + op1) % 2 ^ (8 * width) ∧
    (∀ i, (f 1).testBit i = (old.testBit i && op1.testBit i)) ∧
    (∀ i, (f 2).testBit i = (old.testBit i || op1.testBit i)) ∧
    (∀ i, (f 3).testBit i = (old.testBit i ^^ op1.testBit i)) ∧
    sg (f 4) = min (sg old) (sg op1) ∧ sg (f 5) = max (sg old) (sg op1) ∧
    f 6 = min old op1 ∧ f 7 = max old op1 ∧ f 8 = op1 ∧
    (old = op2 → f 9 = op1) ∧ (old ≠ op2 → f 9 = old) ∧ f 10 = add32 old op1)

/-- A whole scratchpad word written reads back and is no longer poisoned (R235); a write within the bytes of a word leaves
every byte outside it as it was, and the scratchpad keeps its canonical form. -/
def Obligations.ScratchpadWords : Prop :=
  ∀ (s : State) (off : Nat) (d : List Byte),
    (s.padPut off d).padBytes off d.length = d ∧
    (∀ a, a < off ∨ off + d.length ≤ a → SMap.get (s.padPut off d).pad.mem a 0 = SMap.get s.pad.mem a 0) ∧
    (d.length = 64 → (s.padPut off d).wordPoison off = false) ∧
    (Memory.wf s.pad.mem → Memory.wf (s.padPut off d).pad.mem)

/-! ## Registers and queues -/

/-- REGISTER_WRITE (R10): an aligned 64-bit write that reaches a register without behaviour of its own sets its RW fields,
clears in its RW1C fields the bits written as 1, sets its SRW fields for a secure access alone, and leaves RO and WO
fields, every other register and all else as they were. -/
def Obligations.RegisterWriteByAccessType : Prop :=
  ∀ (via : Via) (off : BitVec 26) (v : Word) (s : State) (row : RegRow) (r : RegId), s.Quiet →
    findReg off.toNat = some (row, r) → handlers.find? (fun h => h.1 = row.base) = none → off.toNat % 8 = 0 →
    s.mayWrite via off.toNat = true → s.absentAt off.toNat = false →
    ∃ t, exec (.registerWrite via 8 off v) s = .next t ∧ s.OnlyReg t r ∧
      ∀ f ∈ row.flds, match f.acc with
        | .rw | .rwl => t.fld r f = f.get v.toNat
        | .rw1c => ∀ i, (t.fld r f).testBit i = ((s.fld r f).testBit i && !(f.get v.toNat).testBit i)
        | .srw => t.fld r f = if s.secureVia via then f.get v.toNat else s.fld r f
        | .ro | .wo => t.fld r f = s.fld r f

/-- R8: registers are 64 bits wide; a write of any other width or alignment changes nothing, and a read of any other
width or alignment gives zero. -/
def Obligations.RegisterAccessWidth : Prop :=
  ∀ s : State, (∀ r, s.reg r < 2 ^ 64) ∧
    ∀ (via : Via) (bytes : Nat) (off : BitVec 26) (v : Word), bytes ≠ 8 ∨ off.toNat % 8 ≠ 0 →
      (s.Quiet → exec (.registerWrite via bytes off v) s = .next s) ∧
      (s.served via = true → s.readBar0 via bytes off.toNat = some 0)

/-- A served BAR2 doorbell that is not refused takes its low 16 bits as the queue's tail or completion head when they are
in the ring (R120), and only sets DB_RANGE when they are not (R121); a refused one only sets DB_DROP (R122). -/
def Obligations.QueueDoorbells : Prop :=
  ∀ (h : Fin 4) (q : Fin 4096) (v : Word) (s : State), s.Quiet → s.served (.head h) = true →
    let sq := exec (.sqTailDoorbell h q v) s
    let cq := exec (.cqHeadDoorbell h q v) s
    let x := v.toNat % 2 ^ 16
    (s.refusesBar2 h q.val = true →
      ∃ t, sq = .next t ∧ cq = .next t ∧ s.OnlyReg t (Reg.Q_STATE q.val) ∧
        t.fld (Reg.Q_STATE q.val) Reg.Q_STATE_DB_DROP = 1) ∧
    (s.refusesBar2 h q.val = false →
      (x < s.sqLen q.val → sq = .next (s.setQueue q.val { s.queue q.val with dbTail := x })) ∧
      (x < s.cqLen q.val → cq = .next (s.setQueue q.val { s.queue q.val with cqHead := x })) ∧
      (s.sqLen q.val ≤ x → ∃ t, sq = .next t ∧ s.OnlyReg t (Reg.Q_STATE q.val) ∧
        t.fld (Reg.Q_STATE q.val) Reg.Q_STATE_DB_RANGE = 1) ∧
      (s.cqLen q.val ≤ x → ∃ t, cq = .next t ∧ s.OnlyReg t (Reg.Q_STATE q.val) ∧
        t.fld (Reg.Q_STATE q.val) Reg.Q_STATE_DB_RANGE = 1))

/-- QUEUE_ENABLE (R115): a write of EN = 1 to a DISABLED queue whose context and world permit it makes the queue RUNNING
with its pointers and stop cause cleared and its ring positions and phase restarted; if they do not permit it, the queue
stays DISABLED with STOP_CAUSE 6. QUEUE_DISABLE (R116): a write of EN = 0 to a STOPPED queue makes it DISABLED, discards
what was fetched, clears its flags and drops its steep-cache lines. -/
def Obligations.QueueEnableAndDisable : Prop :=
  (∀ (via : Via) (q : Fin 4096) (v : Word) (s : State),
    s.mayWrite via (Reg.Q_CFG q.val).off = true → s.qState q.val = 0 → Reg.Q_CFG_EN.get v.toNat = 1 →
    ∃ t, exec (.queueEnable via q v) s = .next t ∧
      if (s.writePlain (s.secureVia via) (Reg.Q_CFG q.val) [Reg.Q_CFG_EN] v.toNat).mayEnable q.val then
        t.queue q.val = {} ∧ t.flag (Reg.Q_CFG q.val) Reg.Q_CFG_EN = true ∧ t.qState q.val = 1 ∧
        t.fld (Reg.Q_STATE q.val) Reg.Q_STATE_SQ_HEAD = 0 ∧ t.fld (Reg.Q_STATE q.val) Reg.Q_STATE_CQ_TAIL = 0 ∧
        t.fld (Reg.Q_STATE q.val) Reg.Q_STATE_STOP_CAUSE = 0 ∧ t.fld (Reg.Q_STATE q.val) Reg.Q_STATE_STOP_STATUS = 0
      else t.qState q.val = 0 ∧ t.fld (Reg.Q_STATE q.val) Reg.Q_STATE_STOP_CAUSE = 6) ∧
  (∀ (via : Via) (q : Fin 4096) (v : Word) (s : State),
    s.mayWrite via (Reg.Q_CFG q.val).off = true → s.qState q.val = 3 → Reg.Q_CFG_EN.get v.toNat = 0 →
    ∃ t, exec (.queueDisable via q v) s = .next t ∧
      t.queue q.val = {} ∧ t.flag (Reg.Q_CFG q.val) Reg.Q_CFG_EN = false ∧ t.qState q.val = 0 ∧
      t.fld (Reg.Q_STATE q.val) Reg.Q_STATE_DB_DROP = 0 ∧ t.fld (Reg.Q_STATE q.val) Reg.Q_STATE_DB_RANGE = 0 ∧
      t.fld (Reg.Q_STATE q.val) Reg.Q_STATE_CQ_STALL = 0 ∧
      ∀ e : Eng, engHasSteep e = true → ∀ x ∈ t.steepOf e, x.tag = q.val → x.sub = true)

/-- ABORT (R146, R148) on a RUNNING queue: the queue stops with cause 4, each of its started descriptors that has not ended
is to end with `ST_ABORTED`, and work goes on from there. RESUME (R148) on a STOPPED queue: RUNNING, its stop cause and
status cleared, all else as it was. QUEUE_STOPPED (R147): a STOPPING queue with no started descriptor, nothing fetched and
no record due is STOPPED, and after containment its steep-cache lines are gone. -/
def Obligations.QueueStopAndResume : Prop :=
  (∀ (via : Via) (q : Fin 4096) (s : State), s.mayWrite via (Reg.Q_CTL q.val).off = true → s.qState q.val = 1 →
    ∃ u : State, exec (.abort via q) s = .next (settle s u.go) ∧
      u = ((s.descsOf q.val).foldl (fun x d => x.killTask d.1 .aborted) (s.stopQueue q.val 4 0)) ∧
      u.qState q.val = 2 ∧ u.fld (Reg.Q_STATE q.val) Reg.Q_STATE_STOP_CAUSE = 4) ∧
  (∀ (via : Via) (q : Fin 4096) (s : State), s.Quiet → s.mayWrite via (Reg.Q_CTL q.val).off = true → s.qState q.val = 3 →
    ∃ t, exec (.resume via q) s = .next t ∧ s.OnlyReg t (Reg.Q_STATE q.val) ∧ t.qState q.val = 1 ∧
      t.fld (Reg.Q_STATE q.val) Reg.Q_STATE_STOP_CAUSE = 0 ∧ t.fld (Reg.Q_STATE q.val) Reg.Q_STATE_STOP_STATUS = 0 ∧
      t.fld (Reg.Q_STATE q.val) Reg.Q_STATE_SQ_HEAD = s.fld (Reg.Q_STATE q.val) Reg.Q_STATE_SQ_HEAD) ∧
  (∀ (q : Fin 4096) (s : State), s.Quiet → s.qState q.val = 2 → s.descsOf q.val = [] →
    (s.queue q.val).fetching = false → (s.queue q.val).fetched = [] → (s.queue q.val).due = [] →
    s.flag (Reg.Q_IRQ q.val) Reg.Q_IRQ_EN = false →
    ∃ t, exec (.queueStopped q) s = .next t ∧ t.qState q.val = 3 ∧ t.queue q.val = s.queue q.val ∧
      (∀ r : RegId, r.off ≠ (Reg.Q_STATE q.val).off → t.reg r = s.reg r) ∧
      (s.fld (Reg.Q_STATE q.val) Reg.Q_STATE_STOP_CAUSE ≠ 5 → t.steep = s.steep) ∧
      (s.fld (Reg.Q_STATE q.val) Reg.Q_STATE_STOP_CAUSE = 5 →
        ∀ e : Eng, engHasSteep e = true → ∀ x ∈ t.steepOf e, x.tag = q.val → x.sub = true) ∧
      ∃ w x y, t = { s with regs := w, queues := x, steep := y })

/-- SLOT_FETCH (R124) of a queue that may fetch. A ring in host memory: the slot's 64 bytes are asked for through the ring's
head. A ring in the store: the fetch joins the requests of the line's slice, while the slice can hold a further one (R208). A ring
that cannot be reached stops the queue with cause 2 (R145). -/
def Obligations.SlotFetchReadsOneSlot : Prop :=
  ∀ (q : Fin 4096) (s : State), s.mayFetch q.val = true →
    let r := Reg.Q_SQ_BASE q.val
    let h := s.fld r Reg.Q_SQ_BASE_HEAD
    let a := s.fld r Reg.Q_SQ_BASE_ADDR * 2 ^ 12 + 64 * s.fld (Reg.Q_STATE q.val) Reg.Q_STATE_SQ_HEAD
    let s1 := s.setQueue q.val { s.queue q.val with fetching := true }
    (s.fld r Reg.Q_SQ_BASE_HOSTMEM = 1 → s.canDma h = true →
      ∃ t, exec (.slotFetch q) s = .next t ∧ (t.queue q.val).fetching = true ∧
        SMap.find t.dmas s.nextDma = some ⟨h, a, 64, .fetch q.val, s.tick⟩ ∧ t.out.hostRd = s.out.hostRd ++ [(h, a, 64)] ∧
        t.regs = s.regs ∧ t.tier = s.tier ∧ t.tasks = s.tasks) ∧
    (s.fld r Reg.Q_SQ_BASE_HOSTMEM = 0 → ∀ l, s1.ringLocal a 64 false = some l →
      (s.sliceFull (l / 64) = false →
        exec (.slotFetch q) s = .next (settle s (s1.submit (ringReq l 64 (.fetch q.val))))) ∧
      (s.sliceFull (l / 64) = true → s.Quiet → exec (.slotFetch q) s = .next s)) ∧
    ((s.fld r Reg.Q_SQ_BASE_HOSTMEM = 1 ∧ s.canDma h = false) ∨
        (s.fld r Reg.Q_SQ_BASE_HOSTMEM = 0 ∧ s1.ringLocal a 64 false = none) →
      ∃ t, exec (.slotFetch q) s = .next t ∧ t.qState q.val = 2 ∧ t.fld (Reg.Q_STATE q.val) Reg.Q_STATE_STOP_CAUSE = 2)

/-- DESCRIPTOR_COMPLETE (R133, R145): an ended descriptor leaves the running ones; its record is due when it asks for one
or did not end `ST_OK`; an end other than `ST_OK` stops a RUNNING queue that has STOP_ON_ERR with cause 1 and the
descriptor's status. Work that waited for it goes on from there.
COMPLETION_RECORD_WRITE (R137 to R139) with a record due: with no room it waits and CQ_STALL is set; with room in a
ring in host memory, bytes 4 to 31 of the record are written first and its first 4 bytes last, and CQ_TAIL advances. -/
def Obligations.DescriptorsComplete : Prop :=
  (∀ (d : DescRef) (s : State) (id : Nat) (t : Task) (f : Fin_),
    s.findDesc d (fun t => t.fin.isSome) = some (id, t) → t.fin = some f →
    (∀ e ∈ s.tier.pageHold, e.2 ≠ id) → (∀ e ∈ s.tier.serving, e.1 ≠ id) →
    ∃ u : State, exec (.descriptorComplete d) s = .next (settle s u.go) ∧ SMap.find u.tasks id = none ∧
      (∀ k, k ≠ id → SMap.find u.tasks k = SMap.find s.tasks k) ∧
      (u.queue d.q.val).due = (s.queue d.q.val).due ++
        (if (dCmpl t.bytes || f.st ≠ .ok) && !(s.queue d.q.val).noRecords then
          [⟨d.slot.toNat, d.half, dOpcode t.bytes, dTag t.bytes, dIrq t.bytes, f⟩] else []) ∧
      (f.st = .ok ∨ s.flag (Reg.Q_CFG d.q.val) Reg.Q_CFG_STOP_ON_ERR = false → u.regs = s.regs) ∧
      (f.st ≠ .ok → s.flag (Reg.Q_CFG d.q.val) Reg.Q_CFG_STOP_ON_ERR = true → s.qState d.q.val = 1 →
        u.qState d.q.val = 2 ∧ u.fld (Reg.Q_STATE d.q.val) Reg.Q_STATE_STOP_CAUSE = 1 ∧
        u.fld (Reg.Q_STATE d.q.val) Reg.Q_STATE_STOP_STATUS = f.st.code)) ∧
  (∀ (q : Fin 4096) (s : State) (d : Due) (rest : List Due), (s.queue q.val).due = d :: rest →
    s.ringBusy.contains (3 + q.val) = false → s.live = true →
    let r := Reg.Q_CQ_BASE q.val
    let h := s.fld r Reg.Q_CQ_BASE_HEAD
    let tail := s.fld (Reg.Q_STATE q.val) Reg.Q_STATE_CQ_TAIL
    let a := s.fld r Reg.Q_CQ_BASE_ADDR * 2 ^ 12 + 32 * tail
    let b := s.cqRecord q.val d
    (s.cqRoom q.val = false → s.Quiet → ∃ t, exec (.completionRecordWrite q) s = .next t ∧
      s.OnlyReg t (Reg.Q_STATE q.val) ∧ t.fld (Reg.Q_STATE q.val) Reg.Q_STATE_CQ_STALL = 1) ∧
    (s.cqRoom q.val = true → s.fld r Reg.Q_CQ_BASE_HOSTMEM = 1 → s.canDma h = true →
      ∃ t, exec (.completionRecordWrite q) s = .next t ∧
        t.out.hostWr = s.out.hostWr ++ [⟨h, a, 2 ^ 32 - 1 - 15, b, false, true⟩, ⟨h, a, 15, b, false, false⟩] ∧
        (t.queue q.val).due = rest ∧
        t.fld (Reg.Q_STATE q.val) Reg.Q_STATE_CQ_TAIL = (tail + 1) % s.cqLen q.val ∧
        t.tier = s.tier ∧ t.tasks = s.tasks))

/-- IRQ_TIME_EXPIRY (R149): TIME after its first record not signalled, an enabled queue raises its vector and counts
afresh. MSIX_UNMASK (R150): unmasking a vector that is pending sends one message and clears it; one that is not pending is
unmasked and sends none. DEADLINE_EXPIRY (R135): a running descriptor whose DEADLINE has passed since it started is to end
with `ST_TIMEOUT`, issues nothing more, and goes on to its end; one that waits for its Kettle has not started (R296). -/
def Obligations.InterruptsAndDeadlines : Prop :=
  (∀ (q : Fin 4096) (s : State), s.flag (Reg.Q_IRQ q.val) Reg.Q_IRQ_EN = true →
    s.fld (Reg.Q_IRQ q.val) Reg.Q_IRQ_TIME ≠ 0 → 0 < (s.queue q.val).unsignalled →
    (s.queue q.val).firstAt + 1000 * s.fld (Reg.Q_IRQ q.val) Reg.Q_IRQ_TIME ≤ s.tick →
    let h := s.fld (Reg.Q_IRQ q.val) Reg.Q_IRQ_VEC_HEAD
    let v := s.fld (Reg.Q_IRQ q.val) Reg.Q_IRQ_VECTOR
    ∃ t, exec (.irqTimeExpiry q) s = .next t ∧ (t.queue q.val).unsignalled = 0 ∧ t.regs = s.regs ∧
      (s.fld (Reg.HEAD_STAT h) Reg.HEAD_STAT_IN_RESET ≠ 1 → SMap.get (s.head h).unmasked v false = true →
        (s.head h).bme = true → t.out.msix = s.out.msix ++ [(h, v)])) ∧
  (∀ (h : Fin 4) (vec : Fin 2048) (s : State),
    ∃ t, exec (.msixUnmask h vec) s = .next t ∧ t.regs = s.regs ∧
      SMap.get (t.head h.val).unmasked vec.val false = true ∧
      (SMap.get (s.head h.val).pend vec.val false = false → t.out.msix = s.out.msix) ∧
      (SMap.get (s.head h.val).pend vec.val false = true → (s.head h.val).bme = true →
        s.fld (Reg.HEAD_STAT h.val) Reg.HEAD_STAT_IN_RESET ≠ 1 →
        t.out.msix = s.out.msix ++ [(h.val, vec.val)] ∧ SMap.get (t.head h.val).pend vec.val false = false)) ∧
  (∀ (d : DescRef) (s : State) (id : Nat) (t : Task), s.findDesc d (fun t => t.fin.isNone) = some (id, t) →
    SMap.find s.tasks id = some t → t.kill = none → t.ending = none →
    dDeadline t.bytes ≠ 0 → t.start + 1000 * dDeadline t.bytes ≤ s.tick →
    (s.atKettle id = false →
      exec (.deadlineExpiry d) s = .next (settle s (s.setTask id { t with kill := some .timeout }).go)) ∧
    (s.atKettle id = true → s.Quiet → exec (.deadlineExpiry d) s = .next s))

/-- A descriptor's row takes its queue's oldest fetched descriptor when that descriptor is the row's, may start and has its
turn. Then the queue's fetched ones are the rest, and the descriptor runs as task `s.nextTask`: one that fails a check of
R128 has ended with that check's status, one without a place has ended with the placing's, and one that passes has its
bytes, its queue's context, no end yet and an engine of those that may take it, and work goes on. -/
def Obligations.DescriptorStarts : Prop :=
  ∀ c ∈ ([(.nop, isOp 0x00), (.fence, isOp 0x01), (.acquire, isSub 0x02 (· ≤ 2) 0), (.acquireAtLeast, isSub 0x02 (· ≤ 2) 1),
      (.acquireNoWait, isSub 0x02 (· ≤ 2) 2), (.releaseStore, isSub 0x03 (· ≤ 1) 0), (.releaseAdd, isSub 0x03 (· ≤ 1) 1),
      (.flushRange, isOp 0x04), (.invalRange, isOp 0x05), (.copy, isOp 0x10), (.copy2d, isOp 0x11), (.gatherRows, isOp 0x12),
      (.atomicAdd, isSub 0x20 (· ≤ 10) 0), (.atomicAnd, isSub 0x20 (· ≤ 10) 1), (.atomicOr, isSub 0x20 (· ≤ 10) 2),
      (.atomicXor, isSub 0x20 (· ≤ 10) 3), (.atomicMinSigned, isSub 0x20 (· ≤ 10) 4),
      (.atomicMaxSigned, isSub 0x20 (· ≤ 10) 5), (.atomicMinUnsigned, isSub 0x20 (· ≤ 10) 6),
      (.atomicMaxUnsigned, isSub 0x20 (· ≤ 10) 7), (.atomicSwap, isSub 0x20 (· ≤ 10) 8),
      (.atomicCompareSwap, isSub 0x20 (· ≤ 10) 9), (.atomicFadd, isSub 0x20 (· ≤ 10) 10),
      (.attnDecodeExact, isSub 0x30 (· ≤ 1) 0), (.attnDecodeBounded, isSub 0x30 (· ≤ 1) 1), (.blendMerge, isOp 0x32),
      (.kvAppend, isOp 0x33), (.ktlRun, isOp 0x34), (.gkoSearch, isOp 0x40), (.gkoInsert, isOp 0x41), (.gkoDelete, isOp 0x42),
      (.gkoMerge, isOp 0x43), (.embGather, isOp 0x50), (.embUpdate, isOp 0x51), (.embSwitchInstall, isSub 0x52 (· ≤ 2) 0),
      (.embSwitchAndDrain, isSub 0x52 (· ≤ 2) 1), (.embSwitchWait, isSub 0x52 (· ≤ 2) 2), (.rehome, isMode 0), (.back, isMode 1),
      (.unback, isMode 2), (.stageIn, isMode 3), (.stageOut, isMode 4), (.survey, isMode 5), (.xltShootdown, isOp 0x70),
      (.xltSync, isOp 0x71), (.invalidOpcode, fun b => !opcodes.contains (dOpcode b))] :
        List ((Fin 4096 → Instr) × (List Byte → Bool))),
    ∀ (q : Fin 4096) (s : State) (d : FDesc) (rest : List FDesc), (s.queue q.val).fetched = d :: rest →
      c.2 d.normal = true → s.eligible q.val = true → s.inTurn q.val = true →
      ∃ u : State, (u.queue q.val).fetched = rest ∧ u.nextTask = s.nextTask + 1 ∧
        (u.task s.nextTask).kind = .desc q.val d.slot d.half d.tad ∧ (u.task s.nextTask).bytes = d.normal ∧
        (u.task s.nextTask).ctx = s.fld (Reg.Q_CFG q.val) Reg.Q_CFG_CTX ∧ (u.task s.nextTask).start = s.tick ∧
        (∀ st, s.descCheck q.val d = st → st ≠ .ok →
          exec (c.1 q) s = .next (settle s u) ∧ (u.task s.nextTask).fin = some { st := st }) ∧
        (s.descCheck q.val d = .ok →
          (∀ st, s.placing q.val d.normal = .error st →
            exec (c.1 q) s = .next (settle s u) ∧ (u.task s.nextTask).fin = some { st := st }) ∧
          (∀ l, s.placing q.val d.normal = .ok l →
            exec (c.1 q) s = .next (settle s u.go) ∧ (u.task s.nextTask).fin = none ∧
            match l with
            | none => (u.task s.nextTask).eng = none
            | some es => ∃ e ∈ es, (u.task s.nextTask).eng = some e))

/-- What a running descriptor does, by its opcode and mode: the program that the task of the row runs. One that occupies a
Kettle waits there for its turn first (R296), and on an engine with a steep cache the lines that another engine may have
overtaken go first (R165), with KTL_RUN those of the paired Newt too. -/
def Obligations.DescriptorPrograms : Prop :=
  ∀ (e : Eng) (q : Nat) (b : List Byte),
    let runs := fun p => descProg e q b =
      (do if occupies (dOpcode b) then enterKettle e.idx.val (progId (dOpcode b))
          if engHasSteep e && runsOn (dOpcode b) ≠ none then
            startOn e q
            if dOpcode b = 0x34 then startOn ⟨.newt, e.idx⟩ q
          p)
    (isOp 0x00 b → runs (pure ())) ∧ (isOp 0x01 b → runs (pure ())) ∧ (isOp 0x02 b → runs (acquireProg e q b)) ∧
    (isOp 0x03 b → runs (releaseProg e q b)) ∧ (isOp 0x04 b → runs (rangeProg q b false)) ∧
    (isOp 0x05 b → runs (rangeProg q b true)) ∧ (isOp 0x10 b → runs (copyProg e b)) ∧ (isOp 0x11 b → runs (copy2dProg e b)) ∧
    (isOp 0x12 b → runs (gatherProg e b)) ∧ (isOp 0x20 b → runs (atomicProg e q b)) ∧ (isOp 0x30 b → runs (attnProg e b)) ∧
    (isOp 0x32 b → runs (blendProg e b)) ∧ (isOp 0x33 b → runs (kvAppendProg e b)) ∧
    (isOp 0x34 b → runs (ktlRunProg e.idx.val b)) ∧ (isOp 0x40 b → runs (gkoSearchProg e b)) ∧
    (isOp 0x41 b → runs (gkoInsertProg e b)) ∧ (isOp 0x42 b → runs (gkoDeleteProg e b)) ∧
    (isOp 0x43 b → runs (gkoMergeProg e b)) ∧ (isOp 0x50 b → runs (embGatherProg e b)) ∧
    (isOp 0x51 b → runs (embUpdateProg e b)) ∧
    (isOp 0x52 b → dSubop b = 0 → runs (embInstall b false)) ∧ (isOp 0x52 b → dSubop b = 1 → runs (embInstall b true)) ∧
    (isOp 0x52 b → dSubop b = 2 → runs (embWait b)) ∧
    (isOp 0x60 b → bits (dOp b 0) 3 0 = 0 → runs (rehomeProg b)) ∧ (isOp 0x60 b → bits (dOp b 0) 3 0 = 1 → runs (backProg b)) ∧
    (isOp 0x60 b → bits (dOp b 0) 3 0 = 2 → runs (unbackProg b)) ∧
    (isOp 0x60 b → bits (dOp b 0) 3 0 = 3 → runs (stageProg e b true)) ∧
    (isOp 0x60 b → bits (dOp b 0) 3 0 = 4 → runs (stageProg e b false)) ∧
    (isOp 0x60 b → bits (dOp b 0) 3 0 = 5 → runs (surveyProg e b)) ∧
    (isOp 0x70 b → runs (shootdownProg b)) ∧ (isOp 0x71 b → runs (syncProg b))

/-! ## Kettle programs -/

/-- After an instruction PC passes on; at the end of a loop's body it goes back while passes are left (R311), and passing
the last instruction ends the program (R312). KTL_NOP does nothing else, LOOP with a count opens a loop and without one
skips the body, KTL_END ends the program at once: its descriptor's task has the answer. KTL_SET, KTL_ADDI and KTL_ADD give their scalar register the immediate, a sum with it, a sum
of two registers, all modulo 2^32, and change no other; S0 reads as zero whatever is written to it. -/
def Obligations.KettleControlAndScalars : Prop :=
  (∀ (n : Fin 32) (s : State) (i : Nat), s.kNext n.val = some i →
    let k := s.kettle n.val
    let t := s.kAdvance n.val
    let k' := t.kettle n.val
    let cnt := kN i + k.sget (kSC i)
    let len := bits (kImm i) 8 0
    (k.loops = [] → k'.pc = k.pc + 1 ∧ k'.loops = []) ∧
    (∀ a e c rest, k.loops = (a, e, c) :: rest →
      (k.pc + 1 ≠ e → k'.pc = k.pc + 1 ∧ k'.loops = k.loops) ∧
      (k.pc + 1 = e → 1 < c → k'.pc = a ∧ k'.loops = (a, e, c - 1) :: rest) ∧
      (k.pc + 1 = e → c ≤ 1 → rest = [] → k'.pc = k.pc + 1 ∧ k'.loops = [])) ∧
    k'.running = decide (k'.pc < k.prog.length) ∧ k'.sreg = k.sreg ∧ k'.vreg = k.vreg ∧ k'.acc = k.acc ∧
    k'.tiles = k.tiles ∧ k'.prog = k.prog ∧ (∃ e x, t = { s with eng := { s.eng with kettles := e }, tasks := x }) ∧
    (∀ m, m ≠ n.val → t.kettle m = s.kettle m) ∧
    (kOpc i = 0x00 → exec (.ktlNop n) s = .next (settle s t.go)) ∧
    (kOpc i = 0x05 → ∃ l : State, exec (.loop n) s = .next (settle s (l.kAdvance n.val).go) ∧ s.OnlyKettle l n.val ∧
      l.kettle n.val = if cnt = 0 ∨ len = 0 then { k with pc := k.pc + len }
        else { k with loops := (k.pc + 1, k.pc + 1 + len, cnt) :: k.loops }) ∧
    (kOpc i = 0x01 → ∃ u : State, exec (.ktlEnd n) s = .next (settle s u.go) ∧
      u.kettle n.val = { k with running := false, cause := 0, rwait := false, sub := none } ∧
      ∀ id x, k.task = some id → SMap.find s.tasks id = some x →
        u.task id = { x with log := x.log ++ [{}], wait := .ready, moved := s.tick })) ∧
  (∀ c ∈ ([(.ktlSet, 0x02, fun _ i => kImm i), (.ktlAddi, 0x03, fun k i => (k.sget (kA i) + kImm i) % 2 ^ 32),
        (.ktlAdd, 0x04, fun k i => (k.sget (kA i) + k.sget (kB i)) % 2 ^ 32)] :
          List ((Fin 32 → Instr) × Nat × (Kettle → Nat → Nat))),
      ∀ (n : Fin 32) (s : State) (i : Nat), s.kNext n.val = some i → kOpc i = c.2.1 →
        ∃ t : State, exec (c.1 n) s = .next (settle s (t.kAdvance n.val).go) ∧ s.OnlyKettle t n.val ∧ t.regs = s.regs ∧
          (∃ m, t.kettle n.val = { s.kettle n.val with sreg := m }) ∧
          ∀ r, (t.kettle n.val).sget r =
            if r = 0 then 0 else if r = kD i then c.2.2 (s.kettle n.val) i else (s.kettle n.val).sget r)

/-- The vector operations (R290, R301, R306): each of the registers that N counts from D on gets, lane by lane, the
operation's value of the lanes of its operands as they were before the instruction, and no other register of the
cluster changes. The reductions give every lane the one result. The functions of VFN take a free value a lane for their
permitted error. -/
def Obligations.KettleVectorOperations : Prop :=
  let two := fun (f : Nat → Nat → Nat) (_ : State) (k : Kettle) (i j : Nat) =>
    List.zipWith f (k.vget (kA i + j)) (k.vget (kB i + j))
  let imm := fun (f : Nat → Nat → Nat) (_ : State) (k : Kettle) (i j : Nat) => (k.vget (kA i + j)).map fun x => f x (kImm i)
  let fn := fun (f : Nat → Nat → Nat) (s : State) (k : Kettle) (i j : Nat) =>
    (k.vget (kA i + j)).zipIdx.map fun (x, l) => f x (s.free + 64 * j + l)
  let red := fun (f : List Nat → Nat) (_ : State) (k : Kettle) (i j : Nat) => List.replicate 64 (f (k.vget (kA i + j)))
  ∀ c ∈ ([(.vopAdd, 0x22, some 0, two add32), (.vopSub, 0x22, some 1, two sub32), (.vopMul, 0x22, some 2, two mul32),
      (.vopMax, 0x22, some 3, two max32), (.vopMin, 0x22, some 4, two min32),
      (.vopiAdd, 0x23, some 0, imm add32), (.vopiSub, 0x23, some 1, imm sub32), (.vopiMul, 0x23, some 2, imm mul32),
      (.vopiMax, 0x23, some 3, imm max32), (.vopiMin, 0x23, some 4, imm min32),
      (.ktlFma, 0x24, none, fun _ k i j => List.zipWith (fun (x : Nat × Nat) z => fma32 x.1 x.2 z)
        ((k.vget (kA i + j)).zip (k.vget (kB i + j))) (k.vget (kD i + j))),
      (.vfnExp2, 0x25, some 0, fn exp2_32), (.vfnRcp, 0x25, some 1, fn rcp32), (.vfnRsqrt, 0x25, some 2, fn rsqrt32),
      (.vfnTanh, 0x25, some 3, fn tanh32), (.vfnSigmoid, 0x25, some 4, fn sigmoid32),
      (.vfnMov, 0x25, some 5, fun _ k i j => k.vget (kA i + j)),
      (.redSum, 0x26, some 0, red (treeSum 6)), (.redMax, 0x26, some 1, red rowMax),
      (.cast, 0x27, none, fun _ k i j =>
        let e := encodeLanes (kFmt i) (kSat i) (k.vget (kA i + j))
        decodeLanes (kFmt i) (unpack (elemWidth (kFmt i)) 64 e.1) e.2.1),
      (.mask, 0x29, none, fun _ k i j => (k.vget (kA i + j)).zipIdx.map fun (x, l) =>
        let p := (k.sget (kSB i) + kImm i + 64 * j + l) % 2 ^ 32
        if p < k.sget (kSC i) ∨ p > k.sget (kB i % 16) then kX i else x),
      (.scap, 0x2A, none, fun s k i j => (k.vget (kA i + j)).zipIdx.map fun (x, l) =>
        mul32 (kImm i) (tanh32 (mul32 x (kX i)) (s.free + 64 * j + l)))] :
        List ((Fin 32 → Instr) × Nat × Option Nat × (State → Kettle → Nat → Nat → List Nat))),
    ∀ (n : Fin 32) (s : State) (i : Nat), s.kNext n.val = some i → kOpc i = c.2.1 → (∀ m, c.2.2.1 = some m → kM i = m) →
      ∃ t : State, exec (c.1 n) s = .next (settle s (t.kAdvance n.val).go) ∧ s.OnlyVectors t n.val ∧
        (∀ j, j < kRegs i → t.vec n.val (kD i + j) = (c.2.2.2 s (s.kettle n.val) i j).map (· % 2 ^ 32)) ∧
        ∀ r, r < kD i ∨ kD i + kRegs i ≤ r → t.vec n.val r = s.vec n.val r

/-- LSEM (R291) leaves in lanes 0 and 1 of register D the merged maximum and sum and in D + 1 and D + 2 the merged vector, and
TOPK (R307) in the first lanes of D and D + 1 the values and positions of the best entries of the old list, or of an empty
one with M[0], and of the row: no other vector register changes, and no other file of the cluster.
ACCRD (R304) copies one segment of 64 columns of each array named, as it stands or as FP32 of its integers with M[1], to
the registers from D on; ACCCLR clears the columns named of each array named. -/
def Obligations.KettleMergesAndAccumulators : Prop :=
  (∀ (n : Fin 32) (s : State) (i : Nat), s.kNext n.val = some i →
    let k := s.kettle n.val
    let part := fun (r : Nat) => ((k.vget r).getD 0 0, (k.vget r).getD 1 0, k.vget (r + 1) ++ k.vget (r + 2))
    let merged := lseMerge (part (kA i)) (part (kB i)) s.free
    let cnt := bits (kX i) 6 0
    let old := if bit (kM i) 0 then List.replicate cnt (negInf32, 0xFFFFFFFF)
      else ((k.vget (kD i)).zip (k.vget (kD i + 1))).take cnt
    let new := (List.range (kRegs i)).flatMap fun j =>
      (k.vget (kA i + j)).zipIdx.map fun (x, l) => (x, (k.sget (kSB i) + kImm i + 64 * j + l) % 2 ^ 32)
    let best := (new.filter fun x => !isNan32 x.1).foldl (topInsert cnt) old
    (kOpc i = 0x28 → ∃ t : State, exec (.lsem n) s = .next (settle s (t.kAdvance n.val).go) ∧ s.OnlyVectors t n.val ∧
      (t.vec n.val (kD i)).take 2 = [merged.1 % 2 ^ 32, merged.2.1 % 2 ^ 32] ∧
      t.vec n.val (kD i + 1) ++ t.vec n.val (kD i + 2) = merged.2.2.map (· % 2 ^ 32) ∧
      ∀ r, r < kD i ∨ kD i + 3 ≤ r → t.vec n.val r = s.vec n.val r) ∧
    (kOpc i = 0x2B → cnt ≤ 64 → ∃ t : State, exec (.topk n) s = .next (settle s (t.kAdvance n.val).go) ∧
      s.OnlyVectors t n.val ∧ best.length = cnt ∧
      (t.vec n.val (kD i)).take cnt = best.map (fun x => x.1 % 2 ^ 32) ∧
      (t.vec n.val (kD i + 1)).take cnt = best.map (fun x => x.2 % 2 ^ 32) ∧
      (t.vec n.val (kD i)).drop cnt = (s.vec n.val (kD i)).drop cnt ∧
      (t.vec n.val (kD i + 1)).drop cnt = (s.vec n.val (kD i + 1)).drop cnt ∧
      ∀ r, r ≠ kD i → r ≠ kD i + 1 → t.vec n.val r = s.vec n.val r)) ∧
  (∀ (n : Fin 32) (s : State) (i : Nat), s.kNext n.val = some i →
    let k := s.kettle n.val
    let seg := k.addr i
    let c := bits (kImm i) 6 0
    (kOpc i = 0x12 → seg ≤ 31 → ∃ t : State, exec (.accrd n) s = .next (settle s (t.kAdvance n.val).go) ∧
      s.OnlyVectors t n.val ∧
      (∀ j a, (kArrays i)[j]? = some a → ∀ l, l < 64 → (t.vec n.val (kD i + j)).getD l 0 =
        let v := k.aget a (seg / 2) (64 * (seg % 2) + l)
        (if bit (kM i) 1 then round32 (decide (signed 32 v < 0)) (signed 32 v).natAbs 1 0 else v) % 2 ^ 32) ∧
      ∀ r, r < kD i ∨ kD i + (kArrays i).length ≤ r → t.vec n.val r = s.vec n.val r) ∧
    (kOpc i = 0x13 → c + kN i ≤ 128 → ∃ t : State, exec (.accclr n) s = .next (settle s (t.kAdvance n.val).go) ∧
      s.OnlyKettle t n.val ∧ t.regs = s.regs ∧ (∃ m, t.kettle n.val = { k with acc := m }) ∧
      ∀ a row col, a < 4 → row < 16 → col < 128 → (t.kettle n.val).aget a row col =
        if a ∈ kArrays i ∧ c ≤ col ∧ col < c + kN i then 0 else k.aget a row col))

/-- MMA (R302): where the columns, tiles and formats of all its groups exist and pair and their streamed bytes and scales can be
read, it completes. Each accumulator of an array named has then taken the groups of its column in order, each of which adds
its sum or, with M[1] at the column's first group, puts it; no other accumulator changes, and ACTIVE counts the groups
(R292). LDS (R301): where the bytes of its rows and scales can be read, it completes, and the tiles from D on of each array
named hold those elements. -/
def Obligations.KettleTilesAndProducts : Prop :=
  (∀ (n : Fin 32) (s : State) (i : Nat) (d sc : Nat → Nat → List Byte), s.kNext n.val = some i → kOpc i = 0x11 →
    (∀ j a, j < kN i → a ∈ kArrays i → s.MmaInput n.val i a j (d j a) (sc j a)) →
    ∃ t : State, exec (.mma n) s = .next (settle s (t.kAdvance n.val).go) ∧ s.OnlyKettle t n.val ∧
      (∃ m, t.kettle n.val = { s.kettle n.val with acc := m }) ∧
      t.fld (Reg.KTL_ACT n.val) Reg.KTL_ACT_ACTIVE =
        (s.fld (Reg.KTL_ACT n.val) Reg.KTL_ACT_ACTIVE + kN i * (kArrays i).length) % 2 ^ 64 ∧
      ∀ a row col, a < 4 → row < 16 → col < 128 → (t.kettle n.val).aget a row col =
        if a ∈ kArrays i then
          ((List.range (kN i)).filter fun j => bits (kX i) 14 8 + j / bits (kX i) 7 0 = col).foldl
            (fun v j => mmaValue s n.val i a j row (d j a) (sc j a) v) ((s.kettle n.val).aget a row col)
        else (s.kettle n.val).aget a row col) ∧
  (∀ (s : State) (n i a j : Nat) (d sc : List Byte), n < 32 → a < 4 → s.MmaInput n i a j d sc →
    ∃ t fl, mmaOne s n i a j = .ok (t, fl) ∧ s.OnlyKettle t n ∧ (∃ m, t.kettle n = { s.kettle n with acc := m }) ∧
      ∀ b row c, b < 4 → row < 16 → c < 128 → (t.kettle n).aget b row c =
        if b = a ∧ c = bits (kX i) 14 8 + j / bits (kX i) 7 0 then mmaValue s n i a j row d sc ((s.kettle n).aget a row c)
        else (s.kettle n).aget b row c) ∧
  (∀ (n : Fin 32) (s : State) (i : Nat) (d : Nat → Nat → List Byte) (sc : Nat → List Byte), s.kNext n.val = some i →
    kOpc i = 0x10 → kD i + kRegs i ≤ 4 →
    (∀ j q, j < kRegs i → q < 16 → s.PadHolds n.val ((s.kettle n.val).addr i + j * bits (kX i) 31 16 + q * bits (kX i) 15 0)
      (128 * elemWidth (kFmt i) / 8) true (d j q)) →
    (∀ j, j < kRegs i → if isMx (kFmt i) then s.PadHolds n.val ((s.kettle n.val).sget (kSC i) + 64 * j) 64 false (sc j)
      else sc j = []) →
    ∃ t : State, exec (.lds n) s = .next (settle s (t.kAdvance n.val).go) ∧ s.OnlyKettle t n.val ∧ t.regs = s.regs ∧
      (∃ m, t.kettle n.val = { s.kettle n.val with tiles := m }) ∧
      (∀ a ∈ kArrays i, ∀ j, j < kRegs i → (t.kettle n.val).tile a (kD i + j) =
        ⟨kFmt i, (List.range 16).map fun q => unpack (elemWidth (kFmt i)) 128 (d j q), sc j⟩) ∧
      ∀ a tile, tile < 4 → a ∉ kArrays i ∨ tile < kD i ∨ kD i + kRegs i ≤ tile →
        (t.kettle n.val).tile a tile = (s.kettle n.val).tile a tile)

/-- VLD from scratchpad or from a ring, where its bytes and scales can be read, completes and fills the registers that N counts
from D on with the decoded elements (R305). VST to scratchpad, where its banks grant the writes, completes and writes the encoded
lanes of each register, and their scales, in order; bytes outside them stay as they were. With M[2] both begin an access of the
store as a task of the Kettle, which issues nothing more until it has ended.
RWAIT on a slot that is filled and not released passes; on one not filled yet it leaves PC where it is and the Kettle
waiting (R309). RREL releases each ring named up to the slot named, or to what is filled (R254, R310); past 2^32 slots,
where the count wraps, up to the nearest count below what is filled, by the model's choice (log 98). -/
def Obligations.KettleMemoryAndRings : Prop :=
  ((∀ (n : Fin 32) (s : State) (i : Nat) (d sc : Nat → List Byte), s.kNext n.val = some i → kOpc i = 0x20 →
    bit (kM i) 2 = false → kD i + kRegs i ≤ 32 →
    (∀ j, j < kRegs i →
      (if bit (kA i) 4 then
          s.RingHolds n.val (bits (kA i) 2 0) ((s.kettle n.val).addr i * 64 + j * kX i) (64 * elemWidth (kFmt i) / 8) true (d j)
        else s.PadHolds n.val ((s.kettle n.val).addr i + j * kX i) (64 * elemWidth (kFmt i) / 8) true (d j)) ∧
      if laneScales (kFmt i) = 0 then sc j = []
      else s.PadHolds n.val ((s.kettle n.val).sget (kSC i) + laneScales (kFmt i) * j) (laneScales (kFmt i)) false (sc j)) →
    ∃ t : State, exec (.vld n) s = .next (settle s (t.kAdvance n.val).go) ∧ s.OnlyVectors t n.val ∧
      (∀ j, j < kRegs i → t.vec n.val (kD i + j) =
        (decodeLanes (kFmt i) (unpack (elemWidth (kFmt i)) 64 (d j)) (sc j)).map (· % 2 ^ 32)) ∧
      ∀ r, r < kD i ∨ kD i + kRegs i ≤ r → t.vec n.val r = s.vec n.val r) ∧
  (∀ (n : Fin 32) (s : State) (i : Nat), s.kNext n.val = some i → kOpc i = 0x21 → bit (kM i) 2 = false →
    let lanes := fun (j : Nat) => encodeLanes (kFmt i) (kSat i) (s.vec n.val (kD i + j))
    let writes := (List.range (kRegs i)).flatMap fun j =>
      ((s.kettle n.val).addr i + j * kX i, (lanes j).1, true) ::
        (if (lanes j).2.1 = [] then [] else [((s.kettle n.val).sget (kSC i) + (lanes j).2.1.length * j, (lanes j).2.1, false)])
    (∀ w ∈ writes, padRangeOk n.val w.1 w.2.1.length w.2.2 = true ∧
      ∀ x ∈ cut 64 w.1 w.2.1.length, s.bankGrant (asEng (kEng n.val)) x.1 = some .ok) →
    ∃ t : State, exec (.vst n) s = .next (settle s (t.kAdvance n.val).go) ∧ t.eng = s.eng ∧ t.tier = s.tier ∧
      (∀ y, SMap.get t.pad.mem y 0 = SMap.get (writes.foldl (fun m w => memWrite m w.1 w.2.1) s.pad.mem) y 0) ∧
      ∀ y, (∀ w ∈ writes, y < w.1 ∨ w.1 + w.2.1.length ≤ y) → SMap.get t.pad.mem y 0 = SMap.get s.pad.mem y 0) ∧
  (∀ (c : Fin 32 → Instr) (n : Fin 32) (s : State) (i : Nat), s.kNext n.val = some i → bit (kM i) 2 = true →
    (c = .vld ∧ kOpc i = 0x20) ∨ (c = .vst ∧ kOpc i = 0x21) →
    ∃ u : State, exec (c n) s = .next (settle s u.go) ∧
      u.kettle n.val = { s.kettle n.val with sub := some s.nextTask } ∧
      (u.task s.nextTask).kind = .kettle n.val ∧ (u.task s.nextTask).fin = none ∧ u.kNext n.val = none ∧
      u.tier = s.tier ∧ u.pad = s.pad ∧ u.regs = s.regs)) ∧
  (∀ (n : Fin 32) (s : State) (i : Nat), s.kNext n.val = some i →
    let k := s.kettle n.val
    let slot := k.addr i
    (kOpc i = 0x08 → ∀ x, (s.newt n.val).streams[bits (kA i) 2 0]? = some x → slot < streamSlots x.bytes →
      x.released ≤ slot → slot - x.released < 2 ^ stSlotsLog x.bytes → x.failed = none →
      (slot < x.filled → exec (.rwait n) s = .next (settle s (s.kAdvance n.val).go)) ∧
      (x.filled ≤ slot → ∃ u : State, exec (.rwait n) s = .next (settle s u.go) ∧
        u.kettle n.val = { k with rwait := true } ∧ u.eng.newts = s.eng.newts ∧
        ∀ q : RegId, q.off ≠ (Reg.KTL_WAIT n.val).off → u.reg q = s.reg q)) ∧
    (kOpc i = 0x09 → ∃ t : State, exec (.rrel n) s = .next (settle s (t.kAdvance n.val).go) ∧
      (∃ e, t = { s with eng := { s.eng with newts := e } }) ∧ (∀ m, m ≠ n.val → t.newt m = s.newt m) ∧
      ∀ r, r < 8 → (t.newt n.val).streams[r]? = ((s.newt n.val).streams[r]?).map fun x =>
        if bit (kX i) r then { x with released :=
          if x.filled < 2 ^ 32 then min slot x.filled
          else if (x.filled - slot : Int) % 2 ^ 32 < 2 ^ 31 then x.filled - ((x.filled - slot : Int) % 2 ^ 32).toNat
          else x.filled } else x))

/-! ## What engines and descriptors wait for -/

/-- What ends a wait of running work. Each command gives the waiting task its answer, or lets it look again, and the task runs on
from there at once; then all other work does.
ACQUIRE_POLL (R178, R179), once the interval has passed and an engine may take the descriptor, reads the flag again there: an
ACQUIRE that then ends has seen its condition hold, one that polls again has not and counts its interval from now.
NEWT_READ_RETURN (R251): the data of a read that has returned are in the ring's bytes of scratchpad, the read is gone, and
they count for their slot, with which FILLED passes over the complete leading slots.
PAGE_WALK (R53): the walk that a descriptor's access waits for runs; a walk whose context entry and table entries can be
read ends in their leaf, which the TLBs then hold (R56).
INSERT_SLOT_REUSE (R375): with no query of the shard left whose snapshot is older than the slot, the insert waits no more.
DRAIN_COUNT_ZERO (R404): an EMB_SWITCH of the table waits on only for a count of the other version that is not 0. -/
def Obligations.WaitsEnd : Prop :=
  let free := fun (t : Task) => t.fin = none ∧ t.ending = none ∧ t.kill = none ∧ t.bad = none
  (∀ (d : DescRef) (s : State) (id : Nat) (t : Task) (l : List Eng), s.findDesc d (fun t => t.wait = .poll) = some (id, t) →
    SMap.find s.tasks id = some t → free t → dOpcode t.bytes = 0x02 →
    t.pollAt + max 32 (s.fld Reg.GLB_ACQ_POLL Reg.GLB_ACQ_POLL_INTERVAL) ≤ s.tick →
    s.placing d.q.val t.bytes = .ok (some l) → l ≠ [] →
    ∃ e ∈ l, ∃ u : State,
      let w := { t with eng := some e, log := t.log ++ [{}], wait := .ready, moved := s.tick }
      u = ({ s with free := s.free + 1, tasks := SMap.put s.tasks id w } : State).runTask id ∧
      exec (.acquirePoll d) s = .next (settle s u.go) ∧
      (∀ f, (u.task id).ending = some f ∨ (u.task id).fin = some f → f.st = .ok →
        acquireHolds (dSubop t.bytes) f.result (dOp t.bytes 1) = true) ∧
      ((u.task id).ending = none → (u.task id).wait = .poll → (u.task id).pollAt = s.tick ∧
        acquireHolds (dSubop t.bytes) (u.task id).cur.result (dOp t.bytes 1) = false)) ∧
  (∀ (n : Fin 32) (k id ring a : Nat) (s : State) (t : Task) (x : Stream) (d : List Byte) (c : Fin_),
    ((s.slotTasks n.val).filter fun id => (s.task id).wait = .reports)[k]? = some id → SMap.find s.tasks id = some t →
    free t → t.kind = .stream n.val ring a → (s.newt n.val).streams[ring]? = some x → a < streamBytes x.bytes →
    let u0 := s.deliver id {}
    let e : Eng := ⟨.newt, n⟩
    let at_ := stRing x.bytes + a % ringSpan x.bytes
    readData e (s.newt n.val).storeAddr x.bytes ring a { s := u0, id := id, pos := 0, cur := { st := .ok } } =
      (.ok (d.map some), { s := u0, id := id, pos := t.log.length, cur := c }) →
    (∀ w ∈ cut 64 at_ d.length, s.bankGrant (asEng e) w.1 = some .ok) →
    (∀ e ∈ s.tier.pageHold, e.2 ≠ id) → (∀ e ∈ s.tier.serving, e.1 ≠ id) →
    ∃ u : State, exec (.newtReadReturn n k) s = .next (settle s u.go) ∧ SMap.find u.tasks id = none ∧
      u.padBytes at_ d.length = d ∧ u.tier = s.tier ∧
      (∀ y, y < at_ ∨ at_ + d.length ≤ y → SMap.get u.pad.mem y 0 = SMap.get s.pad.mem y 0) ∧
      (u.newt n.val).streams = (s.newt n.val).streams.set ring (x.wrote (a / slotBytes x.bytes) d.length)) ∧
  ((∀ (d : DescRef) (va : BitVec 57) (acc : AccessKind) (s : State) (id k : Nat) (t u : Task),
    s.findDesc d (fun t => t.fin.isNone) = some (id, t) →
    (s.tasks.find? fun t => (t.1 = id || s.actsFor id t.2) && t.2.wait = .walk && t.2.need = some (va.toNat, acc)) =
      some (k, u) → SMap.find s.tasks k = some u →
    exec (.pageWalk d va acc) s = .next (settle s
      (({ s with tasks := SMap.put s.tasks k { u with log := u.log ++ [{}], wait := .ready, moved := s.tick } } : State).runTask
        k).go)) ∧
  ∀ (e : Eng) (va id : Nat) (s : State) (t : Task) (c : Fin_) (d : List Byte) (lv leaf : Nat),
    SMap.find s.tasks id = some t → free t → (s.tlbLook e t.ctx va).2 = none →
    (∀ level vpn, s.wcFind e.die t.ctx level vpn = none) →
    s.TableRead (s.fld Reg.XLT_CTX_BASE Reg.XLT_CTX_BASE_BASE * 2 ^ 21 + 32 * t.ctx) 32 d →
    let w := fieldLE d 0 8
    bit w 0 = true → bits w 11 3 = 0 → bits w 63 56 = 0 → leNat ((d.drop 12).take 20) = 0 →
    s.Maps va (bit w 2) 5 (bits w 55 12 * 2 ^ 12) (lv, leaf) →
    ∃ v : State, walk e t.ctx va (s.shots t.ctx) { s := s, id := id, pos := t.log.length, cur := c } =
        (.ok (.ok (lv, leaf)), { s := v, id := id, pos := (v.task id).log.length, cur := c }) ∧
      (v.tlbLook e t.ctx va).2 = some ⟨t.ctx, lv, vpnAt va lv, BitVec.ofNat 64 leaf⟩ ∧ v.tier.mem = s.tier.mem ∧
      v.dir = s.dir) ∧
  (∀ (tag : Nat) (s : State) (id p shard a b : Nat) (more : Bool) (l : List GkoItem) (m : Msg) (t : Task),
    s.waitingFor (Task.insertOf tag) = [id] → SMap.find s.tasks id = some t → free t → t.kind = .msg p m →
    m.body = .subreq (.gkoInsert shard a b more l) → (∀ del, s.oldQueries shard del = false) →
    ∃ u : State, u = ({ s with tasks := SMap.put s.tasks id { t with wait := .ready } } : State).runTask id ∧
      exec (.insertSlotReuse tag) s = .next (settle s u.go) ∧ ∀ x, SMap.find u.tasks id = some x → x.wait ≠ .reports) ∧
  ∀ (tab : Fin 1024) (ver : Bool) (s : State) (id : Nat) (t : Task), s.drainOf tab.val ver = 0 →
    s.waitingFor (Task.switchOf tab.val) = [id] → SMap.find s.tasks id = some t → free t →
    ∃ u : State, u = ({ s with tasks := SMap.put s.tasks id { t with wait := .ready } } : State).runTask id ∧
      exec (.drainCountZero tab ver) s = .next (settle s u.go) ∧
      ∀ x, SMap.find u.tasks id = some x → x.wait = .reports → s.drainOf tab.val (!ver) ≠ 0

/-- What engines begin: GKO_QUERY_START (R363) gives the query whose turn it is a task and a workspace on the engine, ROW_UPDATE
(R409) a task to a row whose lock is free, NEWT_SLOT_BEGIN (R252, R255) one more slot of the ring whose turn it is, whose next
read a task takes up.
ENGINE_READ and ENGINE_WRITE at this home (R46, R203, R211, R212): a request whose checks pass and whose lines no host holds and
nothing else delays is served, line by line, and answered, a read with the bytes of its lines and a write once each of its
lines has the bytes that its mask enables; an earlier store of the same source that is still under way goes first (R173). A
contained module answers `ST_FENCED` (R504). -/
def Obligations.WorkBegins : Prop :=
  ((∀ (e : Fin 2) (s : State) (q : GkoQuery), s.nextQuery e.val = some q →
    ∃ (u : State) (k : Nat), exec (.gkoQueryStart e) s = .next (settle s u.go) ∧ q ∈ s.eng.queries ∧ q.task = none ∧
      u.nextTask = s.nextTask + 1 ∧ (u.task s.nextTask).kind = .query q.sub q.qi e.val ∧
      (u.task s.nextTask).ctx = (s.task q.sub).ctx ∧ k < 128 ∧
      (∀ x, x ∈ u.eng.queries ↔ ∃ y ∈ s.eng.queries,
        x = if y.sub = q.sub ∧ y.qi = q.qi then { y with eng := some e.val, task := some s.nextTask,
                                                         work := s.fld (Reg.GKO_CFG e.val) Reg.GKO_CFG_WORK + 65536 * k }
            else y) ∧
      (∃ t n g, u = { s with tasks := t, nextTask := n, eng := g }) ∧
      ∀ k, k ≠ s.nextTask → SMap.find u.tasks k = SMap.find s.tasks k) ∧
  (∀ (k : Nat) (s : State) (r : RowUpd), s.eng.rows[k]? = some r → s.live = true → r.task = none → r.res = none →
    s.rowFree k r = true →
    ∃ u : State, exec (.rowUpdate k) s = .next (settle s u.go) ∧ u.nextTask = s.nextTask + 1 ∧
      (u.task s.nextTask).kind = .row r.sub r.pos ∧ (u.eng.rows[k]?).bind (·.task) = some s.nextTask ∧
      (∀ (i : Nat) (x : RowUpd), s.eng.rows[i]? = some x → x.addr ≠ r.addr ∨ x.sub ≠ r.sub → u.eng.rows[i]? = some x) ∧
      (∃ t n g, u = { s with tasks := t, nextTask := n, eng := g })) ∧
  (∀ (n : Fin 32) (ring : Fin 8) (s : State) (x : Stream), s.newtReady n.val = true → s.nextRing n.val = some ring.val →
    (s.newt n.val).streams[ring.val]? = some x →
    ∃ u : State, exec (.newtSlotBegin n ring) s = .next (settle s u.pumpReads.go) ∧ (u.newt n.val).last = ring.val ∧
      (u.newt n.val).streams = (s.newt n.val).streams.set ring.val { x with begun := x.begun + 1 } ∧
      (∀ m, m ≠ n.val → u.newt m = s.newt m) ∧ (∃ g, u = { s with eng := g }) ∧
      (x.cursor < (x.begun + 1) * slotBytes x.bytes → (∀ t ∈ s.tasks, ∀ a, t.2.kind ≠ .stream n.val ring.val a) →
        ∃ id t, SMap.find u.pumpReads.tasks id = some t ∧ t.kind = .stream n.val ring.val x.cursor))) ∧
  (∀ (r : EngReq) (mask : List Bool) (data : List Byte) (s : State), s.ready = true → s.ras.moduleContained = true →
    s.Quiet → ∀ c ∈ [Instr.engineRead r, .engineWrite r mask data],
      exec c s = .next { s with out := { s.out with answers := s.out.answers ++ [(r, { st := .fenced })] } }) ∧
  (∀ (r : EngReq) (s : State) (ps : List (Nat × Nat)) (dem : Bool), s.ready = true → s.ras.moduleContained = false →
    s.FreshTask → s.homeCheck r.src r.ctx.toNat r.epoch.toNat (r.addr.toNat % 2 ^ 50) r.len false = .ok ps →
    (s.meterCheck r.ctx.toNat (.task s.nextTask false false) r.len).2 = .pass dem →
    s.readmit r.ctx.toNat false ps = .ok →
    (∀ p ∈ ps, ∀ w ∈ cut 64 p.1 p.2, s.ServesNow r.ctx.toNat (w.1 / 64) false ∧ s.linePoison (w.1 / 64) = false) →
    ∃ u : State, exec (.engineRead r) s = .next (settle s u.go) ∧
      u.out.answers = s.out.answers ++ [(r, { data := s.bytesOf ps, val := dem.toNat })] ∧
      SMap.find u.tasks s.nextTask = none ∧ (∀ k, k ≠ s.nextTask → SMap.find u.tasks k = SMap.find s.tasks k) ∧
      u.tier.mem = s.tier.mem ∧ u.tier.poison = s.tier.poison ∧ u.dir = s.dir) ∧
  ∀ (r : EngReq) (mask : List Bool) (data : List Byte) (s : State) (ps : List (Nat × Nat)) (dem : Bool), s.ready = true →
    s.ras.moduleContained = false → s.FreshTask → s.storeBefore s.nextTask r.src = false →
    let m := maskOf ((List.range data.length).filter fun i => mask.getD i false)
    s.homeCheck r.src r.ctx.toNat r.epoch.toNat (r.addr.toNat % 2 ^ 50) data.length true = .ok ps →
    (s.meterCheck r.ctx.toNat (.task s.nextTask false false) (popcount data.length m)).2 = .pass dem →
    s.readmit r.ctx.toNat true ps = .ok →
    (∀ p ∈ ps, ∀ w ∈ cut 64 p.1 p.2, s.ServesNow r.ctx.toNat (w.1 / 64) true) →
    ∃ u : State, exec (.engineWrite r mask data) s = .next (settle s u.go) ∧
      u.out.answers = s.out.answers ++ [(r, { val := dem.toNat })] ∧
      SMap.find u.tasks s.nextTask = none ∧ (∀ k, k ≠ s.nextTask → SMap.find u.tasks k = SMap.find s.tasks k) ∧
      u.tier.mem = (s.written (lineWrites ps m data)).tier.mem ∧
      u.tier.poison = (s.written (lineWrites ps m data)).tier.poison ∧ u.dir = s.dir

/-- COMBINE_ENTRY_EXPIRY (R188): 2 µs after it was created the combined atomics of the entry's line are due there, not before; with
no host holding the line, no request waiting and its chunk not held, they are performed at once and their entries go.
HOME_TMO_EXPIRY (R348): every part of the descriptor that no home has answered counts as timed out. -/
def Obligations.CombiningAndTimeouts : Prop :=
  (∀ (slice : Fin 64) (k : Fin 32) (s : State) (c : Combine), SMap.find s.combine (slice.val * 32 + k.val) = some c →
    (s.tick < c.since + 2000 → s.Quiet → exec (.combineEntryExpiry slice k) s = .next s) ∧
    (c.since + 2000 ≤ s.tick →
      exec (.combineEntryExpiry slice k) s = .next (settle s (s.submit { line := c.line, who := .comb }).go) ∧
      ((∀ x ∈ s.waitq, x.line ≠ c.line) → s.lineHeld c.line = false → SMap.find s.dir c.line = none →
        (s.cell (c.line * 64)).isSome → s.submit { line := c.line, who := .comb } = s.performCombines c.line))) ∧
  (∀ (s : State) (c : Combine) (k : Nat), s.combine = [(k, c)] → (s.cell (c.line * 64)).isSome →
    s.linePoison c.line = false →
    s.performCombines c.line =
      ({ s with combine := [] }.perform c.line (.atomic c.subop c.width c.off c.val 0)).1) ∧
  (∀ (d : DescRef) (s : State) (id : Nat) (t : Task) (f : Fan), s.findDesc d (fun t => t.fin.isNone) = some (id, t) →
    t.wait = .reports → SMap.find s.eng.fans id = some f → f.tmo ≠ 0 →
    (∃ p ∈ f.parts, p.answered = false ∧ p.at_ + 1000 * f.tmo ≤ s.tick) →
    ∃ u : State, exec (.homeTmoExpiry d) s = .next (settle s u.go) ∧
      (u.fan id).parts = f.parts.map fun p => if p.answered then p else { p with missing := some .timeout })

/-! ## Page moves -/

/-- CHUNK_MOVE (R81, R85): the 256 bytes of a chunk and its poison marks go to the new frame as they are in the old one, or as
poison when the read failed, and the chunk's requests are held, once no request accepted
earlier is left at the chunk and no combined atomic is due there. CHUNK_WRITE_ACK (R81, R84): the new frame is the chunk's home, its held requests are offered again, and with the last chunk
the page is RESIDENT at its new frame, with the slices' additions folded into its count (R93), and its move slot is free; a
write that failed is issued once more, as poison. DECAY_SWEEP (R95): every page's count is halved once for each interval since its stamp, with the accesses since then
added, and stamped with the interval; nothing else changes. -/
def Obligations.PageMoves : Prop :=
  (∀ (slot : Fin 128) (c : Fin 16) (rd : MediumOutcome) (s : State) (m : MoveSlot) (e : PhtEnt),
    SMap.find s.tier.slots slot.val = some m → s.page m.page = some e → bit m.mask c.val = false →
    bit m.held c.val = false → (∀ x ∈ s.tier.late, x.2.line / 4 ≠ m.page * 16 + c.val) →
    (∀ x ∈ s.tier.serving, x.2 ≠ m.page * 16 + c.val) →
    (∀ x ∈ s.dir, x.2.st.transient = true → x.1 / 4 ≠ m.page * 16 + c.val) →
    (∀ x ∈ s.combine, x.2.line / 4 ≠ m.page * 16 + c.val) →
    let src := cellKey (dieOf (m.page * 4096)) e.tier (e.frame * 4096 + c.val * 256)
    let dst := cellKey (dieOf (m.page * 4096)) m.tier (m.frame * 4096 + c.val * 256)
    let clean := ∀ i, i < 4 → SMap.get s.tier.poison (src / 64 + i) false = false
    ∃ u : State, exec (.chunkMove slot c rd) s = .next (settle s u) ∧
      (∃ m', SMap.find u.tier.slots slot.val = some m' ∧ bit m'.held c.val = true ∧ m'.mask = m.mask ∧ m'.page = m.page ∧
        (m'.lost = true ↔ m.lost = true ∨ rd = .ue ∨ rd = .failed ∨ ¬ clean)) ∧
      (rd = .ok ∨ rd = .ce → clean →
        (∀ i, i < 256 → SMap.get u.tier.mem (dst + i) 0 = SMap.get s.tier.mem (src + i) 0) ∧
        (∀ a, a < dst ∨ dst + 256 ≤ a → SMap.get u.tier.mem a 0 = SMap.get s.tier.mem a 0) ∧
        (∀ i, i < 4 → SMap.get u.tier.poison (dst / 64 + i) false = false) ∧ u.ras = s.ras) ∧
      (rd = .ue ∨ rd = .failed ∨ ¬ clean → ∀ i, i < 4 → SMap.get u.tier.poison (dst / 64 + i) false = true)) ∧
  (∀ (slot : Fin 128) (c : Fin 16) (rd : MediumOutcome) (s : State) (m : MoveSlot) (e : PhtEnt),
    SMap.find s.tier.slots slot.val = some m → s.page m.page = some e → bit m.held c.val = true →
    let m' := { m with mask := putBit m.mask c.val true, held := putBit m.held c.val false }
    (rd = .ok ∨ rd = .ce → ∃ u : State, exec (.chunkWriteAck slot c rd) s = .next (settle s u.pump.go) ∧
      (m'.mask ≠ 2 ^ 16 - 1 → SMap.find u.tier.slots slot.val = some m' ∧ u.tier.mem = s.tier.mem ∧ u.tier.pht = s.tier.pht) ∧
      (m'.mask = 2 ^ 16 - 1 → SMap.find u.tier.slots slot.val = none ∧
        u.page m.page = some { e.folded s.interval (SMap.get s.tier.adds m.page 0) with
          st := .resident, tier := m.tier, frame := m.frame, slot := 0 } ∧
        ∀ n, n ≠ m.page → u.page n = s.page n)) ∧
    (rd = .ue ∨ rd = .failed → bit m.again c.val = false →
      ∃ u : State, exec (.chunkWriteAck slot c rd) s = .next (settle s u) ∧
        SMap.find u.tier.slots slot.val =
          some { m with again := putBit m.again c.val true, bad := putBit m.bad c.val true, lost := true } ∧
        u.tier.mem = s.tier.mem) ∧
    (rd = .ue ∨ rd = .failed → bit m.again c.val = true →
      ∃ u : State, exec (.chunkWriteAck slot c rd) s = .next (settle s u.pump.go) ∧
        (m'.mask ≠ 2 ^ 16 - 1 → SMap.find u.tier.slots slot.val = some { m' with lost := true }))) ∧
  (∀ s : State, s.Quiet →
    ∃ t, exec .decaySweep s = .next t ∧ (∃ p a, t = { s with tier := { s.tier with pht := p, adds := a } }) ∧
      ∀ n, (s.tier.pht.filter fun e => e.1 = n).length ≤ 1 → t.page n = (s.page n).map fun e =>
        { e with count := min (e.count / 2 ^ min ((s.interval + 65536 - e.stamp) % 65536) 8 + SMap.get s.tier.adds n 0) 255,
                 stamp := s.interval % 65536 })

/-! ## Faults of translation -/

/-- A fault's answer. FAULT_REPLAY (R67), FAULT_ABORT (R68) and FAULT_RESPONSE_TIMEOUT (R69) retire an outstanding token: it
and its waiting record are gone and every access that joined it goes on, to be walked again, to end with the fault's
status, or to end with `ST_TIMEOUT`; replay drops the page's translations first. A token that is not outstanding only
sets BADRESP. -/
def Obligations.FaultTokensRetire : Prop :=
  ∀ (tok : BitVec 32) (s : State),
    let gone := fun (u : State) (k : FaultTok) (a : Ans) =>
      u.findTok tok.toNat = none ∧ (∀ r ∈ u.ringq, ¬ (r.ring = 0 ∧ r.tok = tok.toNat)) ∧ u.regs = s.regs ∧
      ∀ id t, k.joined = [id] → SMap.find s.tasks id = some t →
        SMap.find u.tasks id = some { t with log := t.log ++ [a], wait := .ready, moved := s.tick }
    (∀ via, s.mayWrite via Reg.XLT_FAULT_RESP.off = true →
      (∀ k, s.findTok tok.toNat = some k →
        (∃ u : State, exec (.faultReplay via tok) s = .next (settle s u.go) ∧ gone u k {} ∧
          ∀ e l, SMap.find u.xlt.l1 e = some l → ∀ x ∈ l, x.overlaps k.ctx (k.va / 4096 * 4096) 4096 = false) ∧
        ∃ u : State, exec (.faultAbort via tok) s = .next (settle s u.go) ∧ gone u k { st := faultStatus k.kind .fault }) ∧
      (s.findTok tok.toNat = none → s.Quiet →
        ∃ t, exec (.faultReplay via tok) s = .next t ∧ exec (.faultAbort via tok) s = .next t ∧
          s.OnlyReg t Reg.XLT_FQ_CFG ∧ t.flag Reg.XLT_FQ_CFG Reg.XLT_FQ_CFG_BADRESP = true)) ∧
    (∀ k, s.findTok tok.toNat = some k → s.fld Reg.XLT_FQ_CFG Reg.XLT_FQ_CFG_TMO ≠ 0 →
      k.since + 1000 * s.fld Reg.XLT_FQ_CFG Reg.XLT_FQ_CFG_TMO ≤ s.tick →
      ∃ u : State, exec (.faultResponseTimeout tok) s = .next (settle s u.go) ∧ gone u k { st := .timeout })

/-- FAULT_RING_ENABLE (R71), POISON_LOG_ENABLE (R219) and ADVISORY_RING_ENABLE (R524) on a ring that was not enabled: TAIL
becomes HEAD, the phase restarts, LOST of the two logs is cleared. FAULT_RING_DISABLE: every outstanding token is retired.
FAULT_RECORD_WAIT_END (R64): a record that waited for room in a ring in host memory is written there. -/
def Obligations.RecordRings : Prop :=
  (∀ (via : Via) (v : Word) (s : State), s.Quiet → newFld Reg.XLT_FQ_BASE_EN v = 1 →
    ∀ c ∈ ([(.faultRingEnable, 0), (.poisonLogEnable, 1), (.advisoryRingEnable, 2)] : List ((Via → Word → Instr) × Nat)),
      s.mayWrite via (ringBase c.2).off = true → s.flag (ringBase c.2) Reg.XLT_FQ_BASE_EN = false →
      ∃ t, exec (c.1 via v) s = .next t ∧ t.flag (ringBase c.2) Reg.XLT_FQ_BASE_EN = true ∧
        t.fld (ringPtrs c.2) Reg.XLT_FQ_PTRS_TAIL = s.fld (ringPtrs c.2) Reg.XLT_FQ_PTRS_HEAD ∧
        t.fld (ringPtrs c.2) Reg.XLT_FQ_PTRS_HEAD = s.fld (ringPtrs c.2) Reg.XLT_FQ_PTRS_HEAD ∧
        t.ringPhase c.2 = true ∧ (c.2 ≠ 0 → t.fld (ringCfg c.2) Reg.HOME_PLOG_CFG_LOST = 0) ∧
        ∀ r : RegId, r.off ≠ (ringBase c.2).off → r.off ≠ (ringPtrs c.2).off → r.off ≠ (ringCfg c.2).off →
          t.reg r = s.reg r) ∧
  (∀ (via : Via) (v : Word) (s : State), newFld Reg.XLT_FQ_BASE_EN v = 0 → s.mayWrite via Reg.XLT_FQ_BASE.off = true →
    ∃ u : State, exec (.faultRingDisable via v) s = .next (settle s u.go) ∧ u.xlt.toks = [] ∧
      u.flag Reg.XLT_FQ_BASE Reg.XLT_FQ_BASE_EN = false ∧ ∀ r ∈ u.ringq, r.ring = 0 → ∀ k ∈ s.xlt.toks, r.tok ≠ k.tok) ∧
  (∀ (tok : BitVec 32) (s : State) (k : FaultTok) (r : RingRec), s.Quiet → k ∈ s.xlt.toks → k.tok = tok.toNat →
    k.written = false → s.ringq = [r] → r.ring = 0 → r.alert = false → s.ringBusy.contains 0 = false →
    s.flag Reg.XLT_FQ_BASE Reg.XLT_FQ_BASE_EN = true → s.ringRoom 0 = true →
    s.flag Reg.XLT_FQ_BASE Reg.XLT_FQ_BASE_HOSTMEM = true →
    let h := s.fld Reg.XLT_FQ_BASE Reg.XLT_FQ_BASE_HEAD
    s.canDma h = true →
    ∃ t, exec (.faultRecordWaitEnd tok) s = .next t ∧ t.ringq = [] ∧
      t.out.hostWr = s.out.hostWr ++ [⟨h, s.ringSlot 0, 2 ^ 32 - 1 - rangeMask 8 8, s.ringBytes r, false, true⟩,
        ⟨h, s.ringSlot 0, rangeMask 8 8, s.ringBytes r, false, false⟩] ∧
      t.fld Reg.XLT_FQ_PTRS Reg.XLT_FQ_PTRS_TAIL = (s.fld Reg.XLT_FQ_PTRS Reg.XLT_FQ_PTRS_TAIL + 1) % s.ringLen 0)

/-! ## Hosts and coherence domains -/

/-- A host's request (`hostOpOf`: MemRd, MemRdData, MemInv, MemWr, MemWrPtl) and how it fares before the directory (R203, R206,
R208, R216, R445, R460): not served it is answered as
R460 gives, in a domain that is not RUNNING as R216 gives. A read or an invalidation that is served counts at its
context's meter and reaches its slice, or waits in the meter's delay queue; while the slice is full or the delay queue is, its head does
not take it (the model's choice, log 94). A write of the line's owner goes ahead of all that waits at the line: with the chunk at
rest its bytes are written, the line's entry is what its MetaValue leaves and it is completed. A write that gives S or
A of a line that the host does not own, a partial one with S or A, and a reserved MetaValue are protocol errors. MemSpecRd has no
effect; MemClnEvct gives a copy up and is completed. -/
def Obligations.HostRequestsServed : Prop :=
  (∀ (c : Instr) (r : HostMsg) (op : HostOp) (s : State), hostOpOf c = some (r, op) → s.memArrives r.head.val = true →
    let n := r.host.val
    let h := r.head.val
    let entry := s.admitHost r op.isWrite fun line => op.stores && s.owns n line
    let meter := fun line ctx => s.meterCheck ctx (.host (hostLineReq n h op line ctx)) 64
    (entry = .refused → exec c s = .next (settle s (s.refuseHost n h (s.hostLine r) op))) ∧
    (∀ line, entry = .recovering line → exec c s = .next (settle s (s.answerRecovering n h line op))) ∧
    (∀ line ctx, entry = .served line ctx → op.stores = false →
      (s.sliceFull line = true → s.Quiet → exec c s = .next s) ∧
      (s.sliceFull line = false →
        (∀ u y, meter line ctx = (u, .pass y) → exec c s = .next (settle s (u.submit (hostLineReq n h op line ctx)).go)) ∧
        (∀ u, meter line ctx = (u, .wait) → s.delayFull ctx = false → exec c s = .next (settle s u)) ∧
        ((∀ u y, meter line ctx ≠ (u, .pass y)) → s.delayFull ctx = true → s.Quiet → exec c s = .next s))) ∧
    ∀ line ctx m d p mv, entry = .served line ctx → op = .wr m d p mv →
      (s.owns n line = false → exec c s = .next (settle s (if mv = .s ∨ mv = .a then s.protocolError r
        else (s.submit (hostLineReq n h op line ctx)).go))) ∧
      ∀ e lop, SMap.find s.dir line = some e → s.owns n line = true → op.lineOp = some lop → s.chunkHeld line = false →
        s.slowLine line = false → (s.cell (line * 64)).isSome →
        ∃ v : State, exec c s = .next (settle s v.pump.go) ∧ v.out.s2m = s.out.s2m ++ [(h, n, line, .cmp)] ∧
          v.tier.mem = (s.perform line lop).1.tier.mem ∧ v.tier.poison = (s.perform line lop).1.tier.poison ∧
          (∀ k, k ≠ line → SMap.find v.dir k = SMap.find s.dir k) ∧ v.waitq = s.waitq ∧
          SMap.find v.dir line =
            if e.st ≠ .m ∨ mv = .a then some { e with wrote := true }
            else if mv = .s then some { st := .s, sharers := 2 ^ n, order := e.order }
            else none) ∧
  ∀ (r : HostMsg) (s : State), s.memArrives r.head.val = true →
    let n := r.host.val
    let h := r.head.val
    (∀ mv (mask : Word) data line ctx, mv = .s ∨ mv = .a → s.admitHost r true (s.owns n ·) = .served line ctx →
      exec (.memWrPtl r mv mask data) s = .next (settle s (s.protocolError r))) ∧
    (∀ mask data p, s.live = true → s.hostKnown r = true →
      ∀ c ∈ [Instr.memRd r .reserved, .memInv r .reserved, .memWr r .reserved data p, .memWrPtl r .reserved mask data],
        exec c s = .next (settle s (s.protocolError r))) ∧
    (s.Quiet → exec (.memSpecRd r) s = .next s) ∧
    ∀ line ctx, s.admitHost r false (fun _ => true) = .served line ctx →
      ∃ u : State, exec (.memClnEvct r) s = .next (settle s u.pump.go) ∧ u.out.s2m = s.out.s2m ++ [(h, n, line, .cmp)] ∧
        (∀ e, SMap.find s.dir line = some e → e.st = .m → e.owner = n → SMap.find u.dir line = none) ∧
        (∀ e, SMap.find s.dir line = some e → e.st = .s → putBit e.sharers n false = 0 → SMap.find u.dir line = none) ∧
        (∀ e, SMap.find s.dir line = some e → e.st = .s → putBit e.sharers n false ≠ 0 →
          SMap.find u.dir line = some { st := .s, sharers := putBit e.sharers n false, order := e.order }) ∧
        ∀ k, k ≠ line → SMap.find u.dir k = SMap.find s.dir k

/-- The directory's part in a host's request (MemRd, MemRdData, MemInv, MemWr, MemWrPtl, `hostOpOf`) that its slice takes (R200,
R202, R203). Where the table lets it be served at once
it completes: the line's entry becomes what the table gives, a write's bytes are written, and the reply is sent: data
for a read, and the completion. Where another host holds the line the entry becomes transient, the request is held in
it, and each host awaited is sent the snoop. -/
def Obligations.DirectoryTable : Prop :=
  ∀ (c : Instr) (r : HostMsg) (op : HostOp) (s0 s : State) (line ctx : Nat), hostOpOf c = some (r, op) →
    s0.memArrives r.head.val = true →
    let h := r.host.val
    let hd := r.head.val
    let q := hostLineReq h hd op line ctx
    s0.admitHost r op.isWrite (fun l => op.stores && s0.owns h l) = .served line ctx →
    (if op.stores then s = s0 ∧ s0.owns h line = false ∧ ∃ m d p, op = .wr m d p .i
      else s0.sliceFull line = false ∧ ∃ y, s0.meterCheck ctx (.host q) 64 = (s, .pass y)) →
    s.Taken q →
    let u := s.submit q
    let done := fun (lop : LineOp) => s.perform line lop
    let data := (s.perform line .read).2
    let reply :=
      (match op with
        | .rdS | .rdA | .rdI => [(hd, h, line, S2M.memData (fitBytes 64 data.data) (decide (data.st ≠ .ok)))]
        | _ => []) ++ [(hd, h, line, op.cmp)]
    let stays := (∀ k, k ≠ line → SMap.find u.dir k = SMap.find s.dir k) ∧ u.waitq = s.waitq
    let gives := fun (e : Option DirEnt) =>
      SMap.find u.dir line = e ∧ stays ∧ u.out.s2m = s.out.s2m ++ reply ∧ u.regs = s.regs ∧
      (op.stores = false → u.tier.mem = s.tier.mem ∧ u.tier.poison = s.tier.poison) ∧
      ∀ lop, op.stores = true → op.lineOp = some lop →
        u.tier.mem = (done lop).1.tier.mem ∧ u.tier.poison = (done lop).1.tier.poison
    let shared := fun (m order : Nat) => some { st := DirState.s, sharers := m, order := order : DirEnt }
    let owned := fun (order : Nat) => some { st := DirState.m, owner := h, order := order : DirEnt }
    let snoops := fun (e : DirEnt) (st : DirState) (mask : Nat) (m : S2M) =>
      s.transients line < 256 → ((setBits 64 mask).all fun g => decide (s.snoopsOut g < s.snoopMax)) = true →
      SMap.find u.dir line =
        some { e with st := st, awaited := mask, keep := false, pend := some (.host h hd op), since := s.tick } ∧ stays ∧
      u.out.s2m = s.out.s2m ++ (setBits 64 mask).map (fun g => (s.hostHead g, g, line, m)) ∧
      u.tier.mem = s.tier.mem ∧ u.tier.poison = s.tier.poison
    exec c s0 = .next (settle s0 u.go) ∧
    (SMap.find s.dir line = none →
      (op = .rdI ∨ op = .invN ∨ op.stores = true → gives none) ∧
      (s.makeRoom line = (s, true) → (op = .rdS → gives (shared (2 ^ h) s.tier.stables)) ∧
        (op = .rdA ∨ op = .invA → gives (owned s.tier.stables)))) ∧
    ∀ e, SMap.find s.dir line = some e →
      (e.st = .s →
        let others := putBit e.sharers h false
        (op = .rdS → gives (shared (putBit e.sharers h true) e.order)) ∧ (op = .rdI → gives (some e)) ∧
        (others = 0 → (op = .rdA ∨ op = .invA → gives (owned e.order)) ∧ (op = .invN ∨ op.stores = true → gives none)) ∧
        (others ≠ 0 → op ≠ .rdS → op ≠ .rdI → snoops e .sInv others .snpInv)) ∧
      (e.st = .m → e.owner = h →
        (op = .rdS → gives (shared (2 ^ h) e.order)) ∧ (op = .rdA ∨ op = .invA → gives (owned e.order)) ∧
        (op = .rdI ∨ op = .invN → gives none)) ∧
      (e.st = .m → e.owner ≠ h →
        (op = .rdS ∨ op = .rdI → snoops e .mData (2 ^ e.owner) .snpData) ∧
        (op ≠ .rdS → op ≠ .rdI → snoops e .mInv (2 ^ e.owner) .snpInv))

/-- What hosts answer (R203 to R205): BIRspI and BIRspS, the latter only to SnpData, take an awaited host out of the line's
entry, and the line is settled when none is left; BIConflict is acknowledged, changing no entry. -/
def Obligations.HostsAnswerSnoops : Prop :=
  ∀ (r : HostMsg) (s : State), s.memArrives r.head.val = true →
    let n := r.host.val
    (∀ k l e, s.live = true → s.hostKnown r = true → s.hostDecode r.head.val r.hpa.toNat = some (k, l) →
      SMap.find s.dir (l / 64) = some e → bit e.awaited n = true →
      let left := putBit e.awaited n false
      ∀ c ∈ ([(.biRspI, false), (.biRspS, true)] : List ((HostMsg → Instr) × Bool)), c.2 = false ∨ e.st = .mData →
        ∃ u : State, exec (c.1 r) s =
            .next (settle s (if left = 0 then u.pump else u).go) ∧
          (∃ d, u = { s with dir := d }) ∧ (∀ k, k ≠ l / 64 → SMap.find u.dir k = SMap.find s.dir k) ∧
          SMap.find u.dir (l / 64) = some { e with awaited := left, keep := e.keep || c.2 }) ∧
    (s.Quiet → exec (.biConflict r) s = .next { s with out := { s.out with
      s2m := s.out.s2m ++ [(r.head.val, n, s.hostLine r, .biConflictAck)] } })

/-- A host goes down (R198, R213 to R215): by a message that is a protocol error (MemRdFwd, BIRspE and the Blk forms), by a
snoop not answered in time, or declared by software. DOWN is set with its cause, none of its requests waits, and a line
that it owned and had not written back reads as poison and has no entry, before the surviving hosts are answered. -/
def Obligations.HostsGoDown : Prop :=
  let down := fun (s : State) (o : Host.Outcome State Fault Refusal) (n cause : Nat) =>
    ∃ u : State, o = .next (settle s (u.flushRecovering.pump.recallRecovering).go) ∧
      u.flag (Reg.HOME_HOST n) Reg.HOME_HOST_DOWN = true ∧ u.fld (Reg.HOME_HOST n) Reg.HOME_HOST_DOWN_CAUSE = cause ∧
      (∀ x ∈ u.waitq, x.who.ofHost n = false) ∧
      ∀ line e, SMap.find s.dir line = some e → (s.dir.filter fun x => x.1 = line).length ≤ 1 → e.st = .m → e.owner = n →
        SMap.find u.dir line = none ∧
        (e.wrote = false → (s.cell (line * 64)).isSome → u.linePoison line = true)
  (∀ (r : HostMsg) (s : State) (x : Bool), s.memArrives r.head.val = true → s.live = true → s.hostKnown r = true →
    down s (exec (.memRdFwd r x) s) r.host.val 4 ∧ down s (exec (.biRspE r x) s) r.host.val 4) ∧
  (∀ (n : Fin 64) (s : State), s.flag (Reg.HOME_HOST n.val) Reg.HOME_HOST_DOWN = false →
    (∃ x ∈ s.dir, bit x.2.awaited n.val = true ∧ x.2.since + s.snoopTicks ≤ s.tick) →
    down s (exec (.snoopTimeout n) s) n.val 2) ∧
  ∀ (via : Via) (n : Fin 64) (v : Word) (s : State), s.mayWrite via (Reg.HOME_HOST n.val).off = true →
    s.secureVia via = true → s.flag (Reg.HOME_HOST n.val) Reg.HOME_HOST_DOWN = false →
    newFld Reg.HOME_HOST_DOWN v = 1 → down s (exec (.hostDownDeclare via n v) s) n.val 1

/-- HOST_RETURN (R221) and HOST_INVALIDATE (R194) of a host that is down and in no RECOVERING domain, RESTART (R220) of a
DOWN domain all of whose hosts have returned, DOMAIN_DOWN (R215 step 6) once recovery has finished. -/
def Obligations.HostsAndDomainsReturn : Prop :=
  (∀ (via : Via) (n : Fin 64) (v : Word) (s : State), s.Quiet →
    let r := Reg.HOME_HOST n.val
    s.mayWrite via r.off = true → s.secureVia via = true → s.flag r Reg.HOME_HOST_DOWN = true →
    s.hostRecovering n.val = false → newFld Reg.HOME_HOST_DOWN v = 0 → s.flag r Reg.HOME_HOST_VALID = true →
    (newFld Reg.HOME_HOST_VALID v = 1 → ∃ t, exec (.hostReturn via n v) s = .next t ∧ s.OnlyReg t r ∧
      t.flag r Reg.HOME_HOST_DOWN = false ∧ t.fld r Reg.HOME_HOST_DOWN_CAUSE = 0 ∧ t.flag r Reg.HOME_HOST_VALID = true ∧
      t.fld r Reg.HOME_HOST_HEAD = s.fld r Reg.HOME_HOST_HEAD) ∧
    (newFld Reg.HOME_HOST_VALID v = 0 → ∃ t, exec (.hostInvalidate via n v) s = .next t ∧ s.OnlyReg t r ∧
      t.flag r Reg.HOME_HOST_VALID = false)) ∧
  (∀ (via : Via) (d : Fin 256) (s : State), s.Quiet → s.mayWrite via (Reg.HOME_CDOM_STATE d.val).off = true →
    s.secureVia via = true → s.domState d.val = 2 →
    (∀ n, n < 64 → s.domLists d.val n = true → s.flag (Reg.HOME_HOST n) Reg.HOME_HOST_DOWN = false) →
    ∃ t, exec (.restart via d) s = .next t ∧ s.OnlyReg t (Reg.HOME_CDOM_STATE d.val) ∧ t.domState d.val = 0) ∧
  (∀ s : State, s.recoveryDone = true → ∃ u : State, exec .domainDown s = .next (settle s u) ∧
    (∀ d, d < 256 → u.domState d = if s.domState d = 1 then 2 else s.domState d) ∧ u.dir = s.dir ∧ u.tier = s.tier)

/-! ## Tiers, compositions, Dynamic Capacity -/

/-- Dynamic Capacity (R102 to R106, R568): a region set, an extent added and offered, accepted or declined by a host,
released by one, released by force, and, once nothing of it is outstanding (no request, no combined atomic, no host's line),
scrubbed and gone, when no channel retrains: no line of its pages is poisoned, and a page that shares its frame with no other reads as zeros. An extent whose last host leaves is DRAINING. -/
def Obligations.DynamicCapacity : Prop :=
  (∀ (region : Fin 8) (base len : Nat) (s : State), s.Quiet → s.fmServed = true → wholeUnits base len = true →
    base + len ≤ s.window → (∀ e ∈ s.tier.regions, e.1 ≠ region.val → meets base len e.2.1 e.2.2 = false) →
    (∀ e ∈ s.tier.extents, meets (SMap.get s.tier.regions region.val (0, 0)).1 (SMap.get s.tier.regions region.val (0, 0)).2
      e.2.base e.2.len = false) →
    ∃ t, exec (.setDcRegionConfiguration region base len) s = .next t ∧
      SMap.get t.tier.regions region.val (0, 0) = (base, len) ∧
      (∀ k, k ≠ region.val → SMap.get t.tier.regions k (0, 0) = SMap.get s.tier.regions k (0, 0)) ∧
      t.out.replies = s.out.replies ++ [⟨.i3c, 0x50002, 0, []⟩] ∧ t.tier.extents = s.tier.extents ∧ t.regs = s.regs) ∧
  (∀ (base len tag : Nat) (hosts : Word) (s : State), s.fmServed = true → s.addOk base len hosts.toNat = true →
    let n := s.tier.nextExt
    ∃ t, exec (.addDynamicCapacity base len tag hosts) s = .next t ∧
      SMap.find t.tier.extents n = some { base := base, len := len, tag := tag, offered := hosts.toNat } ∧
      (∀ k, k ≠ n → SMap.find t.tier.extents k = SMap.find s.tier.extents k) ∧ t.tier.nextExt = n + 1 ∧
      t.out.replies = s.out.replies ++ [⟨.i3c, 0x50004, 0, natLE 8 n⟩] ∧
      ∀ k, k < 4 → (t.head k).events = (s.head k).events ++
        (if (setBits 64 hosts.toNat).any (fun i => s.hostHead i = k) then [4 * n] else [])) ∧
  (∀ (h : Fin 4) (host : Fin 64) (ext : Nat) (s : State) (x : Extent), s.hostAt h host.val = true →
    SMap.find s.tier.extents ext = some x → bit x.offered host.val = true → bit x.answered host.val = false →
    x.st = .offered ∨ x.st = .accepted →
    let a := putBit x.answered host.val true
    (∃ t, exec (.addDynamicCapacityResponse h host ext true) s = .next t ∧ SMap.find t.tier.extents ext =
        some { x with answered := a, listed := putBit x.listed host.val true, st := .accepted }) ∧
    (x.listed = 0 → a = x.offered → ∃ u : State, exec (.addDynamicCapacityResponse h host ext false) s =
        .next (settle s u.go) ∧ SMap.find u.tier.extents ext = some { x with answered := a, st := .draining, listed := 0 }) ∧
    (x.listed ≠ 0 ∨ a ≠ x.offered → ∃ t, exec (.addDynamicCapacityResponse h host ext false) s = .next t ∧
        SMap.find t.tier.extents ext = some { x with answered := a })) ∧
  (∀ (h : Fin 4) (host : Fin 64) (ext : Nat) (s : State) (x : Extent), s.hostAt h host.val = true →
    SMap.find s.tier.extents ext = some x → x.st = .accepted → bit x.listed host.val = true →
    let l := putBit x.listed host.val false
    ∃ u : State, exec (.releaseDynamicCapacity h host ext) s = .next (settle s u.go) ∧
      SMap.find u.tier.extents ext = some (if l = 0 then { x with st := .draining, listed := 0 } else { x with listed := l })) ∧
  (∀ (ext : Nat) (s : State) (x : Extent), s.fmServed = true → SMap.find s.tier.extents ext = some x →
    x.st = .offered ∨ x.st = .accepted → ∃ u : State, exec (.forcedRelease ext) s = .next (settle s u.go) ∧
      SMap.find u.tier.extents ext = some { x with st := .draining, listed := 0 }) ∧
  (∀ (ext : Nat) (s : State) (x : Extent), s.Quiet → SMap.find s.tier.extents ext = some x → x.st = .draining →
    (∀ e ∈ s.dir, x.hasLine e.1 = false) → (∀ r ∈ s.waitq, x.hasLine r.line = false) →
    (∀ e ∈ s.tier.late, x.hasLine e.2.line = false) → (∀ e ∈ s.tier.serving, x.hasLine (e.2 * 4) = false) →
    (∀ e ∈ s.combine, x.hasLine e.2.line = false) →
    exec (.extentDrainDone ext) s = .next (s.setExtent ext { x with st := .scrubbing })) ∧
  ∀ (ext : Nat) (s : State) (x : Extent), SMap.find s.tier.extents ext = some x → x.st = .scrubbing →
    (∀ n e, s.page n = some e → x.hasLine (n * 64) = true → e.st = .resident) →
    s.tier.slow = [] → (∀ e ∈ s.tier.late, e.2.who ≠ .scrub) →
    ∃ t, exec (.extentScrubDone ext) s = .next t ∧ SMap.find t.tier.extents ext = none ∧
      t.out.replies = s.out.replies ++ [⟨.i3c, 0x50005, 0, natLE 8 ext⟩] ∧ t.tier.pht = s.tier.pht ∧
      ∀ n e, (n, e) ∈ s.tier.pht → s.page n = some e → x.hasLine (n * 64) = true → ∀ i, i < 64 →
        t.linePoison (n * 64 + i) = false ∧
        (s.tier.pht = [(n, e)] → t.readLine (n * 64 + i) = List.replicate 64 0)

/-- Late accesses of the tiers (R97, R98): one that completes is performed and answered and its channel is no longer slow;
one with an uncorrectable error answers `ST_TIER_ERR` and leaves a line that it read, an atomic's too, as poison; one past its
tier's deadline answers `ST_TIMEOUT`; a zero-fill that fails is issued again (R106). CHANNEL_RETRAIN (R542): accesses of the channel are late from here on.
RETIREMENT_RESUME (R101): a paused retirement goes on once a frame is free. RETIREMENT_DONE (R521, R560): a part that is
RETIRING and holds nothing more is RETIRED; a port fails, and for every other part but a bank the capabilities' GEN
counts. -/
def Obligations.TierAccessesAndRetirement : Prop :=
  ((∀ (id : Nat) (s : State) (a : TierAcc), SMap.find s.tier.late id = some a →
    (∀ op, a.who.lineOp = some op → ∃ sl, (∀ x ∈ sl, x ∈ s.tier.slow) ∧
      (∀ k p ch, s.lineDevice a.line = some (k, p, ch) → (tierCode k, ch) ∉ sl) ∧
      let t : State := { s with tier := { s.tier with late := SMap.del s.tier.late id, slow := sl } }
      let p := t.perform a.line op
      exec (.tierAccessComplete id .ok) s = .next (settle s (p.1.answer a.line a.who p.2).pump.go)) ∧
    (a.who ≠ .scrub → ∃ u : State, exec (.tierAccessComplete id .ue) s =
        .next (settle s (u.answer a.line a.who { st := .tierErr }).pump.go) ∧ SMap.find u.tier.late id = none ∧
      (a.who.lineOp = some .read ∨ (∃ o w f x y, a.who.lineOp = some (.atomic o w f x y)) →
        (s.cell (a.line * 64)).isSome → u.linePoison a.line = true)) ∧
    (a.who = .scrub → ∃ u : State, exec (.tierAccessComplete id .ue) s = .next (settle s (u.serve a.line .scrub).pump.go) ∧
      SMap.find u.tier.late id = none) ∧
    (a.who ≠ .scrub → ∀ t p ch, s.lineDevice a.line = some (t, p, ch) → a.at_ + s.tierTicks t ≤ s.tick →
      ∃ u : State, exec (.tierDeadline id) s = .next (settle s (u.answer a.line a.who { st := .timeout }).pump.go) ∧
        SMap.find u.tier.late id = none)) ∧
  ∀ (tier : Tier) (ch : Fin 256) (s : State), s.power = 1 ∨ s.power = 3 ∨ s.power = 5 →
    (∃ sl, (tierCode tier, ch.val) ∈ sl ∧
      (∀ x ∈ sl, x = (tierCode tier, ch.val) ∨ (x ∈ s.tier.slow ∧ (x.1 ≠ tierCode tier ∨
        channelPart tier x.2 ≠ channelPart tier ch.val))) ∧
      (s.Quiet → exec (.channelRetrain tier ch false) s = .next { s with tier := { s.tier with slow := sl } })) ∧
    ∃ u : State, exec (.channelRetrain tier ch true) s = .next (settle s u.go) ∧
      (tierCode tier, ch.val) ∈ u.tier.slow) ∧
  ((∀ (part : PartId) (s : State), s.tier.paused.contains part = true →
    (if part.kind = 1 then 0 < s.freeCount (part.idx.toNat / 4) .lpddr
      else 0 < s.freeCount (part.idx.toNat / 16) .lpddr ∨ 0 < s.freeCount (part.idx.toNat / 16) .hbm) →
    ∃ u : State, exec (.retirementResume part) s = .next (settle s u.go) ∧ part ∉ u.tier.paused ∧
      (∀ p, p ≠ part → (p ∈ u.tier.paused ↔ p ∈ s.tier.paused)) ∧ ∃ l, u = { s with tier := { s.tier with paused := l } }) ∧
  ∀ (part : PartId) (s : State), (s.health part).st = 2 → s.retireReady part = true →
    ∃ u : State, exec (.retirementDone part) s = .next (settle s u.go) ∧ u.retired part = true ∧
      part ∉ u.tier.retiredParts ∧ (∀ p : PartId, p.code ≠ part.code → u.health p = s.health p) ∧
      (part.kind ≠ 3 → part.kind ≠ 9 → u.fld Reg.GLB_CAP_GEN Reg.GLB_CAP_GEN_GEN =
        (s.fld Reg.GLB_CAP_GEN Reg.GLB_CAP_GEN_GEN + 1) %
          2 ^ (Reg.GLB_CAP_GEN_GEN.hi + 1 - Reg.GLB_CAP_GEN_GEN.lo)) ∧
      (part.kind = 3 → u.regs = s.regs))

/-- Settings of the store. WINDOW_WRITE (R79) takes the window while no page is backed, and is ignored while one is.
MAP_EPOCH_COMMIT (R108) with the next number makes the staged sets current and the current ones the previous, and is
ignored with any other. CMTR_SNAPSHOT shows the meters; PTICK_PERIOD (R113), 2^20 ticks after the last, advances them; EMB_DRAIN_SNAPSHOT (R404) shows
a table's two drain counts. -/
def Obligations.StoreSettings : Prop :=
  (∀ (via : Via) (v : Word) (s : State), s.mayWrite via Reg.TIER_PHT_CFG.off = true → s.secureVia via = true →
    let t := s.writePlain true Reg.TIER_PHT_CFG [] v.toNat
    (s.Quiet → s.tier.pht = [] → s.windowFits t = true → exec (.windowWrite via v) s = .next t ∧
      t.fld Reg.TIER_PHT_CFG Reg.TIER_PHT_CFG_WINDOW = Reg.TIER_PHT_CFG_WINDOW.get v.toNat ∧
      s.OnlyReg t Reg.TIER_PHT_CFG) ∧
    (s.tier.pht ≠ [] → ∃ t, exec (.windowWrite via v) s = .next t ∧ t.regs = s.regs ∧ t.tier = s.tier)) ∧
  (∀ (via : Via) (v : Word) (s : State), s.mayWrite via Reg.TIER_MAP_EPOCH.off = true → s.secureVia via = true →
    let next := newFld Reg.TIER_MAP_EPOCH_NEXT v
    (next = (s.epoch + 1) % 2 ^ 32 → ∃ t, exec (.mapEpochCommit via v) s = .next t ∧ t.tier.cur = s.staged ∧
      t.tier.prev = s.tier.cur ∧ t.epoch = next ∧ (∀ r : RegId, r.off ≠ Reg.TIER_MAP_EPOCH.off → t.reg r = s.reg r) ∧
      t.tier.pht = s.tier.pht ∧ t.tier.mem = s.tier.mem) ∧
    (next ≠ (s.epoch + 1) % 2 ^ 32 → ∃ t, exec (.mapEpochCommit via v) s = .next t ∧ t.regs = s.regs ∧ t.tier = s.tier)) ∧
  (∀ (via : Via) (v : Word) (s : State), s.Quiet → s.mayWrite via Reg.TIER_CMTR_SEL.off = true →
    let c := newFld Reg.TIER_CMTR_SEL_COMP v
    let m := SMap.get s.tier.meters c {}
    ∃ t, exec (.cmtrSnapshot via v) s = .next t ∧
      s.OnlyRegs t [Reg.TIER_CMTR_SEL, Reg.TIER_CMTR_PAGES, Reg.TIER_CMTR_PTICK, Reg.TIER_CMTR_RD, Reg.TIER_CMTR_WR] ∧
      t.reg Reg.TIER_CMTR_PTICK = m.ptick % 2 ^ 64 ∧ t.reg Reg.TIER_CMTR_RD = m.rd % 2 ^ 64 ∧
      t.reg Reg.TIER_CMTR_WR = m.wr % 2 ^ 64) ∧
  (∀ s : State, s.Quiet → s.tier.ptickAt + 2 ^ 20 ≤ s.tick → ∃ t, exec .ptickPeriod s = .next t ∧
    (∃ m, t = { s with tier := { s.tier with meters := m, ptickAt := s.tier.ptickAt + 2 ^ 20 } }) ∧
    ∀ c, SMap.get t.tier.meters c {} = let m := SMap.get s.tier.meters c {}
      let n := (s.tier.pht.filter fun e => s.compOf (e.1 * 4096) = some c).length
      if n = 0 then m else { m with ptick := (m.ptick + n) % 2 ^ 64 }) ∧
  ∀ (via : Via) (v : Word) (s : State), s.Quiet → s.mayWrite via Reg.EMB_DRAIN_SEL.off = true →
    let x := newFld Reg.EMB_DRAIN_SEL_TABLE v
    ∃ t, exec (.embDrainSnapshot via v) s = .next t ∧ s.OnlyRegs t [Reg.EMB_DRAIN_SEL, Reg.EMB_DRAIN] ∧
      t.fld Reg.EMB_DRAIN Reg.EMB_DRAIN_VER0 = s.drainOf x false % 2 ^ 32 ∧
      t.fld Reg.EMB_DRAIN Reg.EMB_DRAIN_VER1 = s.drainOf x true % 2 ^ 32

/-- PARTITION_COMMIT (R23): in one step the staged members are in force and the fields of `GLB_PART_CTL` are those written.
UNIT_DISABLE (R562): with every engine idle the disable bits are those written. UNITS_LOCK (R563): UNITS is set, after
which writes of `GLB_UNIT_DIS` change nothing. Each acts for a secure access alone. -/
def Obligations.PartitionAndUnits : Prop :=
  ∀ (via : Via) (v : Word) (s : State), s.Quiet →
    (s.mayWrite via Reg.GLB_PART_CTL.off = true → s.secureVia via = true →
      s.flag Reg.GLB_PART_CTL Reg.GLB_PART_CTL_HALL = false ∨ newFld Reg.GLB_PART_CTL_HALL v = 1 →
      ∃ t, exec (.partitionCommit via v) s = .next t ∧ s.OnlyRegs t [Reg.GLB_PART_CTL, Reg.GLB_PART_MEMBERS] ∧
        t.reg Reg.GLB_PART_MEMBERS = s.reg Reg.PART_STAGED ∧
        ∀ f ∈ [Reg.GLB_PART_CTL_HEADS, Reg.GLB_PART_CTL_PART_ID, Reg.GLB_PART_CTL_GEN, Reg.GLB_PART_CTL_HALL],
          t.fld Reg.GLB_PART_CTL f = f.get v.toNat) ∧
    (s.mayWrite via Reg.GLB_PART_CTL.off = true → s.secureVia via = true →
      s.flag Reg.GLB_PART_CTL Reg.GLB_PART_CTL_HALL = true → newFld Reg.GLB_PART_CTL_HALL v = 0 →
      ∃ u : State, exec (.partitionCommit via v) s = .next (settle s u.go) ∧
        u.reg Reg.GLB_PART_MEMBERS = s.reg Reg.PART_STAGED ∧ u.flag Reg.GLB_PART_CTL Reg.GLB_PART_CTL_HALL = false ∧
        ∀ o ∈ u.fab.outs, o.dst / 32 = s.rack) ∧
    (s.mayWrite via Reg.GLB_UNIT_DIS.off = true → s.secureVia via = true → s.flag Reg.GLB_LOCK Reg.GLB_LOCK_UNITS = false →
      (∀ e, s.engineIdle e = true) →
      ∃ u : State, exec (.unitDisable via v) s = .next (settle s u.go) ∧
        ∀ f ∈ [Reg.GLB_UNIT_DIS_KTL, Reg.GLB_UNIT_DIS_GKO, Reg.GLB_UNIT_DIS_EMB],
          u.fld Reg.GLB_UNIT_DIS f = f.get v.toNat) ∧
    (s.mayWrite via Reg.GLB_LOCK.off = true → s.secureVia via = true → newFld Reg.GLB_LOCK_UNITS v = 1 →
      ∃ t, exec (.unitsLock via v) s = .next t ∧ s.OnlyReg t Reg.GLB_LOCK ∧
        t.flag Reg.GLB_LOCK Reg.GLB_LOCK_UNITS = true) ∧
    (s.flag Reg.GLB_LOCK Reg.GLB_LOCK_UNITS = true → exec (.unitDisable via v) s = .next s) ∧
    (s.secureVia via = false → exec (.partitionCommit via v) s = .next s ∧ exec (.unitDisable via v) s = .next s ∧
      exec (.unitsLock via v) s = .next s)

/-! ## Host heads -/

/-- The mailbox, the DOE mailbox and the decoders of a served head (R456, R457, R461). Each request is answered with one reply
on its head: the state that the module holds for it, a payload that CXL 3.1 lays out as free bytes, or Unsupported for
every command outside the list. -/
def Obligations.MailboxAndDoe : Prop :=
  ∀ (h : Fin 4) (s : State), s.Quiet → s.headUp h.val = true → s.ras.romOnly = false →
    let x := s.head h.val
    let tells := fun (c : Instr) (op code : Nat) (d : List Byte) =>
      exec c s = .next (s.reply (.doe h) op code d)
    let frees := fun (c : Instr) (op : Nat) =>
      exec c s = .next ({ s with free := s.free + 1 }.reply (.doe h) op 0 (Config.payload op s.free))
    let sets := fun (c : Instr) (op : Nat) (y : Head) =>
      ∃ t, exec c s = .next (t.reply (.doe h) op 0 []) ∧ (∃ m, t = { s with heads := m }) ∧ t.head h.val = y ∧
        ∀ k, k ≠ h.val → t.head k = s.head k
    frees (.identify h) 0x0001 ∧ frees (.getSupportedLogs h) 0x0400 ∧ frees (.getLog h) 0x0401 ∧
    frees (.identifyMemoryDevice h) 0x4000 ∧ frees (.getPoisonList h) 0x4300 ∧
    tells (.getEventRecords h) 0x0100 0 (x.events.flatMap (natLE 8)) ∧
    (∀ n, sets (.clearEventRecords h n) 0x0101 { x with events := x.events.drop n }) ∧
    tells (.getEventInterruptPolicy h) 0x0102 0 (natLE 5 x.policy.toNat) ∧
    (∀ p, sets (.setEventInterruptPolicy h p) 0x0103 { x with policy := p }) ∧
    tells (.getTimestamp h) 0x0300 0 (natLE 8 x.timestamp.toNat) ∧
    (∀ v, sets (.setTimestamp h v) 0x0301 { x with timestamp := v }) ∧
    tells (.getDynamicCapacityConfiguration h) 0x4800 0 ((List.range 8).flatMap fun r =>
      natLE 8 (SMap.get s.tier.regions r (0, 0)).1 ++ natLE 8 (SMap.get s.tier.regions r (0, 0)).2) ∧
    tells (.getDynamicCapacityExtentList h) 0x4801 0 ((s.tier.extents.filter fun e => s.listedBehind h.val e.2).flatMap fun e =>
      natLE 8 e.2.base ++ natLE 8 e.2.len ++ natLE 16 e.2.tag) ∧
    (∀ op : BitVec 16, mailboxOps.contains op.toNat = false → tells (.unsupportedMailboxCommand h op) op.toNat 3 []) ∧
    (∀ i, tells (.doeDiscovery h i) 0x10000 0 (match doeObjects[i]? with
      | some (v, t) => natLE 2 v ++ natLE 1 t ++ natLE 1 (if i < 3 then i + 1 else 0)
      | none => [0xFF, 0xFF, 0, 0])) ∧
    (∀ i, tells (.cdatTableAccess h i) 0x11E98 0 (Config.payload 0x11E98 i)) ∧
    ∀ (k : Fin 8) (d : Decoder), ∃ t, exec (.hdmDecoderCommit h k d) s = .next t ∧ (∃ m, t = { s with heads := m }) ∧
      (s.decoderOk d = true → SMap.find (t.head h.val).decoders k.val = some d ∧
        bit (t.head h.val).decErr k.val = false) ∧
      (s.decoderOk d = false → (t.head h.val).decoders = x.decoders ∧ bit (t.head h.val).decErr k.val = true)

/-- An SPDM request (R462, R493, R494) on a transport that reaches the responder, in its order: the responder's progress is as
the request leaves it and one reply goes back; out of its order the reply is an ERROR and nothing else changes. -/
def Obligations.SpdmRequests : Prop :=
  ∀ (t : Transport) (s : State), s.Quiet → s.transportUp t = true → s.mctpOpen t = true → s.power ≠ 2 →
    let x := s.spdmOf t
    let error := fun (c : Instr) (code : Nat) => exec c s = .next (s.reply t 0x2007F code [])
    let tells := fun (c : Instr) (op : Nat) (y : Spdm) (d : List Byte) (n : Nat) =>
      ∃ u, exec c s = .next (u.reply t (0x20000 + op) 0 d) ∧ (∃ m, u = { s with spdm := m, free := s.free + n }) ∧
        u.spdmOf t = y ∧ ∀ r, transportKey r ≠ transportKey t → u.spdmOf r = s.spdmOf r
    tells (.getVersion t) 0x84 { version := true } [0x13] 0 ∧
    (x.version = true → tells (.getCapabilities t) 0xE1 { x with caps := true } (Config.payload 0xE1 0) 0) ∧
    (x.version = false → error (.getCapabilities t) 4) ∧
    (∀ o, x.caps = true → (offerOk o = true →
        tells (.negotiateAlgorithms t o) 0xE3 { x with algs := true } (Config.payload 0xE3 0) 0) ∧
      (offerOk o = false → error (.negotiateAlgorithms t o) 1)) ∧
    (∀ o, x.caps = false → error (.negotiateAlgorithms t o) 4) ∧
    (x.algs = true →
      tells (.getDigests t) 0x81 x (1 :: natLE 64 (Config.sha512 s.chain).toNat) 0 ∧
      tells (.getCertificate t 0) 0x82 x s.chain 0 ∧ (∀ k, k ≠ 0 → error (.getCertificate t k) 1) ∧
      (∀ nonce, tells (.challenge t 0 nonce) 0x83 x (nonce ++ Config.payload 0x83 s.free) 1) ∧
      (∀ k nonce, k ≠ 0 → error (.challenge t k nonce) 1) ∧
      (∀ (i : BitVec 8) nonce, 1 ≤ i.toNat → i.toNat ≤ 5 →
        let d := natLE 1 i.toNat ++ s.measurement i.toNat
        tells (.getMeasurements t i nonce false) 0xE0 x d 0 ∧
        tells (.getMeasurements t i nonce true) 0xE0 x (d ++ nonce ++ Config.payload 0xE0 s.free) 1) ∧
      (∀ nonce, tells (.getMeasurements t 0xFF nonce false) 0xE0 x
        ([1, 2, 3, 4, 5].flatMap fun i => natLE 1 i ++ s.measurement i) 0) ∧
      (∀ peer, tells (.keyExchange t peer) 0xE4 { x with handshake := true } (Config.payload 0xE4 s.free) 1)) ∧
    (x.algs = false → error (.getDigests t) 4 ∧ (∀ k, error (.getCertificate t k) 4) ∧
      (∀ k nonce, error (.challenge t k nonce) 4) ∧ (∀ i nonce sg, error (.getMeasurements t i nonce sg) 4) ∧
      ∀ peer, error (.keyExchange t peer) 4) ∧
    (x.handshake = true → tells (.finish t) 0xE5 { x with handshake := false, session := true, keyGen := 0 } [] 0) ∧
    (x.handshake = false → error (.finish t) 4) ∧
    (x.session = true → tells (.keyUpdate t) 0xE9 { x with keyGen := x.keyGen + 1 } [] 0 ∧ tells (.heartbeat t) 0xE8 x [] 0 ∧
      tells (.endSession t) 0xEC { x with session := false, keyGen := 0 } [] 0) ∧
    (x.session = false → error (.keyUpdate t) 4 ∧ error (.heartbeat t) 4 ∧ error (.endSession t) 4)

/-- IDE and MCTP. Keys of a stream are programmed in a session, and a stream that has its keys becomes secure (R463). A failure
ends it, is counted, and takes the head's hosts down (R465). MCTP control is answered, and a message of a type that its
transport does not take is discarded with a record (R466). -/
def Obligations.IdeAndMctp : Prop :=
  (∀ (h : Fin 4) (mem : Bool) (s : State), s.Quiet → s.headUp h.val = true → s.headSession h = true →
    (∃ t, exec (.ideKm h mem false) s = .next t ∧ (∃ m, t = { s with heads := m }) ∧
      bit (t.head h.val).ideKeys mem.toNat = true ∧ (t.head h.val).decoders = (s.head h.val).decoders) ∧
    (bit (s.head h.val).ideKeys mem.toNat = true → ∃ t, exec (.ideKm h mem true) s = .next t ∧
      s.OnlyReg t (Reg.HEAD_STAT h.val) ∧ t.flag (Reg.HEAD_STAT h.val) (ideFld mem) = true)) ∧
  (∀ (h : Fin 4) (mem : Bool) (s : State), s.headStat h.val (ideFld mem) = 1 → s.hostsBehind h.val = [] →
    ∃ t, exec (.ideFailure h mem) s = .next t ∧ t.headStat h.val (ideFld mem) = 0 ∧
      bit (t.head h.val).ideKeys mem.toNat = false ∧ t.fld (Reg.HEAD_CNT h.val) Reg.HEAD_CNT_IDE_FAIL =
        (s.fld (Reg.HEAD_CNT h.val) Reg.HEAD_CNT_IDE_FAIL + 1) % 2 ^ 16 ∧
      ∀ r : RegId, r.off ≠ (Reg.HEAD_STAT h.val).off → r.off ≠ (Reg.HEAD_CNT h.val).off → t.reg r = s.reg r) ∧
  (∀ (h : Fin 4) (mem : Bool) (s : State) (n : Nat), s.headStat h.val (ideFld mem) = 1 → s.hostsBehind h.val = [n] →
    s.flag (Reg.HOME_HOST n) Reg.HOME_HOST_DOWN = false →
    ∃ u : State, exec (.ideFailure h mem) s = .next (settle s (u.flushRecovering.pump.recallRecovering).go) ∧
      u.flag (Reg.HOME_HOST n) Reg.HOME_HOST_DOWN = true ∧ u.fld (Reg.HOME_HOST n) Reg.HOME_HOST_DOWN_CAUSE = 4 ∧
      u.headStat h.val (ideFld mem) = 0) ∧
  ∀ (t : Transport) (k : MctpType) (s : State), (∀ h, t ≠ .doe h) → s.transportUp t = true →
    (s.Quiet → s.mctpOpen t = true → k = .control → exec (.mctpMessage t k) s =
      .next ({ s with free := s.free + 1 }.reply t 0x30000 0 (Config.payload 0x30000 s.free))) ∧
    (s.Quiet → s.mctpOpen t = true → mctpAccepts t k = true → k ≠ .control → exec (.mctpMessage t k) s = .next s) ∧
    (s.mctpOpen t = false ∨ mctpAccepts t k = false → ∃ u, exec (.mctpMessage t k) s = .next u ∧ u.regs = s.regs ∧
      u.spdm = s.spdm ∧ u.heads = s.heads)

/-- A Function Level Reset (R469) clears Bus Master Enable, the MSI-X table, its pending bits and the DOE mailbox, and leaves
the link, the decoders, IDE, CXL.mem and the directory. CONFIG_REQUEST answers Retry Status before READY and
otherwise reads or writes Bus Master Enable (R471, R541). A head's refusals since the last record are recorded once
(R460). -/
def Obligations.HeadConfiguration : Prop :=
  ∀ (h : Fin 4) (s : State),
    let x := s.head h.val
    (s.Quiet → s.headUp h.val = true → ∃ t, exec (.functionLevelReset h) s = .next t ∧
      t.head h.val = { x with bme := false, unmasked := [], pend := [] } ∧ (∀ k, k ≠ h.val → t.head k = s.head k) ∧
      t.regs = s.regs ∧ t.dir = s.dir ∧ t.spdm = s.spdm ∧ t.tier = s.tier ∧
      ∀ r, r ∈ t.out.replies ↔ r ∈ s.out.replies ∧ ¬ (r.via = .doe h ∧ 0x10000 ≤ r.op)) ∧
    (s.Quiet → s.power = 0 ∨ s.power = 2 → ∀ b, exec (.configRequest h b) s = .next (s.reply (.doe h) 0x40000 1 [])) ∧
    (s.Quiet → s.headUp h.val = true →
      exec (.configRequest h none) s = .next (s.reply (.doe h) 0x40000 0 [BitVec.ofNat 8 x.bme.toNat])) ∧
    (s.headUp h.val = true → ∀ b, ∃ t, exec (.configRequest h (some b)) s = .next t ∧ (t.head h.val).bme = b ∧
      (t.head h.val).unmasked = x.unmasked ∧ t.out.replies = s.out.replies ++ [⟨.doe h, 0x40000, 0, []⟩] ∧
      t.regs = s.regs) ∧
    (∀ k, x.refusedIn = some k → k < s.tick / 2 ^ 30 → ∃ t, exec (.headRefusalInterval h) s = .next t ∧
      t.head h.val = { x with refusedIn := none } ∧ t.regs = s.regs)

/-- HEAD_RESET (R467) of a head that is not in reset and has no host behind it: the head's state is gone, its register says so
alone, nothing waits to be sent through it, and each read through it answers `ST_TIER_ERR` before work goes on.
HEAD_RESET_EXIT (R454, R468) sets the trained link, and CXL.mem with flits outside recovery; HOST_DMA_COMPLETION and HOST_DMA_TIMEOUT
(R100, R472) answer who waits for a read of host memory. -/
def Obligations.HeadResetsAndReads : Prop :=
  (∀ (h : Fin 4) (s : State), s.headStat h.val Reg.HEAD_STAT_IN_RESET = 0 → s.hostsBehind h.val = [] →
    ∃ u : State, exec (.headReset h .hotReset) s = .next (settle s u.go) ∧
      u.reg (Reg.HEAD_STAT h.val) = 2 ^ 12 ∧ (u.head h.val).bme = false ∧ (u.head h.val).decoders = [] ∧
      (u.head h.val).events = (s.head h.val).events ∧ (u.head h.val).timestamp = (s.head h.val).timestamp ∧
      (∀ x ∈ u.out.msix, x.1 ≠ h.val) ∧ (∀ x ∈ u.out.s2m, x.1 ≠ h.val) ∧ (∀ x ∈ u.out.hostWr, x.head ≠ h.val) ∧
      (∀ x ∈ u.out.hostRd, x.1 ≠ h.val) ∧ (∀ i d, SMap.find u.dmas i = some d → d.head ≠ h.val)) ∧
  (∀ (h : Fin 4) (speed : Fin 8) (width : Fin 32) (flit : Bool) (s : State),
    s.headStat h.val Reg.HEAD_STAT_IN_RESET = 1 → s.power ≠ 0 → s.power ≠ 4 →
    ∃ t, exec (.headResetExit h speed width flit) s = .next t ∧
      (∀ r : RegId, r.off ≠ Reg.PWR_STAT.off → r.off ≠ (Reg.HEAD_STAT h.val).off → t.reg r = s.reg r) ∧
      t.headStat h.val Reg.HEAD_STAT_IN_RESET = 0 ∧ t.headStat h.val Reg.HEAD_STAT_SPEED = speed.val ∧
      t.headStat h.val Reg.HEAD_STAT_WIDTH = width.val ∧ t.headStat h.val Reg.HEAD_STAT_CXLMEM = (flit && s.power ≠ 2).toNat ∧
      bit (t.fld Reg.PWR_STAT Reg.PWR_STAT_PERST) h.val = false) ∧
  (∀ (id : Nat) (s : State) (d : Dma) (q : Nat) (b : List Byte), SMap.find s.dmas id = some d → d.who = .fetch q →
    exec (.hostDmaCompletion id (.data b)) s =
      .next (settle s (({ s with dmas := SMap.del s.dmas id }.slotArrived q { data := b }).go))) ∧
  ∀ (id : Nat) (s : State) (d : Dma) (k : Nat) (op : LineOp) (w : Task), SMap.find s.dmas id = some d →
    d.who = .task k op → SMap.find s.tasks k = some w →
    let gets := fun (a : Ans) => settle s
      ({ s with dmas := SMap.del s.dmas id, tasks := SMap.put s.tasks k { w with log := w.log ++ [a], wait := .ready, moved := s.tick } }).go
    (∀ b, exec (.hostDmaCompletion id (.data b)) s = .next (gets { data := b })) ∧
    exec (.hostDmaCompletion id .poisoned) s = .next (gets { st := .poison }) ∧
    exec (.hostDmaCompletion id .error) s = .next (gets { st := .tierErr }) ∧
    (d.at_ + 1000 * max 1 (s.fld Reg.TIER_TMO Reg.TIER_TMO_HOST) ≤ s.tick →
      exec (.hostDmaTimeout id) s = .next (gets { st := .tierErr }))

/-! ## Worlds, grants, regions, keys, firmware -/

/-- ENGINE_WORLD_CHANGE (R478): with every engine idle the world bits are those written, for a secure access while WLOCK
(R563) is 0, and an engine whose world changes drops its lines, whose dirty bytes are then written back (`State.go`); WLOCK_SET sets it. GRANT_GO (R484) starts a change that no check refuses, and GRANT_ACKNOWLEDGED (R47) lets
it act on its contexts alone. FIRMWARE_UPDATE (R466, R495, R496, R501), over I3C or a service port that is UP, stages an image with nothing against it and names what is against
another; COMMIT_SVN raises the anti-rollback count to the running image's number, never lowers it. -/
def Obligations.WorldsGrantsFirmware : Prop :=
  (∀ (via : Via) (misc : Bool) (v : Word) (s : State),
    s.mayWrite via (if misc then Reg.SEC_WORLD_MISC.off else Reg.SEC_WORLD_ENG.off) = true → s.secureVia via = true →
    (s.wlock = false → (∀ e, s.engineIdle e = true) →
      ∃ u : State, exec (.engineWorldChange via misc v) s = .next (settle s (if misc then u else u.go)) ∧
        (∀ e, engHasSteep e = true → u.secureEng e ≠ s.secureEng e → u.steepOf e = []) ∧
        if misc then ∀ f ∈ [Reg.SEC_WORLD_MISC_GKO, Reg.SEC_WORLD_MISC_EMB, Reg.SEC_WORLD_MISC_HEAD],
          u.fld Reg.SEC_WORLD_MISC f = f.get v.toNat
        else ∀ f ∈ [Reg.SEC_WORLD_ENG_NEWT, Reg.SEC_WORLD_ENG_KTL], u.fld Reg.SEC_WORLD_ENG f = f.get v.toNat) ∧
    (s.wlock = true → s.Quiet → exec (.engineWorldChange via misc v) s = .next s)) ∧
  (∀ (via : Via) (v : Word) (s : State), s.Quiet → s.mayWrite via Reg.SEC_CFG.off = true → s.secureVia via = true →
    s.wlock = false → newFld Reg.SEC_CFG_WLOCK v = 1 →
    ∃ t, exec (.wlockSet via v) s = .next t ∧ s.OnlyReg t Reg.SEC_CFG ∧ t.wlock = true) ∧
  (∀ (via : Via) (v : Word) (s : State), s.mayWrite via Reg.SEC_GRANT.off = true → newFld Reg.SEC_GRANT_GO v = 1 →
    let sec := s.secureVia via
    let r := Reg.SEC_GRANT.world sec
    let n := newFld Reg.SEC_GRANT_REGION v
    let lo := newFld Reg.SEC_GRANT_CTX_LO v
    let hi := newFld Reg.SEC_GRANT_CTX_HI v
    let refused := s.flag r Reg.SEC_GRANT_BUSY = true ∨ hi < lo ∨ (sec = false ∧ (s.regionAt n).world = true)
    (¬ refused → ∃ t, exec (.grantGo via v) s = .next t ∧ t.flag r Reg.SEC_GRANT_BUSY = true ∧
      SMap.find t.sec.pendGrant (worldKey sec) = some (n, ⟨lo, hi, newFld Reg.SEC_GRANT_CODE v⟩) ∧
      t.sec.grants = s.sec.grants) ∧
    (refused → s.Quiet → ∃ t, exec (.grantGo via v) s = .next t ∧ s.OnlyReg t r ∧
      t.flag r Reg.SEC_GRANT_REFUSED = true)) ∧
  (∀ (secure : Bool) (s : State) (n : Nat) (g : Grant), SMap.find s.sec.pendGrant (worldKey secure) = some (n, g) →
    ∃ t, exec (.grantAcknowledged secure) s = .next t ∧
      t.flag (Reg.SEC_GRANT.world secure) Reg.SEC_GRANT_BUSY = false ∧ SMap.find t.sec.pendGrant (worldKey secure) = none ∧
      ∀ m ctx, t.grantCode m ctx = if m = n ∧ g.lo ≤ ctx ∧ ctx ≤ g.hi then g.code else s.grantCode m ctx) ∧
  (∀ (t : Transport) (img : Image) (s : State), s.power ≠ 0 → Transport.steward t = true → s.ras.romOnly = false →
    (t = .service → s.portUp 49 = true) →
    (s.imageCause img = 0 → ∃ u, exec (.firmwareUpdate t img) s = .next u ∧ u.sec.image = img ∧
      u.sec.staged = some img ∧ u.sec.svnMin = s.sec.svnMin ∧ u.regs = s.regs) ∧
    (s.imageCause img ≠ 0 → s.Quiet →
      exec (.firmwareUpdate t img) s = .next (s.reply t 0x7F (s.imageCause img) []))) ∧
  ∀ (via : Via) (s : State), s.mayWrite via Reg.SEC_FW_CTL.off = true → s.secureVia via = true → s.power ≠ 2 →
    ∃ t, exec (.commitSvn via) s = .next t ∧ t.sec.svnMin = max s.sec.svnMin s.sec.svn ∧ t.sec.image = s.sec.image ∧
      t.regs = s.regs

/-- REGION_LOAD (R480, R483) shows an entry in the staged registers, zeros of a secure region to the other world.
REGION_COMMIT (R481) starts a commit that no check refuses; with REGION_COMMIT_ACK (R482), once no host holds a line of the
region and no combined atomic of it is due, every staged field acts at once. KEY_SLOT_SELECT shows a slot, GENERATE fills an
empty one with a key that nothing names, ERASE empties one that no region uses (R489). -/
def Obligations.RegionsAndKeys : Prop :=
  (∀ (via : Via) (v : Word) (s : State), s.mayWrite via Reg.SEC_RGN_SEL.off = true →
    let sec := s.secureVia via
    let r := Reg.SEC_RGN_SEL.world sec
    let n := newFld Reg.SEC_RGN_SEL_REGION v
    let new := s.stagedRegion sec
    (newFld Reg.SEC_RGN_SEL_COMMIT v = 0 → ∃ t, exec (.regionLoad via v) s = .next t ∧
      let e : Region := if !sec && (s.regionAt n).world then {} else s.regionAt n
      t.sec = s.sec ∧ (t.stagedRegion sec).valid = e.valid ∧ (t.stagedRegion sec).world = e.world ∧
      (t.stagedRegion sec).combine = e.combine ∧ (t.stagedRegion sec).enc = e.enc ∧
      (t.stagedRegion sec).key = e.key % 2 ^ 12 ∧ (t.stagedRegion sec).dom = e.dom % 2 ^ 8 ∧
      (t.stagedRegion sec).base = e.base % 2 ^ 23 ∧ (t.stagedRegion sec).size = e.size % 2 ^ 24) ∧
    (newFld Reg.SEC_RGN_SEL_COMMIT v = 1 →
      (s.refusesCommit sec n new = true → s.Quiet → ∃ t, exec (.regionCommit via v) s = .next t ∧ s.OnlyReg t r ∧
        t.flag r Reg.SEC_RGN_SEL_REFUSED = true) ∧
      (s.refusesCommit sec n new = false → ∃ u : State, exec (.regionCommit via v) s =
          .next (settle s (u.prepareCommit (s.regionAt n) new).go) ∧ u.flag r Reg.SEC_RGN_SEL_BUSY = true ∧
        SMap.find u.sec.pendRgn (worldKey sec) = some (n, new) ∧ u.sec.regions = s.sec.regions))) ∧
  (∀ (secure : Bool) (s : State) (n : Nat) (new : Region),
    SMap.find s.sec.pendRgn (worldKey secure) = some (n, new) → s.heldLines (s.regionAt n) new = [] →
    s.dueCombines (s.regionAt n) new = [] →
    ∃ u : State, exec (.regionCommitAck secure) s = .next (settle s u.go) ∧ u.regionAt n = new ∧
      (∀ m, m ≠ n → u.regionAt m = s.regionAt m) ∧ SMap.find u.sec.pendRgn (worldKey secure) = none ∧
      u.flag (Reg.SEC_RGN_SEL.world secure) Reg.SEC_RGN_SEL_BUSY = false ∧ u.sec.grants = s.sec.grants) ∧
  ∀ (via : Via) (v : Word) (s : State), s.mayWrite via Reg.SEC_KEY_CTL.off = true →
    let sec := s.secureVia via
    let r := Reg.SEC_KEY_CTL.world sec
    let slot := newFld Reg.SEC_KEY_CTL_SLOT v
    let old := SMap.find s.sec.keys slot
    let others := fun (t : State) => ∀ k, k ≠ slot → SMap.find t.sec.keys k = SMap.find s.sec.keys k
    (newFld Reg.SEC_KEY_CTL_GO v = 0 → s.Quiet → ∃ t, exec (.keySlotSelect via v) s = .next t ∧ s.OnlyReg t r ∧
      (t.flag r Reg.SEC_KEY_CTL_LOADED = true ↔ old.isSome) ∧
      t.fld r Reg.SEC_KEY_CTL_USERS = s.keyUsers slot % 2 ^ 13) ∧
    (newFld Reg.SEC_KEY_CTL_GO v = 1 → newFld Reg.SEC_KEY_CTL_OP v = 1 →
      (old = none → ∃ t, exec (.generate via v) s = .next t ∧
        SMap.find t.sec.keys slot = some ⟨Config.freeKey s.free, sec⟩ ∧ others t ∧ t.free = s.free + 1 ∧
        t.flag r Reg.SEC_KEY_CTL_LOADED = true ∧ t.sec.regions = s.sec.regions) ∧
      (old ≠ none → ∃ t, exec (.generate via v) s = .next t ∧ t.sec = s.sec ∧ t.flag r Reg.SEC_KEY_CTL_REFUSED = true)) ∧
    (newFld Reg.SEC_KEY_CTL_GO v = 1 → newFld Reg.SEC_KEY_CTL_OP v = 2 →
      s.keyUsers slot = 0 → sec = true ∨ (old.map Key.world).getD false = false →
      ∃ t, exec (.erase via v) s = .next t ∧ SMap.find t.sec.keys slot = none ∧ others t ∧
        t.flag r Reg.SEC_KEY_CTL_LOADED = false)

/-! ## Scratchpad banks -/

/-- Banks (R226, R227, R235 to R237, R240, R492). A handover that no check refuses is in progress until it is done, which
gives the bank its next owner and, scrubbed, zeros, and then grants what waits for it; a change of an unowned bank's world scrubs
it. An uncorrectable error poisons the word. A repair, once enough errors are counted, takes one of the die's entries, a
retirement takes the bank out, and clearing leaves every word zero and the directory empty before what waits is granted. -/
def Obligations.ScratchpadBanks : Prop :=
  (∀ (via : Via) (b : Fin 2048) (v : Word) (s : State), s.mayWrite via (Reg.CADDY_OWN b.val).off = true →
    let r := Reg.CADDY_OWN b.val
    let sec := s.secureVia via
    let w0 := s.flag r Reg.CADDY_OWN_WORLD
    let w1 := if sec && s.own b.val Reg.CADDY_OWN_STATE = 0 then decide (newFld Reg.CADDY_OWN_WORLD v = 1) else w0
    let kind := newFld Reg.CADDY_OWN_NEXT_KIND v
    let idx := newFld Reg.CADDY_OWN_NEXT_IDX v
    (newFld Reg.CADDY_OWN_GO v = 1 → s.refusesHandover b.val kind idx w1 = false →
      ∃ t, exec (.bankHandover via b v) s = .next t ∧ t.own b.val Reg.CADDY_OWN_STATE = 2 ∧ t.pad.mem = s.pad.mem ∧
        SMap.find t.pad.handovers b.val = some ⟨kind, if kind = 7 then 0 else idx,
          decide (newFld Reg.CADDY_OWN_SCRUB v = 1) || s.flag Reg.SEC_CFG Reg.SEC_CFG_FORCE_SCRUB || w1 || w0⟩ ∧
        ∀ q : RegId, q.off ≠ r.off → t.reg q = s.reg q) ∧
    (newFld Reg.CADDY_OWN_GO v = 1 → s.refusesHandover b.val kind idx w1 = true → s.Quiet →
      ∃ t, exec (.bankHandover via b v) s = .next t ∧ s.OnlyReg t r ∧ t.flag r Reg.CADDY_OWN_REFUSED = true) ∧
    (newFld Reg.CADDY_OWN_GO v = 0 → sec = true → s.own b.val Reg.CADDY_OWN_STATE = 0 →
      newFld Reg.CADDY_OWN_WORLD v ≠ s.own b.val Reg.CADDY_OWN_WORLD →
      ∃ t, exec (.bankWorldWrite via b v) s = .next t ∧ t.own b.val Reg.CADDY_OWN_WORLD = newFld Reg.CADDY_OWN_WORLD v ∧
        ∀ a, SMap.get t.pad.mem a 0 = if a / 2 ^ 21 = b.val then 0 else SMap.get s.pad.mem a 0)) ∧
  (∀ (b : Fin 2048) (s : State) (h : Handover), SMap.find s.pad.handovers b.val = some h → h.kind < 8 → h.idx < 32 →
    ∃ u : State, exec (.bankHandoverDone b) s =
        .next (settle s (State.serveBank b.val true (u.bankWaiters b.val).length u).go) ∧ SMap.find u.pad.handovers b.val = none ∧
      u.own b.val Reg.CADDY_OWN_KIND = h.kind ∧ u.own b.val Reg.CADDY_OWN_IDX = h.idx ∧
      u.own b.val Reg.CADDY_OWN_STATE = (if h.kind = 7 then 0 else 1) ∧
      (∀ a, SMap.get u.pad.mem a 0 = if h.scrub ∧ a / 2 ^ 21 = b.val then 0 else SMap.get s.pad.mem a 0) ∧
      ∀ q : RegId, q.off ≠ (Reg.CADDY_OWN b.val).off → u.reg q = s.reg q) ∧
  (∀ (off : BitVec 32) (s : State), ∃ u : State, exec (.scratchpadUe off) s = .next (settle s u.go) ∧
    u.wordPoison off.toNat = true ∧ u.own (bankOf off.toNat) Reg.CADDY_OWN_POISONED = 1 ∧ u.pad.mem = s.pad.mem ∧
    ∀ k, k / 64 ≠ off.toNat / 64 → u.wordPoison k = s.wordPoison k) ∧
  (∀ (b : Fin 2048) (sub : Fin 16) (column : Nat) (s : State),
    s.flag Reg.CADDY_REPAIR_CFG Reg.CADDY_REPAIR_CFG_AUTO = true →
    0 < (if b.val / 1024 = 0 then s.pad.fuses0 else s.pad.fuses1) →
    (s.pad.repaired.filter fun x => x.1 = b.val && x.2.1 = sub.val).length < 4 →
    s.columnReached b.val = true → (b.val, sub.val, column) ∉ s.pad.repaired →
    ∃ t, exec (.fieldRepair b sub column) s = .next t ∧ t.pad.repaired = s.pad.repaired ++ [(b.val, sub.val, column)] ∧
      t.pad.fuses0 = s.pad.fuses0 - (if b.val / 1024 = 0 then 1 else 0) ∧
      t.pad.fuses1 = s.pad.fuses1 - (if b.val / 1024 = 0 then 0 else 1) ∧ t.pad.mem = s.pad.mem ∧ t.regs = s.regs) ∧
  (∀ (b : Fin 2048) (s : State), (s.health (obj 3 b.val)).st = 2 → s.own b.val Reg.CADDY_OWN_STATE ≠ 3 →
    s.own b.val Reg.CADDY_OWN_KIND < 4 ∨ s.own b.val Reg.CADDY_OWN_KIND = 7 →
    ∃ u : State, exec (.bankRetire b) s = .next (settle s u.go) ∧ u.own b.val Reg.CADDY_OWN_STATE = 3 ∧
      SMap.find u.pad.handovers b.val = none ∧ u.pad.mem = s.pad.mem) ∧
  (∀ (b x : Fin 2048) (s : State), (s.health (obj 3 b.val)).st = 2 → s.own b.val Reg.CADDY_OWN_STATE = 1 →
    s.own b.val Reg.CADDY_OWN_KIND = 5 ∨ s.own b.val Reg.CADDY_OWN_KIND = 6 →
    s.spareBank (b.val / 1024) = some x.val → x ≠ b →
    ∃ u : State, exec (.bankRetire b) s = .next (settle s u.go) ∧ u.own b.val Reg.CADDY_OWN_STATE = 3 ∧
      u.own x.val Reg.CADDY_OWN_KIND = s.own b.val Reg.CADDY_OWN_KIND ∧ u.own x.val Reg.CADDY_OWN_STATE = 1) ∧
  ∀ s : State, s.flag Reg.CADDY_STATUS Reg.CADDY_STATUS_READY = false → s.running = true →
    ∃ u : State, exec .caddyClearDone s = .next (settle s u.serveBanks.go) ∧ s.live = u.live ∧ u.dir = [] ∧
      u.flag Reg.CADDY_STATUS Reg.CADDY_STATUS_READY = true ∧ ∀ a, SMap.get u.pad.mem a 0 = 0 ∧ u.wordPoison a = false

/-! ## Containment, health, the recorder -/

/-- Containment (R498 to R505). CONTAIN of an engine empties its steep cache, and each descriptor it runs is to end with
`ST_ABORTED` and has its queue stopped; of a region or composition it marks the object; RELEASE lets an object
take part again once its steps are done. ENGINE_WATCHDOG contains an engine that has made no progress for ENG_WDT milliseconds, and an
engine's own error (R286) contains it too. MODULE_CONTAINMENT and
STEWARD_WATCHDOG leave no work and every enabled queue STOPPED with cause 5, the latter with boot ROM alone. -/
def Obligations.Containment : Prop :=
  let contained := fun (s u : State) (e : Eng) =>
    u.isContained e.part = true ∧ (engHasSteep e = true → u.steepOf e = []) ∧ u.tier = s.tier ∧
    ∀ id t q sl h tad, SMap.find s.tasks id = some t → (s.tasks.filter fun x => x.1 = id).length ≤ 1 →
      t.kind = .desc q sl h tad → t.eng = some e → t.fin = none → t.kill = none → t.ending = none →
      (u.task id).kill = some .aborted ∧ (s.qState q = 1 → u.qState q = 2)
  (∀ (via : Via) (v : Word) (s : State), s.mayWrite via Reg.RAS_CONTAIN.off = true → newFld Reg.RAS_CONTAIN_GO v = 1 →
    let scope := newFld Reg.RAS_CONTAIN_SCOPE v
    let p := partOf (newFld Reg.RAS_CONTAIN_OBJECT v)
    (newFld Reg.RAS_CONTAIN_ACTION v = 1 → s.refusesGo (s.secureVia via) scope 1 p = false →
      (∀ e, scope = 4 → engOf p = some e → s.isContained p = false →
        ∃ u : State, exec (.contain via v) s = .next (settle s u.go) ∧ contained s u e) ∧
      (scope = 5 ∨ scope = 6 → s.isContained p = false → ∃ t, exec (.contain via v) s = .next t ∧
        t.isContained p = true ∧ t.tier = s.tier ∧ ∀ o, o ≠ p → t.isContained o = s.isContained o) ∧
      (scope = 7 → s.ras.moduleContained = false →
        ∃ u : State, exec (.contain via v) s = .next (settle s u.pumpRings) ∧ s.Halted u)) ∧
    (newFld Reg.RAS_CONTAIN_ACTION v = 2 → s.refusesGo (s.secureVia via) scope 2 p = false → s.isContained p = true →
      s.ras.actions = [] → ∃ u : State, exec (.release via v) s = .next (settle s u.go) ∧ u.isContained p = false ∧
        ∀ o, o ≠ p → u.isContained o = s.isContained o)) ∧
  (∀ (e : Eng) (s : State), s.live = true → s.ras.actions = [] →
    let wdt := us (1000 * s.fld Reg.RAS_CFG Reg.RAS_CFG_ENG_WDT)
    (wdt ≠ 0 → wdt ≤ s.tick → s.noProgress e (s.tick - wdt) = true →
      ∃ u : State, exec (.engineWatchdog e) s = .next (settle s u.go) ∧ u.isContained e.part = true) ∧
    ∀ p, engOf p = some e → s.present e = true →
      ∃ u : State, exec (.healthEvent p .containment) s = .next (settle s (u.go).go) ∧ u.isContained e.part = true) ∧
  ∀ (cause : BitVec 32) (s : State), s.ras.moduleContained = false →
    (∃ u : State, exec (.moduleContainment cause) s = .next (settle s u.pumpRings) ∧ s.Halted u) ∧
    ∃ u : State, exec .stewardWatchdog s = .next (settle s { u.pumpRings with
        ras := { u.pumpRings.ras with romOnly := true }, sec := { u.pumpRings.sec with udsLatched := true } }) ∧ s.Halted u

/-- Health scores (R519 to R523): an event that is no engine's error (`Containment`) adds its weight in points, decay takes a fraction of the score once a second, a
laser's score follows its bias, and a snapshot shows a part. The recorder (R527 to R529): a record whose window has closed
goes to its position, a counter entry is written, EVR_LOAD shows the 64 bytes of a record. -/
def Obligations.HealthAndRecorder : Prop :=
  (∀ (p : PartId) (ev : PartEvent) (s : State),
    let h := s.health p
    let k := p.kind.toNat
    let new := min (h.score + 256 * eventWeight k ev) (2 ^ 32 - 1)
    eventWeight k ev ≠ 0 → h.st ≠ 3 → (∀ e, engOf p = some e → ev = .containment → s.present e = false) → ∃ u : State, exec (.healthEvent p ev) s = .next (settle s u.go) ∧
      (u.health p).score = new ∧ (u.health p).events = (h.events + 1) % 2 ^ 24 ∧
      (h.st = 0 → new < s.advisePoint k → (u.health p).st = 0) ∧
      (h.st = 0 → s.advisePoint k ≤ new → new < s.retirePoint k → (u.health p).st = 1) ∧
      (h.st ≤ 1 → s.retirePoint k ≤ new → s.autoRetire k = true → (u.health p).st = 2) ∧
      ∀ o : PartId, o.code ≠ p.code → u.health o = s.health o) ∧
  (∀ s : State, s.ras.healthAt < s.opSec → ∃ t, exec .healthDecay s = .next t ∧ t.ras.healthAt = s.ras.healthAt + 1 ∧
    ∀ p : PartId, (s.ras.health.filter fun e => e.1 = p.code).length = 1 → (∀ e ∈ s.ras.health, e.1 < 2 ^ 32) →
      (s.health p).st ≠ 3 → p.kind ≠ 0xA →
      (t.health p).score = (s.health p).score - (s.health p).score /
        2 ^ max 8 (s.fld (Reg.RAS_HCFG p.kind.toNat) Reg.RAS_HCFG_H)) ∧
  (∀ (c : Fin 8) (bias : BitVec 16) (s : State), s.fld (Reg.ZL_LSR c.val) Reg.ZL_LSR_STATE ≠ 4 →
    60 ≤ (SMap.get s.fab.lasers c.val {}).secs → ∃ t, exec (.laserScoreUpdate c bias) s = .next t ∧
      t.fld (Reg.ZL_LSR c.val) Reg.ZL_LSR_BIAS = bias.toNat ∧
      (t.health (obj 0xA c.val)).score =
        min (laserScore bias.toNat (SMap.get s.fab.lasers c.val {}).bias0) (2 ^ 32 - 1)) ∧
  (∀ (via : Via) (v : Word) (s : State), s.Quiet → s.mayWrite via Reg.RAS_HEALTH_SEL.off = true →
    let h := s.health (partOf (newFld Reg.RAS_HEALTH_SEL_PART v))
    ∃ t, exec (.healthSnapshot via v) s = .next t ∧ s.OnlyRegs t [Reg.RAS_HEALTH_SEL, Reg.RAS_HEALTH] ∧
      t.fld Reg.RAS_HEALTH Reg.RAS_HEALTH_SCORE = h.score % 2 ^ 32 ∧ t.fld Reg.RAS_HEALTH Reg.RAS_HEALTH_STATE = h.st % 4 ∧
      t.fld Reg.RAS_HEALTH Reg.RAS_HEALTH_EVENTS = h.events % 2 ^ 24) ∧
  (∀ (seq : Nat) (s : State) (r : Rec), s.Quiet → s.ras.open_.find? (fun r => r.seq = seq) = some r →
    r.tick + 2 ^ 30 ≤ s.tick → SMap.find s.flash.records seq = none →
    ∃ t, exec (.recordWindowClose seq) s = .next t ∧ SMap.find t.flash.records seq = some r ∧
      (∀ k, k ≠ seq → SMap.find t.flash.records k = SMap.find s.flash.records k) ∧
      t.ras.open_ = s.ras.open_.filter fun x => x.seq ≠ seq) ∧
  (∀ s : State, s.ras.counterAt + 16 ≤ s.opSec → ∃ t c, exec .counterEntryWrite s = .next t ∧ t.flash.counter = some c ∧
    c.opSec = s.opSec % 2 ^ 32 ∧ c.pcycle = s.fld Reg.EVR_COUNT Reg.EVR_COUNT_PCYCLE ∧ c.dropped = s.ras.dropped ∧
    c.off = 0 ∧ t.ras.counterAt = s.opSec ∧ t.regs = s.regs) ∧
  ∀ (via : Via) (v : Word) (s : State), s.Quiet → s.mayWrite via Reg.EVR_RD.off = true →
    let i := newFld Reg.EVR_RD_INDEX v
    (∀ r, SMap.find s.flash.records i = some r → ∃ t, exec (.evrLoad via v) s = .next t ∧
      t.flag Reg.EVR_RD Reg.EVR_RD_BAD = false ∧ ∀ k, k < 8 → t.reg (Reg.EVR_DATA k) = fieldLE r.bytes (8 * k) 8) ∧
    (SMap.find s.flash.records i = none → ∃ t, exec (.evrLoad via v) s = .next t ∧ s.OnlyReg t Reg.EVR_RD ∧
      t.flag Reg.EVR_RD Reg.EVR_RD_BAD = true)

/-! ## The fabric -/

/-- Messages that the module serves (R123, R429, R430, R432, R350). RD and SUBREQ become tasks of their own. A store whose turn
on its stream has come becomes a task and its stream waits for it; one that comes early is held; one served before is
answered again and acts no more. A DOORBELL whose turn has come acts at once, STREAM_RESET sets the number expected, CANCEL lets
the named subrequest's work end with `ST_ABORTED`. Each frees its place in the port's buffer. -/
def Obligations.MessagesServed : Prop :=
  ∀ (p : Fin 50) (h : MsgHdr) (s : State), h.dstRack.toNat = s.rack → h.dst.toNat = s.module →
    let msg := fun (b : Body) => ({ hdr := h, body := b, bad := false } : Msg)
    let k := s.inStream h
    let served := fun (c : Instr) (b : Body) (f : State → Prop) => s.Arrives p.val (msg b) →
      (b.addr.isSome → s.gatewayHome p.val (msg b) = none) → ∃ u : State, exec c s = .next (settle s u.go) ∧ s.FreedRx u p.val (msg b) ∧ u.tier = s.tier ∧ u.pad = s.pad ∧ f u
    let newTask := fun (b : Body) (u : State) => u.nextTask = s.nextTask + 1 ∧
      SMap.find u.tasks s.nextTask =
        some { kind := .msg p.val (msg b), src := s.msgSrc p.val (msg b), ctx := h.ctx.toNat, start := s.tick } ∧
      ∀ i, i ≠ s.nextTask → SMap.find u.tasks i = SMap.find s.tasks i
    let late := (h.seq.toNat + 2 ^ 24 - k.expect) % 2 ^ 24
    let store := fun (c : Instr) (b : Body) =>
      (k.expect = h.seq.toNat → k.busy = false → (∀ x ∈ k.held, x.2.hdr.seq ≠ h.seq) →
        served c b fun u => newTask b u ∧ u.inStream h = { k with busy := true }) ∧
      (late ≠ 0 → late < 2 ^ 23 → s.heldEarly < 8192 → (∀ x ∈ k.held, x.2.hdr.seq ≠ h.seq) →
        (∀ x ∈ k.held, x.2.hdr.seq.toNat ≠ k.expect) →
        served c b fun u => u.tasks = s.tasks ∧ u.inStream h = { k with held := k.held ++ [(p.val, msg b)] })
    let again := fun (c : Instr) (b : Body) => 2 ^ 23 ≤ late →
      served c b fun u => u.tasks = s.tasks ∧ u.fab.ins = s.fab.ins ∧ u.queues = s.queues
    (∀ a n, served (.rd p h a n) (.rd a n) fun u => newTask (.rd a n) u ∧ u.fab.ins = s.fab.ins) ∧
    (∀ w, served (.subreq p h w) (.subreq w) fun u => newTask (.subreq w) u ∧ u.fab.ins = s.fab.ins) ∧
    (∀ a d, store (.wr p h a d) (.wr a d) ∧ again (.wr p h a d) (.wr a d)) ∧
    (∀ a m d, store (.wrMasked p h a m d) (.wrMasked a m d) ∧ again (.wrMasked p h a m d) (.wrMasked a m d)) ∧
    (∀ a o w x y, store (.atom p h a o w x y) (.atom a o w x y) ∧ again (.atom p h a o w x y) (.atom a o w x y)) ∧
    (∀ q cq v, again (.doorbell p h q cq v) (.doorbell q cq v) ∧
      (k.expect = h.seq.toNat → k.busy = false → k.held = [] →
        let c := Reg.Q_CFG q.toNat
        let x := v.toNat % 2 ^ 16
        let may := bit (s.fld Reg.GLB_PART_MEMBERS Reg.GLB_PART_MEMBERS_ACCEL) h.src.toNat = true ∧ h.srcAcc = true ∧
          s.fld c Reg.Q_CFG_FAB_DB ≠ 0 ∧ s.fld c Reg.Q_CFG_DB_POS = h.src.toNat ∧
          (s.fld c Reg.Q_CFG_WORLD = 1 → s.secureCtx h.ctx.toNat = true)
        served (.doorbell p h q cq v) (.doorbell q cq v) fun u =>
          u.tasks = s.tasks ∧ u.inStream h = { k with expect := (k.expect + 1) % 2 ^ 24 } ∧
          (∀ r : RegId, r.off ≠ (Reg.Q_STATE q.toNat).off → u.reg r = s.reg r) ∧
          (may → x < (if cq then s.cqLen q.toNat else s.sqLen q.toNat) → u.regs = s.regs ∧ u.queue q.toNat =
            if cq then { s.queue q.toNat with cqHead := x } else { s.queue q.toNat with dbTail := x }) ∧
          (may → (if cq then s.cqLen q.toNat else s.sqLen q.toNat) ≤ x → u.queues = s.queues ∧
            u.fld (Reg.Q_STATE q.toNat) Reg.Q_STATE_DB_RANGE = 1 ∧ u.fld (Reg.Q_STATE q.toNat) Reg.Q_STATE_DB_DROP = 1) ∧
          (¬ may → u.queues = s.queues ∧ u.fld (Reg.Q_STATE q.toNat) Reg.Q_STATE_DB_DROP = 1))) ∧
    (∀ first, k.held = [] → served (.streamReset p h first) (.streamReset first) fun u =>
      u.tasks = s.tasks ∧ u.inStream h = { k with expect := first.toNat }) ∧
    ∀ tag, served (.cancel p h tag) (.cancel tag) fun u =>
      let named := fun (t : Task) => ∃ q m w, t.kind = .msg q m ∧ m.body = .subreq w ∧ m.hdr.src = h.src ∧
        m.hdr.srcRack = h.srcRack ∧ m.hdr.seq.toNat = tag.toNat
      (∀ id t, SMap.find s.tasks id = some t → named t → t.fin = none → t.ending = none → t.kill = none →
        (u.task id).kill = some .aborted) ∧
      ∀ id, id ≠ s.nextTask → (∀ t, (id, t) ∈ s.tasks → ¬ named t) → SMap.find u.tasks id = SMap.find s.tasks id

/-- Answers and messages for others (R427, R431, R570). RD_DATA, ACK, REFUSE and ATOM_RESULT give the message that they
answer to its task and take it out of those kept; a REPORT goes to the coordinator's part that asked for it. A message for
another member module goes on to the direct port, marked as transit. -/
def Obligations.AnswersAndTransit : Prop :=
  ∀ (p : Fin 50) (h : MsgHdr) (s : State),
    let msg := fun (b : Body) => ({ hdr := h, body := b, bad := false } : Msg)
    (∀ d st v, ∀ c ∈ ([(.rdData p h d, .rdData d), (.ack p h, .ack), (.refuse p h st, .refuse st),
        (.atomResult p h v, .atomResult v)] : List (Instr × Body)),
      ∀ o id t, s.Arrives p.val (msg c.2) → s.answered (msg c.2) = [o] → o.gw = none → o.task = some id →
        SMap.find s.tasks id = some t →
        ∃ u : State, exec c.1 s = .next (settle s u.go) ∧ s.FreedRx u p.val (msg c.2) ∧
          u.fab.outs = s.fab.outs.filter (fun x => x ≠ o) ∧
          SMap.find u.tasks id = some { t with log := t.log ++ [respAns h c.2], wait := .ready, moved := s.tick } ∧
          (∀ i, i ≠ id → SMap.find u.tasks i = SMap.find s.tasks i) ∧ u.tier = s.tier ∧ u.regs = s.regs) ∧
    (∀ r id f i x, s.Arrives p.val (msg (.report r)) → h.dstRack.toNat = s.rack → h.dst.toNat = s.module →
      let mine := fun (x : FanPart) => decide (x.dst = h.src.toNat ∧ x.tag = h.seq.toNat)
      (s.eng.fans.find? fun e => e.2.parts.any mine) = some (id, f) → f.parts.findIdx mine = i → f.parts[i]? = some x →
      x.answered = false → (∀ st, r ≠ .missing st) →
      ∃ u : State, exec (.report p h r) s = .next (settle s u.go) ∧ s.FreedRx u p.val (msg (.report r)) ∧
        u.fan id = { f with parts := f.parts.set i { x with got := some r, late := true }, order := f.order ++ [i] } ∧
        (∀ j, j ≠ id → u.fan j = s.fan j) ∧ u.tier = s.tier ∧ u.regs = s.regs) ∧
    ∀ a n d m o w x y q cq v first sub tag,
      ∀ c ∈ ([(.rd p h a n, .rd a n), (.wr p h a d, .wr a d), (.wrMasked p h a m d, .wrMasked a m d),
          (.atom p h a o w x y, .atom a o w x y), (.doorbell p h q cq v, .doorbell q cq v),
          (.streamReset p h first, .streamReset first), (.subreq p h sub, .subreq sub),
          (.cancel p h tag, .cancel tag)] : List (Instr × Body)),
        s.Quiet → s.Arrives p.val (msg c.2) → h.dstRack.toNat = s.rack → h.dst.toNat ≠ s.module →
        h.srcRack.toNat = s.rack → (h.srcAcc = false → s.member h.src.toNat = true) →
        (h.srcAcc = true → bit (s.fld Reg.GLB_PART_MEMBERS Reg.GLB_PART_MEMBERS_ACCEL) h.src.toNat = true) →
        s.member h.dst.toNat = true →
        s.portUp (s.peerPort h.dst.toNat) = true →
        ∃ t, exec c.1 s = .next t ∧ s.FreedRx t p.val (msg c.2) ∧ t.tasks = s.tasks ∧ t.tier = s.tier ∧ t.regs = s.regs ∧
          (t.port (s.peerPort h.dst.toNat)).tx = (s.port (s.peerPort h.dst.toNat)).tx ++
            [(vcOf (msg c.2), { msg c.2 with hdr := { h with transit := true } })]

/-- Flits, credits and what is sent again (R421, R431, R432, R447). The flit expected next brings its messages in order, one
out of order or damaged brings none. Credits returned free what is in flight, channel by channel. MESSAGE_SEND lets the first
message that may go leave, in the order of the channels. RESEND_TIMEOUT sends a message again on its next path, a gateway's on the
direct port;
STREAM_GIVEUP ends a stream's stores with `ST_TIMEOUT` and sends the STREAM_RESET. -/
def Obligations.LinkAndResends : Prop :=
  (∀ (n : Fin 50) (f : Flit) (s : State), s.portHears n.val = true →
    let p := s.port n.val
    let same := fun (t : State) => t.tasks = s.tasks ∧ t.tier = s.tier ∧ t.regs = s.regs ∧ (t.port n.val).tx = p.tx
    (f.intact = true → f.idle = false → f.fseq.toNat = p.expect → ∃ t, exec (.flitReceived n f) s = .next t ∧ same t ∧
      (t.port n.val).expect = (p.expect + 1) % 2 ^ 14 ∧ (t.port n.val).nak = false ∧
      (t.port n.val).replay = unacked p.replay f.ack ∧
      (t.port n.val).rx = p.rx ++ f.msgs.filter fun m => s.taken n.val m = .yes) ∧
    (f.intact = false ∨ f.idle = true ∨ (f.fseq.toNat + 2 ^ 14 - p.expect) % 2 ^ 14 ≠ 0 →
      ∃ t, exec (.flitReceived n f) s = .next t ∧ same t ∧ (t.port n.val).expect = p.expect ∧ (t.port n.val).rx = p.rx ∧
        (f.intact = false → (t.port n.val).nak = true ∧ (t.port n.val).replay = p.replay))) ∧
  (∀ (n : Fin 50) (counts : List (BitVec 16)) (s : State), s.Quiet → s.portHears n.val = true →
    let p := s.port n.val
    let c := (List.range 8).map fun v => (counts.getD v 0).toNat
    let sent := fun (v : Nat) (l : List (Nat × Nat × Bool)) => ((l.filter fun x => x.1 = v).map fun x => x.2.1).sum
    ∃ q, exec (.credit n counts) s = .next (s.setPort n.val q) ∧
      (p.total = [] → q = { p with total := c, last := c }) ∧
      (p.total ≠ [] → q = { p with last := c, flight := q.flight } ∧ ∀ v, v < 8 →
        sent v q.flight = sent v p.flight - (c.getD v 0 + 2 ^ 16 - p.last.getD v 0) % 2 ^ 16)) ∧
  (∀ (n : Fin 50) (s : State) (v : Nat) (m : Msg) (ovr : Bool), s.portUp n.val = true →
    (SMap.get s.qos.sending n.val (0, 0)).2 ≤ s.tick → (s.port n.val).replay.length < replayMax n.val →
    ([1, 3, 5, 7, 0, 2, 4, 6].findSome? fun v => (s.sendable n.val v).map fun x => (v, x)) = some (v, m, ovr) →
    let p := s.port n.val
    ∃ t, exec (.messageSend n) s = .next t ∧ (v, m) ∈ p.tx ∧ (t.port n.val).tx = p.tx.erase (v, m) ∧
      (t.port n.val).nextF = (p.nextF + 1) % 2 ^ 14 ∧ (t.port n.val).replay = p.replay ++ [p.flit false [m]] ∧
      (t.port n.val).flight = p.flight ++ [(v, units m, m.hdr.transit)] ∧
      t.out.wire = s.out.wire ++ [(n.val, p.flit false [m])] ∧ t.tasks = s.tasks ∧ t.tier = s.tier ∧
      ∀ k, k ≠ n.val → t.port k = s.port k) ∧
  (∀ (store : Bool) (dst : Fin 32) (stream : Fin 64) (seq : BitVec 24) (s : State) (o : OutMsg) (path : Nat),
    s.live = true → (s.fab.outs.find? fun o => o.store = store ∧ o.dst % 32 = dst.val ∧ o.stream = stream.val ∧
      o.seq = seq.toNat) = some o → o.last + s.resendTicks ≤ s.tick → o.dst / 32 = s.rack →
    (if o.gw.isSome then path = 0 ∧ s.portUp (s.peerPort dst.val) = true else s.nextPath dst.val o.path = some path) →
    let m : Msg := { o.msg with hdr := { o.msg.hdr with resend := true } }
    let via := if o.gw.isSome then s.peerPort dst.val else s.pathPort dst.val path
    ∃ t, exec (.resendTimeout store dst stream seq) s = .next t ∧ (t.port via).tx = (s.port via).tx ++ [(vcOf m, m)] ∧
      (∀ k, k ≠ via → t.port k = s.port k) ∧ t.tasks = s.tasks ∧
      t.fab.outs = s.fab.outs.map fun x => if x = o then { x with last := s.tick, path := path } else x) ∧
  ∀ (dst : Fin 32) (stream : Fin 64) (s : State) (o : OutMsg), s.live = true →
    let late := fun (o : OutMsg) => decide (o.first + s.giveupTicks ≤ s.tick) && decide (o.dst % 32 = dst.val) &&
      decide (o.stream = stream.val)
    (∀ x ∈ s.fab.outs, x.store = false → late x = false) → (s.fab.outs.find? fun o => o.store && late o) = some o →
    (∀ x ∈ s.fab.outs, x.gw = none) →
    ∃ u : State, exec (.streamGiveup dst stream) s = .next (settle s u.go) ∧
      u.fab.outs = (s.fab.outs.filter fun x => !x.sameStream o) ∧
      u.fab.resets = s.fab.resets ++ [resetOf o (SMap.get s.fab.outSeq (outKey (o.dst / 32) (o.dst % 32) o.stream) 0)] ∧
      (∀ x ∈ s.fab.outs, x.sameStream o = true → ∀ id, x.task = some id → (SMap.find s.tasks id).isSome →
        ∃ a ∈ (u.task id).log, a = { st := .timeout } ∧ (u.task id).wait = .ready) ∧
      ∀ id, (∀ x ∈ s.fab.outs, x.sameStream o = true → x.task ≠ some id) → SMap.find u.tasks id = SMap.find s.tasks id

/-! ## Ports and lasers -/

/-- Ports (R14, R413 to R420, R422, R435, R546). A port that is enabled, that sees light and signal again or whose retry is due
trains, or stays DOWN with the cause that forbids it: 7 no identity, 6 no light, 2 no signal. A far identity that R413 does not
give puts it DOWN with cause 3, the load-margin check UP, FENCED or DOWN; loss of signal and EN = 0 put it DOWN; a retrain is
counted, and one too many in the window makes the port FAILED. -/
def Obligations.PortStates : Prop :=
  let at_ := fun (t : State) (n st cause : Nat) => t.portState n = st ∧ t.portCause n = cause
  let trains := fun (s t : State) (n : Nat) (signal : Bool) =>
    let known := n = 49 ∨ s.flag Reg.ZL_IDENT Reg.ZL_IDENT_SET = true
    (¬ known → at_ t n 0 7) ∧ (known → s.lit n = false → at_ t n 0 6) ∧
    (known → s.lit n = true → signal = false → at_ t n 0 2) ∧ (known → s.lit n = true → signal = true → at_ t n 1 0)
  (∀ (via : Via) (n : Fin 50) (v : Word) (s : State), s.mayWrite via (Reg.ZL_PORT_CTL n.val).off = true →
    let old := fun f => s.fld (Reg.ZL_PORT_CTL n.val) f
    let fence := newFld Reg.ZL_PORT_CTL_FENCE v
    (s.portEn n.val = false → newFld Reg.ZL_PORT_CTL_EN v = 1 → fence = old Reg.ZL_PORT_CTL_FENCE →
      ∃ t, exec (.portEnable via n v) s = .next t ∧ t.portEn n.val = true ∧ trains s t n.val (s.port n.val).signal) ∧
    (s.portEn n.val = true → newFld Reg.ZL_PORT_CTL_EN v = 0 → fence = old Reg.ZL_PORT_CTL_FENCE →
      ∃ t, exec (.portDisable via n v) s = .next t ∧ t.portEn n.val = false ∧ at_ t n.val 0 1 ∧
        (t.port n.val).replay = []) ∧
    (s.portState n.val = 3 → ∃ t, exec (.retrain via n) s = .next t ∧ t.portState n.val = 4 ∧ (t.port n.val).fast = true ∧
      t.fld (Reg.ZL_PORT_ERR n.val) Reg.ZL_PORT_ERR_RETRAINS =
        (s.fld (Reg.ZL_PORT_ERR n.val) Reg.ZL_PORT_ERR_RETRAINS + 1) % 2 ^ 16) ∧
    (newFld Reg.ZL_PORT_CTL_EN v = old Reg.ZL_PORT_CTL_EN → newFld Reg.ZL_PORT_CTL_RETRAIN v = 0 →
      (fence = 1 → old Reg.ZL_PORT_CTL_FENCE = 0 → s.portState n.val = 3 →
        ∃ u : State, u.portState n.val = 5 ∧ exec (.portFence via n v) s = .next (settle s
          (if 45 ≤ n.val ∧ n.val ≤ 48 then u.closeHall fun r => !(s.uplinks r).isEmpty && (u.uplinks r).isEmpty else u))) ∧
      (fence = 0 → old Reg.ZL_PORT_CTL_FENCE = 1 → s.portState n.val = 5 →
        ∃ t, exec (.portFence via n v) s = .next t ∧ t.portState n.val = 3 ∧
          t.out.credit = s.out.credit ++ [(n.val, (s.port n.val).given)]))) ∧
  (∀ (n : Fin 50) (s : State),
    (s.portState n.val = 0 → s.portCause n.val = 2 → s.portEn n.val = true → (s.port n.val).badId = false →
      ∃ t, exec (.signalDetect n) s = .next t ∧ (t.port n.val).signal = true ∧ trains s t n.val true) ∧
    (s.portState n.val ≠ 0 → s.portState n.val ≠ 6 →
      ∃ t, exec (.signalLoss n) s = .next t ∧ (t.port n.val).signal = false ∧ at_ t n.val 0 2) ∧
    (s.portState n.val = 0 → s.portCause n.val = 4 → s.portEn n.val = true → (s.port n.val).since + 10 ^ 9 ≤ s.tick →
      ∃ t, exec (.marginRetry n) s = .next t ∧ trains s t n.val (s.port n.val).signal)) ∧
  (∀ (n : Fin 50) (far : FarIdent) (temp : BitVec 8) (s : State), s.portState n.val = 1 ∨ s.portState n.val = 4 →
    ∃ t, exec (.identityExchange n far temp) s = .next t ∧
      (s.farOk n.val far = true → t.portState n.val = 2 ∧ (t.port n.val).since = s.tick ∧
        t.fld (Reg.ZL_PORT_STAT n.val) Reg.ZL_PORT_STAT_TTRAIN = temp.toNat) ∧
      (s.farOk n.val far = false → at_ t n.val 0 3 ∧ (t.port n.val).badId = true)) ∧
  (∀ (n : Fin 50) (worst : BitVec 8) (uncorr farPass : Bool) (s : State), s.portState n.val = 2 →
    (s.port n.val).since + s.lmTicks ≤ s.tick →
    let pass := uncorr = false ∧ worst.toNat ≤ s.ceTh ∧ farPass = true
    ∃ t, exec (.loadMarginCheck n worst uncorr farPass) s = .next t ∧
      t.fld (Reg.ZL_PORT_STAT n.val) Reg.ZL_PORT_STAT_MARGIN = worst.toNat ∧
      (pass → at_ t n.val (if s.flag (Reg.ZL_PORT_CTL n.val) Reg.ZL_PORT_CTL_FENCE then 5 else 3) 0) ∧
      (¬ pass → at_ t n.val 0 (if (s.port n.val).laser then 6 else 4))) ∧
  (∀ (n : Fin 50) (why : RetrainCause) (s : State), s.portState n.val = 3 →
    let win := s.fld Reg.ZL_LM_CFG Reg.ZL_LM_CFG_RETRAIN_WIN * 10 ^ 9
    let count := ((s.port n.val).retrains.filter fun t => s.tick < t + win).length + 1
    ∃ t, exec (.retrainTrigger n why) s = .next t ∧
      (count ≤ s.fld Reg.ZL_LM_CFG Reg.ZL_LM_CFG_RETRAIN_MAX → t.portState n.val = 4) ∧
      (s.fld Reg.ZL_LM_CFG Reg.ZL_LM_CFG_RETRAIN_MAX < count → at_ t n.val 6 5)) ∧
  ∀ (via : Via) (v : Word) (s : State), s.mayWrite via Reg.ZL_IDENT.off = true → s.secureVia via = true →
    s.flag Reg.ZL_IDENT Reg.ZL_IDENT_SET = false → newFld Reg.ZL_IDENT_SET v = 1 →
    ∃ t, exec (.identSet via v) s = .next t ∧ t.module = newFld Reg.ZL_IDENT_MODULE v ∧ t.rack = newFld Reg.ZL_IDENT_RACK v ∧
      t.flag Reg.ZL_IDENT Reg.ZL_IDENT_SET = true ∧
      ∀ n, n < 49 → s.portState n = 0 → s.portCause n = 7 → s.portEn n = true → s.lit n = true →
        (s.port n).signal = true → at_ t n 1 0

/-- Laser cartridges (R436). SERVICE of an ACTIVE cartridge whose engines all have their other feed ACTIVE lets each of their
ports that is UP run its check; with another feed dark it is ignored. Its end brings STANDBY back to ACTIVE and the dark ports into training; a
cartridge inserted is ACTIVE, one taken out of STANDBY absent, and the loss of one puts the ports of an engine with no other
feed DOWN with cause 6. -/
def Obligations.LaserCartridges : Prop :=
  ∀ (c : Fin 8) (s : State),
    let r := Reg.ZL_LSR c.val
    let st := s.fld r Reg.ZL_LSR_STATE
    (∀ via, s.mayWrite via r.off = true → s.flag r Reg.ZL_LSR_SERVICE = false →
      (s.othersOn c.val = true → st = 2 → ∃ t, exec (.laserService via c) s = .next t ∧
        t.flag r Reg.ZL_LSR_SERVICE = true ∧
        (∀ n ∈ portsOf c.val, s.portUp n = true → t.portState n = 2 ∧ (t.port n).laser = true ∧ (t.port n).fast = true) ∧
        ∀ n, n < 50 → n ∉ portsOf c.val → t.portState n = s.portState n) ∧
      (s.othersOn c.val = false → s.Quiet → exec (.laserService via c) s = .next s)) ∧
    (∀ via, s.mayWrite via r.off = true → ∃ t, exec (.laserServiceEnd via c) s = .next t ∧
      t.flag r Reg.ZL_LSR_SERVICE = false ∧ t.fld r Reg.ZL_LSR_STATE = (if st = 3 then 2 else st) ∧
      ∀ n, n < 50 → s.portState n = 0 → s.portCause n = 6 → s.portEn n = true → (s.port n).signal = true →
        n = 49 ∨ s.flag Reg.ZL_IDENT Reg.ZL_IDENT_SET = true → s.lit n = true ∨ (st = 3 ∧ n ∈ portsOf c.val) →
        t.portState n = 1 ∧ t.portCause n = 0) ∧
    (st = 0 → s.Quiet → ∃ w l, exec (.laserInserted c) s =
        .next { s with regs := w, fab := { s.fab with lasers := l } } ∧
      (∀ q : RegId, q.off ≠ r.off → ({ s with regs := w } : State).reg q = s.reg q) ∧
      ({ s with regs := w } : State).fld r Reg.ZL_LSR_STATE = 2 ∧ SMap.find l c.val = none) ∧
    (∀ failed, st ≠ 0 → (st = 3 → failed = true) → ∃ t, exec (.laserLoss c failed) s = .next t ∧
      t.fld r Reg.ZL_LSR_STATE = (if failed then 4 else 0) ∧
      ∀ n ∈ portsOf c.val, (∀ d ∈ [feedA (n / 2), feedB (n / 2)], d ≠ c.val → s.laserOn d = false) →
        s.portState n ≠ 0 → s.portState n ≠ 6 → t.portState n = 0 ∧ t.portCause n = 6) ∧
    (st = 3 → s.Quiet → ∃ t, exec (.laserCartridgeRemoval c) s = .next t ∧ s.OnlyReg t r ∧ t.fld r Reg.ZL_LSR_STATE = 0)

/-! ## Traffic control -/

/-- Meters (R437, R442, R443, R446). METER_MAP_WRITE maps or unmaps a context, METER_MAP_READ shows where it is mapped. APPLY of a
meter with nothing delayed takes rates and bursts from its registers and sets both buckets full or empty; a snapshot shows its
counters. The head of a delay queue leaves, served or refused, or stays with the buckets refilled, as does one that its slice cannot
take (R208). -/
def Obligations.Meters : Prop :=
  (∀ (via : Via) (v : Word) (s : State), s.mayWrite via Reg.QOS_CTX_MAP.off = true →
    let c := newFld Reg.QOS_CTX_MAP_CTX v
    (newFld Reg.QOS_CTX_MAP_GO v = 1 → ∃ t, exec (.meterMapWrite via v) s = .next t ∧
      SMap.find t.qos.ctxMap c =
        (if newFld Reg.QOS_CTX_MAP_MAPPED v = 1 then some (newFld Reg.QOS_CTX_MAP_METER v) else none) ∧
      (∀ k, k ≠ c → SMap.find t.qos.ctxMap k = SMap.find s.qos.ctxMap k) ∧ t.qos.meters = s.qos.meters ∧
      ∀ q : RegId, q.off ≠ Reg.QOS_CTX_MAP.off → t.reg q = s.reg q) ∧
    (newFld Reg.QOS_CTX_MAP_READ v = 1 → newFld Reg.QOS_CTX_MAP_GO v = 0 → s.Quiet →
      ∃ t, exec (.meterMapRead via v) s = .next t ∧ s.OnlyReg t Reg.QOS_CTX_MAP ∧
        (t.flag Reg.QOS_CTX_MAP Reg.QOS_CTX_MAP_MAPPED = true ↔ (SMap.find s.qos.ctxMap c).isSome) ∧
        t.fld Reg.QOS_CTX_MAP Reg.QOS_CTX_MAP_METER = ((SMap.find s.qos.ctxMap c).getD 0) % 2 ^ 12)) ∧
  (∀ (via : Via) (m : Fin 4096) (v : Word) (s : State), s.mayWrite via (Reg.QOS_MTR_CFG m.val).off = true →
    newFld Reg.QOS_MTR_CFG_APPLY v = 1 → (s.meter m.val).dq = [] →
    let rate := fun f => s.fld (Reg.QOS_MTR_RATE m.val) f
    let burst := fun f => s.fld (Reg.QOS_MTR_BURST m.val) f
    let fill := if newFld Reg.QOS_MTR_CFG_FILL v = 1 then 1000 else 0
    ∃ u : State, exec (.apply via m v) s = .next (settle s u.go) ∧ u.meter m.val = { (s.meter m.val) with
        cir := rate Reg.QOS_MTR_RATE_CIR, xir := rate Reg.QOS_MTR_RATE_XIR, cbs := burst Reg.QOS_MTR_BURST_CBS,
        xbs := burst Reg.QOS_MTR_BURST_XBS, tc := burst Reg.QOS_MTR_BURST_CBS * fill,
        tx := burst Reg.QOS_MTR_BURST_XBS * fill, last := s.tick } ∧
      (∀ k, k ≠ m.val → u.meter k = s.meter k) ∧
      ∀ q : RegId, q.off ≠ (Reg.QOS_MTR_CFG m.val).off → u.reg q = s.reg q) ∧
  (∀ (via : Via) (v : Word) (s : State), s.Quiet → s.mayWrite via Reg.QOS_MTR_SEL.off = true →
    let m := s.meter (newFld Reg.QOS_MTR_SEL_METER v)
    ∃ t, exec (.meterSnapshot via v) s = .next t ∧
      s.OnlyRegs t [Reg.QOS_MTR_SEL, Reg.QOS_MTR_GREEN, Reg.QOS_MTR_YELLOW, Reg.QOS_MTR_RED, Reg.QOS_MTR_STAT] ∧
      t.reg Reg.QOS_MTR_GREEN = m.green % 2 ^ 64 ∧ t.reg Reg.QOS_MTR_YELLOW = m.yellow % 2 ^ 64 ∧
      t.reg Reg.QOS_MTR_RED = m.red % 2 ^ 64 ∧ t.fld Reg.QOS_MTR_STAT Reg.QOS_MTR_STAT_REFUSED = m.refused % 2 ^ 32 ∧
      t.fld Reg.QOS_MTR_STAT Reg.QOS_MTR_STAT_DQ = m.dq.length % 2 ^ 10) ∧
  ∀ (m : Fin 4096) (s : State) (d : Delayed) (b : Nat) (rest : List (Delayed × Nat)), s.live = true →
    let k := m.val
    let m0 := (s.meter k).refill s.tick
    let mode1 := s.flag (Reg.QOS_MTR_CFG k) Reg.QOS_MTR_CFG_MODE
    let x := m0.colour mode1 b
    let act := s.meterAct k x.2
    let run := fun (u : State) => exec (.delayQueueRecolour m) s = .next (settle s u.go)
    (s.meter k).dq = (d, b) :: rest →
      (s.mayLeave d = false → run (s.setMeter k m0)) ∧
      (s.mayLeave d = true → s.flag (Reg.QOS_MTR_CFG k) Reg.QOS_MTR_CFG_EN = false →
        run ((s.setMeter k { m0 with dq := rest }).leaveQueue d true false)) ∧
      (s.mayLeave d = true → s.flag (Reg.QOS_MTR_CFG k) Reg.QOS_MTR_CFG_EN = true →
        let passes := act ≤ 1 ∨ d.wb = true
        let refuses := (act = 3 ∨ m0.hopeless mode1 x.2 b = true) ∧ d.keep = false
        (passes → run ((s.setMeter k { (x.1.count x.2 b) with dq := rest }).leaveQueue d true (act = 1))) ∧
        (¬ passes → refuses →
          run ((s.setMeter k { (x.1.count x.2 b) with dq := rest, refused := (x.1.refused + 1) % 2 ^ 32 }).leaveQueue
            d false false)) ∧
        (¬ passes → ¬ refuses → run (s.setMeter k m0)))

/-- Shapers and time gates (R448, R450 to R452). SHAPER_WRITE sets the fields and starts the credit at 0 or full; virtual
channels 0 and 1 have no shaper. Enabling a gate starts its list at the first entry, SWITCH asks for the other list, and the
end of an entry goes to the next one, or round, where a switch asked for takes place. -/
def Obligations.ShapersAndGates : Prop :=
  (∀ (via : Via) (n : Fin 50) (vc : Fin 8) (v : Word) (s : State), s.Quiet →
    let r := Reg.QOS_SHP n.val vc.val
    (2 ≤ vc.val → s.mayWrite via r.off = true → ∃ t, exec (.shaperWrite via n vc v) s = .next t ∧
      (∃ w x, t = { s with regs := w, qos := { s.qos with shp := x } }) ∧
      (∀ f ∈ [Reg.QOS_SHP_EN, Reg.QOS_SHP_IDLE, Reg.QOS_SHP_FILL, Reg.QOS_SHP_HI, Reg.QOS_SHP_LO],
        t.fld r f = newFld f v) ∧
      t.credit n.val vc.val = (if newFld Reg.QOS_SHP_FILL v = 1 then (newFld Reg.QOS_SHP_HI v * 1024 : Nat) else 0) ∧
      (∀ q : RegId, q.off ≠ r.off → t.reg q = s.reg q) ∧
      ∀ k w, w < 8 → k ≠ n.val ∨ w ≠ vc.val → t.credit k w = s.credit k w) ∧
    (vc.val < 2 → exec (.shaperWrite via n vc v) s = .next s)) ∧
  ∀ (n : Fin 50) (s : State),
    let r := Reg.QOS_GATE_CTL n.val
    let g := s.gate n.val
    let on := s.gateFld n.val Reg.QOS_GATE_CTL_EN = 1
    let l := s.gateFld n.val Reg.QOS_GATE_CTL_ACTIVE
    let only := fun (t : State) => t.tasks = s.tasks ∧ (∀ k, k ≠ n.val → t.gate k = s.gate k) ∧
      ∀ q : RegId, q.off ≠ r.off → t.reg q = s.reg q
    (∀ via v, s.mayWrite via r.off = true →
      (¬ on → newFld Reg.QOS_GATE_CTL_EN v = 1 → newFld Reg.QOS_GATE_CTL_SWITCH v = 0 →
        ∃ t, exec (.gateEnable via n v) s = .next t ∧ only t ∧ t.gateFld n.val Reg.QOS_GATE_CTL_EN = 1 ∧
          t.gateFld n.val Reg.QOS_GATE_CTL_ACTIVE = l ∧ t.gate n.val = { entry := 0, since := s.tick, switch := false }) ∧
      (on → newFld Reg.QOS_GATE_CTL_EN v = 1 → newFld Reg.QOS_GATE_CTL_SWITCH v = 1 →
        ∃ t, exec (.switch via n v) s = .next t ∧ only t ∧ t.gateFld n.val Reg.QOS_GATE_CTL_ACTIVE = l ∧
          t.gate n.val = { g with switch := true })) ∧
    (on → g.since + s.gateDur n.val l g.entry ≤ s.tick → ∃ t, exec (.gateEntryEnd n) s = .next t ∧ only t ∧
      (g.entry + 1 < s.gateLen n.val l → t.regs = s.regs ∧
        t.gate n.val = { g with entry := g.entry + 1, since := g.since + s.gateDur n.val l g.entry }) ∧
      (s.gateLen n.val l ≤ g.entry + 1 →
        t.gate n.val = { entry := 0, since := g.since + s.gateDur n.val l g.entry, switch := false } ∧
        t.gateFld n.val Reg.QOS_GATE_CTL_ACTIVE = if g.switch then 1 - l else l))

/-! ## Power, resets, pins, temperature -/

/-- Power (R495, R527, R537, R539, R540, R544, R547 to R549). POWER_UP of a module without power counts one power cycle, clears
`MODULE_TICK`, work, tiers and banks, and ends READY, or in recovery with the cause that keeps the image from running; a module reset does
the same but keeps the tick. OFFLINE and THERMAL_SHUTDOWN write a counter entry that says how, and leave the queues STOPPED and
the module without power; INPUT_POWER_LOSS leaves flash and fuses alone. -/
def Obligations.PowerAndResets : Prop :=
  let cleared := fun (t : State) => t.tasks = [] ∧ t.tier.mem = [] ∧ t.pad.mem = [] ∧ t.dir = [] ∧ t.queues = []
  let boots := fun (s t : State) (img : Image) => cleared t ∧ t.sec.image = img ∧ t.sec.staged = none ∧
    t.sec.recovery = s.imageCause img ∧ t.power = (if s.imageCause img = 0 then 1 else 2) ∧
    (s.imageCause img = 0 → t.sec.svn = img.svn.toNat) ∧ t.sec.svnMin = s.sec.svnMin
  (∀ (img : Image) (s : State), s.power = 0 → ∃ t, exec (.powerUp img) s = .next t ∧ boots s t img ∧ t.tick = 0 ∧
    t.fld Reg.PWR_STAT Reg.PWR_STAT_WAKE = wakeCause s.flash.counter ∧
    ∃ c, t.flash.counter = some c ∧ c.off = 0 ∧
      c.pcycle = (((s.flash.counter.map CounterEnt.pcycle).getD 0 + 1) % 2 ^ 32)) ∧
  (∀ (mctp : Bool) (via : Via) (v : Word) (s : State), s.power ≠ 0 →
    mctp = true ∨ (s.mayWrite via Reg.PWR_CTL.off = true ∧ s.secureVia via = true ∧
      newFld Reg.PWR_CTL_KEY v = 0xA5 ∧ newFld Reg.PWR_CTL_RESET v = 1) →
    ∃ t, exec (.moduleReset mctp via v) s = .next t ∧ boots s t s.sec.image ∧ t.tick = s.tick ∧
      t.reg Reg.PWR_CNT = s.reg Reg.PWR_CNT) ∧
  (∀ (via : Via) (v : Word) (s : State), s.power ≠ 4 → s.mayWrite via Reg.PWR_CTL.off = true → s.secureVia via = true →
    newFld Reg.PWR_CTL_KEY v = 0xA5 → newFld Reg.PWR_CTL_RESET v = 0 → newFld Reg.PWR_CTL_OFFLINE v = 1 →
    ∃ t c, exec (.offline via v) s = .next t ∧ cleared t ∧ t.power = 4 ∧ t.flash.counter = some c ∧ c.off = 1 ∧
      c.opSec = s.opSec % 2 ^ 32 ∧ t.ras.open_ = [] ∧ (∀ n, n < 50 → t.portState n = 0 ∧ t.portCause n = 6) ∧
      ∀ q, q < 4096 → t.qState q = (if s.qState q = 0 then 0 else 3) ∧
        (s.qState q = 1 → t.fld (Reg.Q_STATE q) Reg.Q_STATE_STOP_CAUSE = 4)) ∧
  (∀ s : State, s.power = 5 → ∃ t c, exec .thermalShutdown s = .next t ∧ cleared t ∧ t.power = 4 ∧
    t.flash.counter = some c ∧ c.off = 3 ∧ c.opSec = s.opSec % 2 ^ 32 ∧ t.ras.open_ = []) ∧
  ∀ s : State, ∃ t, exec .inputPowerLoss s = .next t ∧ cleared t ∧ t.power = 0 ∧ t.flash = s.flash ∧
    t.sec.svnMin = s.sec.svnMin ∧ t.pad.repaired = s.pad.repaired ∧ t.pad.fuses0 = s.pad.fuses0 ∧
    t.pad.fuses1 = s.pad.fuses1

/-- Pins, references, power and temperature (R31, R32, R467, R543, R550 to R555). FENCE_N, HP_REQ_N and the fabric reference show in
`PWR_STAT`; FENCE_N ends every hall-level message. A reference that stays lost and THERMAL_TRIP contain the module. Once in each
interval of 100 µs the demands rise by one above a limit, hold within 5 % of it and fall after ten low intervals; KTL_LVL is the
greater. -/
def Obligations.PinsAndDemands : Prop :=
  let P := Reg.PWR_STAT
  (∀ s : State, s.Quiet → s.running = true → s.pwr.refLostAt = none →
    ∃ w, exec .fabricReferenceLoss s = .next { s with regs := w, pwr := { s.pwr with refLostAt := some s.tick } } ∧
      s.OnlyReg { s with regs := w } P ∧ ({ s with regs := w } : State).flag P Reg.PWR_STAT_REF_HOLD = true) ∧
  (∀ s : State, s.Quiet → ∃ w, exec .fabricReferenceReturn s =
      .next { s with regs := w, pwr := { s.pwr with refLostAt := none } } ∧
    s.OnlyReg { s with regs := w } P ∧ ({ s with regs := w } : State).flag P Reg.PWR_STAT_REF_HOLD = false) ∧
  (∀ (s : State) (t0 : Nat), s.pwr.refLostAt = some t0 → t0 + 10 ^ 8 ≤ s.tick → s.ras.moduleContained = false →
    ∃ u : State, exec .refHoldTimeout s = .next (settle s u.pumpRings) ∧ s.Halted u) ∧
  (∀ s : State, s.running = true → s.power ≠ 5 → s.ras.moduleContained = false →
    ∃ u : State, exec .thermalTrip s = .next (settle s (u.pumpRings.setFld P Reg.PWR_STAT_STATE 5)) ∧ s.Halted u) ∧
  (∀ (h : Fin 4) (s : State), s.headStat h.val Reg.HEAD_STAT_IN_RESET = 0 →
    ∃ u : State, exec (.headReferenceLoss h) s = .next (settle s (u.go.score (obj 0xB h.val) .linkDown)) ∧
      (s.hostsBehind h.val = [] → u.reg (Reg.HEAD_STAT h.val) = 2 ^ 12 ∧ (u.head h.val).bme = false)) ∧
  (∀ s : State, s.power ≠ 0 → s.flag P Reg.PWR_STAT_FENCE = false →
    ∃ u : State, exec .fenceNAssert s = .next (settle s u.go) ∧ u.flag P Reg.PWR_STAT_FENCE = true ∧ u.hallOpen = false ∧
      (∀ q : RegId, q.off ≠ P.off → u.reg q = s.reg q) ∧
      u.fab.outs = s.fab.outs.filter (fun o => o.dst / 32 = s.rack) ∧
      ∀ o ∈ s.fab.outs, o.dst / 32 ≠ s.rack → ∀ id, o.task = some id → (SMap.find s.tasks id).isSome →
        ∃ a ∈ (u.task id).log, a.st = .fenced ∧ (u.task id).wait = .ready) ∧
  (∀ s : State, ∃ u : State, exec .fenceNRelease s = .next (settle s u.go) ∧ s.OnlyReg u P ∧
    u.flag P Reg.PWR_STAT_FENCE = false) ∧
  (∀ s : State, s.Quiet →
    (s.power ≠ 0 → s.pwr.hpArmed = true → ∃ w, exec .hpReqN s =
        .next { s with regs := w, pwr := { s.pwr with hpArmed := false } } ∧ s.OnlyReg { s with regs := w } P ∧
      ({ s with regs := w } : State).flag P Reg.PWR_STAT_HP_REQ = true ∧
      ({ s with regs := w } : State).flag P Reg.PWR_STAT_HP_SEEN = true) ∧
    (∃ w, exec .hpReqNRelease s = .next { s with regs := w, pwr := { s.pwr with hpArmed := true } } ∧
      s.OnlyReg { s with regs := w } P ∧ ({ s with regs := w } : State).flag P Reg.PWR_STAT_HP_REQ = false) ∧
    (s.power ≠ 0 → ∀ pin, ∃ t, exec (.glitch pin) s = .next t ∧ s.OnlyReg t Reg.PWR_CNT ∧
      t.fld Reg.PWR_CNT Reg.PWR_CNT_GLITCH = (s.fld Reg.PWR_CNT Reg.PWR_CNT_GLITCH + 1) % 2 ^ 16)) ∧
  (∀ (pin tdie thbm tin : Nat) (s : State), s.running = true → s.pwr.ctlAt + us 100 ≤ s.tick →
    let lim := s.powerLimit tin
    let tthr := min 100 (s.fld Reg.PWR_LIMIT Reg.PWR_LIMIT_TTHR)
    ∃ t, exec (.powerControlTick pin tdie thbm tin) s = .next t ∧ t.tasks = s.tasks ∧
      (∀ q : RegId, q.off ≠ P.off → q.off ≠ Reg.PWR_CNT.off → t.reg q = s.reg q) ∧
      (lim < pin → t.pwr.lp = min (s.pwr.lp + 1) 8) ∧ (pin ≤ lim → 95 * lim ≤ 100 * pin → t.pwr.lp = s.pwr.lp) ∧
      (100 * pin < 95 * lim → t.pwr.lp = if 9 ≤ s.pwr.lowP then s.pwr.lp - 1 else s.pwr.lp) ∧
      (tthr ≤ tdie → t.pwr.lt = min (s.pwr.lt + 1) 8) ∧ (tdie < tthr → tthr ≤ tdie + 5 → t.pwr.lt = s.pwr.lt) ∧
      (tdie + 5 < tthr → t.pwr.lt = if 9 ≤ s.pwr.lowT then s.pwr.lt - 1 else s.pwr.lt) ∧
      t.fld P Reg.PWR_STAT_KTL_LVL = max t.pwr.lp t.pwr.lt % 16 ∧
      t.fld P Reg.PWR_STAT_TDIE = tdie % 2 ^ 8 ∧ t.fld P Reg.PWR_STAT_PIN = pin % 2 ^ 16) ∧
  ∀ s : State,
    (s.Quiet → s.running = true → ∃ w, exec .droop s =
        .next { s with regs := w, pwr := { s.pwr with droops := s.pwr.droops + 1 } } ∧
      s.OnlyReg { s with regs := w } Reg.PWR_CNT ∧ ({ s with regs := w } : State).fld Reg.PWR_CNT Reg.PWR_CNT_DROOP =
        (s.fld Reg.PWR_CNT Reg.PWR_CNT_DROOP + 1) % 2 ^ 16) ∧
    (s.pwr.droopAt + us 1000 ≤ s.tick → ∃ t, exec .droopWindow s = .next t ∧ t.pwr.droops = 0 ∧
      t.pwr.lt = (if 1000 < s.pwr.droops then min (s.pwr.lt + 1) 8 else s.pwr.lt) ∧ t.tasks = s.tasks ∧
      ∀ q : RegId, q.off ≠ P.off → t.reg q = s.reg q)
end

