-- ==== Sys2Proof/Laws/Maps.lean ====
section
/-! SUPPORT. What reading and writing a sparse map do, and that every map operation keeps the canonical form. -/

namespace Sys2Proof

variable {α : Type}

theorem SMap.find_put_same (m : SMap α) (k : Nat) (v : α) : SMap.find (SMap.put m k v) k = some v := by
  induction m with
  | nil => simp [SMap.put, SMap.find]
  | cons e t ih =>
    obtain ⟨j, w⟩ := e
    by_cases h1 : k < j
    · simp [SMap.put, SMap.find, h1]
    · by_cases h2 : k = j
      · simp [SMap.put, SMap.find, h2]
      · have h3 : ¬ j = k := fun h => h2 h.symm
        simp only [SMap.put, SMap.find, h1, h2, h3, if_false, ih]

theorem SMap.find_put_other (m : SMap α) {k i : Nat} (v : α) (h : i ≠ k) :
    SMap.find (SMap.put m k v) i = SMap.find m i := by
  induction m with
  | nil => simp [SMap.put, SMap.find, h.symm]
  | cons e t ih =>
    obtain ⟨j, w⟩ := e
    by_cases h1 : k < j
    · simp [SMap.put, SMap.find, h1, h.symm]
    · by_cases h2 : k = j
      · subst h2; simp [SMap.put, SMap.find, h.symm]
      · simp only [SMap.put, SMap.find, h1, h2, if_false, ih]

theorem SMap.find_del_same (m : SMap α) (k : Nat) : SMap.find (SMap.del m k) k = none := by
  induction m with
  | nil => rfl
  | cons e t ih =>
    obtain ⟨j, w⟩ := e
    by_cases h : j = k
    · simpa [SMap.del, SMap.find, h] using ih
    · simpa [SMap.del, SMap.find, h] using ih

theorem SMap.find_del_other (m : SMap α) {k i : Nat} (h : i ≠ k) :
    SMap.find (SMap.del m k) i = SMap.find m i := by
  induction m with
  | nil => rfl
  | cons e t ih =>
    obtain ⟨j, w⟩ := e
    by_cases hj : j = k
    · subst hj; simpa [SMap.del, SMap.find, h.symm] using ih
    · by_cases hi : j = i
      · simp [SMap.del, SMap.find, hi, h]
      · simpa [SMap.del, SMap.find, hj, hi] using ih

@[simp] theorem SMap.get_set_same [DecidableEq α] (m : SMap α) (k : Nat) (v d : α) :
    SMap.get (SMap.set m k v d) k d = v := by
  unfold SMap.set SMap.get
  split
  · simp [SMap.find_del_same, *]
  · simp [SMap.find_put_same]

theorem SMap.get_set_other [DecidableEq α] (m : SMap α) {k i : Nat} (v d e : α) (h : i ≠ k) :
    SMap.get (SMap.set m k v d) i e = SMap.get m i e := by
  unfold SMap.set SMap.get
  split
  · rw [SMap.find_del_other m h]
  · rw [SMap.find_put_other m v h]

@[simp] theorem SMap.get_put_same (m : SMap α) (k : Nat) (v d : α) : SMap.get (SMap.put m k v) k d = v := by
  simp [SMap.get, SMap.find_put_same]

theorem SMap.get_put_other (m : SMap α) {k i : Nat} (v d : α) (h : i ≠ k) :
    SMap.get (SMap.put m k v) i d = SMap.get m i d := by
  simp [SMap.get, SMap.find_put_other m v h]

/-! ## The canonical form -/

theorem SMap.rising_tail {e : Nat × α} {t : SMap α} (h : SMap.rising (e :: t) = true) : SMap.rising t = true := by
  cases t with
  | nil => rfl
  | cons f u => simp only [SMap.rising, Bool.and_eq_true] at h; exact h.2

theorem SMap.rising_head_lt {j : Nat} {w : α} {t : SMap α} (h : SMap.rising ((j, w) :: t) = true) :
    ∀ e ∈ t, j < e.1 := by
  induction t generalizing j w with
  | nil => simp
  | cons f u ih =>
    obtain ⟨k, x⟩ := f
    simp only [SMap.rising, Bool.and_eq_true, decide_eq_true_eq] at h
    intro e he
    rcases List.mem_cons.1 he with rfl | he
    · exact h.1
    · exact Nat.lt_trans h.1 (ih h.2 e he)

theorem SMap.rising_cons {j : Nat} {w : α} {t : SMap α} (h : SMap.rising t = true) (hj : ∀ e ∈ t, j < e.1) :
    SMap.rising ((j, w) :: t) = true := by
  cases t with
  | nil => rfl
  | cons f u =>
    obtain ⟨k, x⟩ := f
    simp only [SMap.rising, Bool.and_eq_true, decide_eq_true_eq]
    exact ⟨hj (k, x) (List.mem_cons_self ..), h⟩

theorem SMap.rising_filter (p : Nat × α → Bool) {m : SMap α} (h : SMap.rising m = true) :
    SMap.rising (m.filter p) = true := by
  induction m with
  | nil => rfl
  | cons e t ih =>
    obtain ⟨j, w⟩ := e
    have ht := ih (SMap.rising_tail h)
    by_cases hp : p (j, w) = true
    · rw [List.filter_cons_of_pos hp]
      exact SMap.rising_cons ht fun e he => SMap.rising_head_lt h e (List.mem_filter.1 he).1
    · rw [List.filter_cons_of_neg hp]; exact ht

theorem SMap.mem_put {m : SMap α} {k : Nat} {v : α} {e : Nat × α} (h : e ∈ SMap.put m k v) :
    e = (k, v) ∨ e ∈ m := by
  induction m with
  | nil => exact .inl (List.mem_singleton.1 h)
  | cons f t ih =>
    obtain ⟨j, w⟩ := f
    simp only [SMap.put] at h
    split at h
    · rcases List.mem_cons.1 h with h | h
      · exact .inl h
      · exact .inr h
    · split at h
      · rcases List.mem_cons.1 h with h | h
        · exact .inl h
        · exact .inr (List.mem_cons_of_mem _ h)
      · rcases List.mem_cons.1 h with h | h
        · exact .inr (h ▸ List.mem_cons_self ..)
        · rcases ih h with h | h
          · exact .inl h
          · exact .inr (List.mem_cons_of_mem _ h)

theorem SMap.rising_put {m : SMap α} (k : Nat) (v : α) (h : SMap.rising m = true) :
    SMap.rising (SMap.put m k v) = true := by
  induction m with
  | nil => rfl
  | cons e t ih =>
    obtain ⟨j, w⟩ := e
    simp only [SMap.put]
    split
    · rename_i hk
      refine SMap.rising_cons h fun e he => ?_
      rcases List.mem_cons.1 he with rfl | he
      · exact hk
      · exact Nat.lt_trans hk (SMap.rising_head_lt h e he)
    · split
      · rename_i hk; subst hk
        exact SMap.rising_cons (SMap.rising_tail h) (SMap.rising_head_lt h)
      · refine SMap.rising_cons (ih (SMap.rising_tail h)) fun e he => ?_
        rcases SMap.mem_put he with rfl | he
        · show j < k; omega
        · exact SMap.rising_head_lt h e he

theorem SMap.wf_set [DecidableEq α] {m : SMap α} {d : α} (k : Nat) (v : α) (h : SMap.wf m d = true) :
    SMap.wf (SMap.set m k v d) d = true := by
  simp only [SMap.wf, Bool.and_eq_true, List.all_eq_true, decide_eq_true_eq] at h ⊢
  unfold SMap.set
  split
  · exact ⟨SMap.rising_filter _ h.1, fun e he => h.2 e (List.mem_filter.1 he).1⟩
  · rename_i hv
    refine ⟨SMap.rising_put k v h.1, fun e he => ?_⟩
    rcases SMap.mem_put he with rfl | he
    · exact hv
    · exact h.2 e he

theorem SMap.wf_filter [DecidableEq α] {m : SMap α} {d : α} (p : Nat × α → Bool) (h : SMap.wf m d = true) :
    SMap.wf (m.filter p) d = true := by
  simp only [SMap.wf, Bool.and_eq_true, List.all_eq_true, decide_eq_true_eq] at h ⊢
  exact ⟨SMap.rising_filter p h.1, fun e he => h.2 e (List.mem_filter.1 he).1⟩

end Sys2Proof
end

