-- ==== Sys2Proof/Laws/Memory.lean ====
section
/-! SUPPORT. Byte lists, and the memories of the tiers and the scratchpad: reading back what was written, what a write leaves
alone, and that every operation keeps the canonical form. -/

namespace Sys2Proof.Machine

/-! ## Byte lists -/

@[simp] theorem natLE_length (k n : Nat) : (natLE k n).length = k := by
  induction k generalizing n with
  | zero => rfl
  | succ k ih => simp [natLE, ih]

@[simp] theorem fitBytes_length (k : Nat) (l : List Byte) : (fitBytes k l).length = k := by
  simp only [fitBytes, List.length_append, List.length_take, List.length_replicate]; omega

theorem fitBytes_of_length {k : Nat} {l : List Byte} (h : l.length = k) : fitBytes k l = l := by
  simp [fitBytes, ← h]

@[simp] theorem leNat_natLE (k n : Nat) : leNat (natLE k n) = n % 256 ^ k := by
  induction k generalizing n with
  | zero => simp [natLE, leNat, Nat.mod_one]
  | succ k ih =>
    have e : (256 : Nat) ^ (k + 1) = 256 * 256 ^ k := by rw [Nat.pow_succ, Nat.mul_comm]
    simp only [natLE, leNat, ih, BitVec.toNat_ofNat]
    rw [e, Nat.mod_mul]

@[simp] theorem natLE_leNat (l : List Byte) : natLE l.length (leNat l) = l := by
  induction l with
  | nil => rfl
  | cons b bs ih =>
    have hb : b.toNat < 256 := b.isLt
    simp only [List.length_cons, natLE, leNat]
    rw [show (b.toNat + 256 * leNat bs) / 256 = leNat bs by omega, ih]
    congr 1
    apply BitVec.eq_of_toNat_eq
    rw [BitVec.toNat_ofNat]; omega

theorem leNat_lt (l : List Byte) : leNat l < 256 ^ l.length := by
  induction l with
  | nil => simp [leNat]
  | cons b bs ih =>
    have hb : b.toNat < 256 := b.isLt
    simp only [leNat, List.length_cons, Nat.pow_succ]; omega

theorem bytes_of_block : (256 : Nat) ^ 64 = 2 ^ 512 := by
  rw [show (256 : Nat) = 2 ^ 8 by rfl, ← Nat.pow_mul]

/-- A line as a number and back. -/
theorem ofBlock_blockOf {d : List Byte} (h : d.length = 64) : ofBlock (blockOf d) = d := by
  have hl := leNat_lt d
  rw [h] at hl
  unfold ofBlock blockOf
  rw [fitBytes_of_length h, BitVec.toNat_ofNat, Nat.mod_eq_of_lt (bytes_of_block ▸ hl), ← h, natLE_leNat]

theorem blockOf_ofBlock (b : BitVec 512) : blockOf (ofBlock b) = b := by
  unfold blockOf ofBlock
  rw [fitBytes_of_length (natLE_length ..), leNat_natLE]
  apply BitVec.eq_of_toNat_eq
  have := b.isLt
  rw [BitVec.toNat_ofNat, bytes_of_block, Nat.mod_mod, Nat.mod_eq_of_lt this]

/-! ## Memories -/

@[simp] theorem memRead_length (m : List Host.Cell) (c k : Nat) : (memRead m c k).length = k := by simp [memRead]

theorem memWrite_outside (d : List Byte) (m : List Host.Cell) {c a : Nat} (h : a < c ∨ c + d.length ≤ a) :
    SMap.get (memWrite m c d) a 0 = SMap.get m a 0 := by
  induction d generalizing m c with
  | nil => rfl
  | cons b bs ih =>
    simp only [List.length_cons] at h
    rw [memWrite, ih _ (by omega), SMap.get_set_other _ _ _ _ (by omega)]

theorem memWrite_inside (d : List Byte) (m : List Host.Cell) {c i : Nat} (h : i < d.length) :
    SMap.get (memWrite m c d) (c + i) 0 = d[i] := by
  induction d generalizing m c i with
  | nil => simp at h
  | cons b bs ih =>
    cases i with
    | zero => rw [memWrite, memWrite_outside _ _ (by omega)]; simp
    | succ i =>
      rw [memWrite, show c + (i + 1) = c + 1 + i by omega, ih _ (by simpa using h)]; simp

/-- What was written is read back. -/
theorem memRead_memWrite (m : List Host.Cell) (c : Nat) (d : List Byte) : memRead (memWrite m c d) c d.length = d := by
  apply List.ext_getElem (by simp)
  intro i h1 h2
  simp only [memRead, List.getElem_map, List.getElem_range]
  exact memWrite_inside d m h2

theorem memWrite_wf (d : List Byte) {m : List Host.Cell} (c : Nat) (h : Memory.wf m) : Memory.wf (memWrite m c d) := by
  induction d generalizing m c with
  | nil => exact h
  | cons b bs ih => exact ih _ (SMap.wf_set _ _ h)

/-! ## One line of the tiers -/

theorem writeLine_cell (s : State) (line : Nat) (d : List Byte) (a : Nat) : (s.writeLine line d).cell a = s.cell a := by
  unfold State.writeLine; split <;> rfl

theorem writeLine_lineKey (s : State) (line : Nat) (d : List Byte) (a : Nat) :
    (s.writeLine line d).lineKey a = s.lineKey a := by
  unfold State.writeLine; split <;> rfl

theorem setLinePoison_cell (s : State) (line : Nat) (b : Bool) (a : Nat) :
    (s.setLinePoison line b).cell a = s.cell a := by
  unfold State.setLinePoison; split <;> rfl

theorem setLinePoison_readLine (s : State) (line : Nat) (b : Bool) (a : Nat) :
    (s.setLinePoison line b).readLine a = s.readLine a := by
  unfold State.setLinePoison; split <;> rfl

theorem linePoison_setLinePoison {s : State} {line : Nat} (b : Bool) (h : (s.cell (line * 64)).isSome) :
    (s.setLinePoison line b).linePoison line = b := by
  obtain ⟨c, hc⟩ := Option.isSome_iff_exists.1 h
  have : (s.setLinePoison line b).cell (line * 64) = some c := by rw [setLinePoison_cell, hc]
  unfold State.linePoison
  rw [this]
  simp [State.setLinePoison, hc]

theorem linePoison_writeLine (s : State) (line : Nat) (d : List Byte) (a : Nat) :
    (s.writeLine line d).linePoison a = s.linePoison a := by
  unfold State.writeLine; split <;> rfl

/-- A line written is read back, whether its region encrypts it or not (R486). -/
theorem readLine_writeLine {s : State} {line : Nat} {d : List Byte} (h : (s.cell (line * 64)).isSome) (hd : d.length = 64) :
    (s.writeLine line d).readLine line = d := by
  obtain ⟨c, hc⟩ := Option.isSome_iff_exists.1 h
  unfold State.readLine
  rw [writeLine_cell, writeLine_lineKey, hc]
  simp only [State.writeLine, hc]
  cases hk : s.lineKey line with
  | none =>
    simp only [fitBytes_of_length hd]
    conv_lhs => rw [← hd]
    exact memRead_memWrite _ _ _
  | some k =>
    have := memRead_memWrite s.tier.mem c (ofBlock (Config.xts k (line % 2 ^ 38) (blockOf d)))
    rw [ofBlock, natLE_length] at this
    simp only [ofBlock] at this ⊢
    rw [this]
    have e := blockOf_ofBlock (Config.xts k (line % 2 ^ 38) (blockOf d))
    rw [ofBlock] at e
    rw [e, Equiv.symm_apply_apply]
    exact ofBlock_blockOf hd

theorem readLine_length (s : State) (line : Nat) : (s.readLine line).length = 64 := by
  unfold State.readLine
  split
  · simp
  · dsimp only; split <;> simp [ofBlock]

/-- A write of a line changes nothing but its own cells. -/
theorem writeLine_frame {s : State} {line c : Nat} (d : List Byte) (hc : s.cell (line * 64) = some c) :
    (∀ a, a < c ∨ c + 64 ≤ a → SMap.get (s.writeLine line d).tier.mem a 0 = SMap.get s.tier.mem a 0) ∧
    (∃ m, s.writeLine line d = { s with tier := { s.tier with mem := m } }) ∧
    (Memory.wf s.tier.mem → Memory.wf (s.writeLine line d).tier.mem) := by
  refine ⟨?_, ?_, ?_⟩
  · intro a ha
    simp only [State.writeLine, hc]
    apply memWrite_outside
    split <;> simpa [ofBlock] using ha
  · simp only [State.writeLine, hc]; exact ⟨_, rfl⟩
  · intro hw
    simp only [State.writeLine, hc]
    exact memWrite_wf _ _ hw

end Sys2Proof.Machine
end

