-- ==== Sys2Proof/Laws/Words.lean ====
section
/-! SUPPORT. Fields of words, and what reading and writing registers and fields do. -/

namespace Sys2Proof.Machine

theorem bits_lt (n hi lo : Nat) : bits n hi lo < 2 ^ (hi + 1 - lo) := Nat.mod_lt _ (Nat.two_pow_pos _)

/-- Bit i of a field is a bit of the word. -/
theorem testBit_bits (n hi lo i : Nat) : (bits n hi lo).testBit i = (decide (i < hi + 1 - lo) && n.testBit (lo + i)) := by
  simp [bits, Nat.testBit_mod_two_pow, Nat.testBit_div_two_pow, Nat.add_comm]

theorem testBit_putBits {n hi lo v : Nat} (h : lo ≤ hi) (i : Nat) :
    (putBits n hi lo v).testBit i = if lo ≤ i ∧ i ≤ hi then v.testBit (i - lo) else n.testBit i := by
  have e : putBits n hi lo v =
      2 ^ (hi + 1) * (n / 2 ^ (hi + 1)) + (2 ^ lo * (v % 2 ^ (hi + 1 - lo)) + n % 2 ^ lo) := by
    unfold putBits; ring
  have l1 : n % 2 ^ lo < 2 ^ lo := Nat.mod_lt _ (Nat.two_pow_pos _)
  have l2 : 2 ^ lo * (v % 2 ^ (hi + 1 - lo)) + n % 2 ^ lo < 2 ^ (hi + 1) := by
    have : v % 2 ^ (hi + 1 - lo) + 1 ≤ 2 ^ (hi + 1 - lo) := Nat.mod_lt _ (Nat.two_pow_pos _)
    calc 2 ^ lo * (v % 2 ^ (hi + 1 - lo)) + n % 2 ^ lo
        < 2 ^ lo * (v % 2 ^ (hi + 1 - lo) + 1) := by rw [Nat.mul_add, Nat.mul_one]; omega
      _ ≤ 2 ^ lo * 2 ^ (hi + 1 - lo) := Nat.mul_le_mul_left _ this
      _ = 2 ^ (hi + 1) := by rw [← Nat.pow_add]; congr 1; omega
  rw [e, Nat.testBit_two_pow_mul_add _ l2, Nat.testBit_two_pow_mul_add _ l1, Nat.testBit_div_two_pow,
    Nat.testBit_mod_two_pow, Nat.testBit_mod_two_pow]
  by_cases h1 : i < hi + 1
  · by_cases h2 : i < lo
    · simp [h1, h2, show ¬ (lo ≤ i ∧ i ≤ hi) by omega]
    · simp [h1, h2, show lo ≤ i ∧ i ≤ hi by omega, show i - lo < hi + 1 - lo by omega]
  · have h2 : ¬ (lo ≤ i ∧ i ≤ hi) := by omega
    rw [if_neg h1, if_neg h2]
    congr 1; omega

theorem bits_putBits_same {n hi lo v : Nat} (h : lo ≤ hi) : bits (putBits n hi lo v) hi lo = v % 2 ^ (hi + 1 - lo) := by
  apply Nat.eq_of_testBit_eq
  intro i
  rw [testBit_bits, testBit_putBits h, Nat.testBit_mod_two_pow]
  by_cases hi' : i < hi + 1 - lo
  · simp [hi', show lo ≤ lo + i ∧ lo + i ≤ hi by omega]
  · simp [hi']

theorem bits_putBits_other {n hi lo v a b : Nat} (h : lo ≤ hi) (hd : hi < b ∨ a < lo) :
    bits (putBits n hi lo v) a b = bits n a b := by
  apply Nat.eq_of_testBit_eq
  intro i
  rw [testBit_bits, testBit_bits, testBit_putBits h]
  by_cases hi' : i < a + 1 - b
  · rw [if_neg (by omega)]
  · simp [hi']

theorem putBits_lt {n hi lo v w : Nat} (h : lo ≤ hi) (hw : hi < w) (hn : n < 2 ^ w) : putBits n hi lo v < 2 ^ w := by
  apply Nat.lt_pow_two_of_testBit
  intro i hi'
  rw [testBit_putBits h, if_neg (by omega)]
  exact Nat.testBit_lt_two_pow (Nat.lt_of_lt_of_le hn (Nat.pow_le_pow_right (by omega) hi'))

/-! ## Registers -/

theorem reg_lt (s : State) (r : RegId) : s.reg r < 2 ^ 64 := (SMap.get s.regs r.off (BitVec.ofNat 64 r.rst)).isLt

theorem reg_setReg_same (s : State) (r : RegId) (v : Nat) : (s.setReg r v).reg r = v % 2 ^ 64 := by
  simp [State.reg, State.setReg]

theorem reg_setReg_other (s : State) {r q : RegId} (v : Nat) (h : q.off ≠ r.off) : (s.setReg r v).reg q = s.reg q := by
  simp only [State.reg, State.setReg]
  rw [SMap.get_set_other _ _ _ _ h]

theorem reg_setReg_lt (s : State) (r : RegId) {v : Nat} (h : v < 2 ^ 64) : (s.setReg r v).reg r = v := by
  rw [reg_setReg_same, Nat.mod_eq_of_lt h]

/-- A field just written. -/
theorem fld_setFld_same (s : State) (r : RegId) {f : Fld} (v : Nat) (h : f.lo ≤ f.hi) (hw : f.hi < 64) :
    (s.setFld r f v).fld r f = v % 2 ^ (f.hi + 1 - f.lo) := by
  rw [State.fld, State.setFld, reg_setReg_lt]
  · exact bits_putBits_same h
  · exact putBits_lt h hw (reg_lt s r)

/-- Another field of the register. -/
theorem fld_setFld_field (s : State) (r : RegId) {f g : Fld} (v : Nat) (h : f.lo ≤ f.hi) (hw : f.hi < 64)
    (hd : f.hi < g.lo ∨ g.hi < f.lo) : (s.setFld r f v).fld r g = s.fld r g := by
  rw [State.fld, State.setFld, reg_setReg_lt]
  · exact bits_putBits_other h hd
  · exact putBits_lt h hw (reg_lt s r)

/-- A field of another register. -/
theorem fld_setFld_other (s : State) {r q : RegId} (f g : Fld) (v : Nat) (h : q.off ≠ r.off) :
    (s.setFld r f v).fld q g = s.fld q g := by
  rw [State.fld, State.fld, State.setFld, reg_setReg_other _ _ h]

theorem reg_setFld_other (s : State) {r q : RegId} (f : Fld) (v : Nat) (h : q.off ≠ r.off) :
    (s.setFld r f v).reg q = s.reg q := reg_setReg_other s _ h

theorem fld_lt (s : State) (r : RegId) (f : Fld) : s.fld r f < 2 ^ (f.hi + 1 - f.lo) := bits_lt _ _ _

end Sys2Proof.Machine
end

