-- ==== Sys2Proof/Laws/State.lean ====
section
/-! SUPPORT. What each one-field update of the state leaves alone: one lemma per field, true by definition. -/

namespace Sys2Proof.Machine

variable (s : State)

/-! ## `State.setReg` -/

@[simp] theorem setReg_tick (r : RegId) (v : Nat) : (s.setReg r v).tick = s.tick := rfl
@[simp] theorem setReg_free (r : RegId) (v : Nat) : (s.setReg r v).free = s.free := rfl
@[simp] theorem setReg_fixed (r : RegId) (v : Nat) : (s.setReg r v).fixed = s.fixed := rfl
@[simp] theorem setReg_flash (r : RegId) (v : Nat) : (s.setReg r v).flash = s.flash := rfl
@[simp] theorem setReg_tier (r : RegId) (v : Nat) : (s.setReg r v).tier = s.tier := rfl
@[simp] theorem setReg_dir (r : RegId) (v : Nat) : (s.setReg r v).dir = s.dir := rfl
@[simp] theorem setReg_waitq (r : RegId) (v : Nat) : (s.setReg r v).waitq = s.waitq := rfl
@[simp] theorem setReg_combine (r : RegId) (v : Nat) : (s.setReg r v).combine = s.combine := rfl
@[simp] theorem setReg_ringq (r : RegId) (v : Nat) : (s.setReg r v).ringq = s.ringq := rfl
@[simp] theorem setReg_ringBusy (r : RegId) (v : Nat) : (s.setReg r v).ringBusy = s.ringBusy := rfl
@[simp] theorem setReg_xlt (r : RegId) (v : Nat) : (s.setReg r v).xlt = s.xlt := rfl
@[simp] theorem setReg_queues (r : RegId) (v : Nat) : (s.setReg r v).queues = s.queues := rfl
@[simp] theorem setReg_tasks (r : RegId) (v : Nat) : (s.setReg r v).tasks = s.tasks := rfl
@[simp] theorem setReg_nextTask (r : RegId) (v : Nat) : (s.setReg r v).nextTask = s.nextTask := rfl
@[simp] theorem setReg_dmas (r : RegId) (v : Nat) : (s.setReg r v).dmas = s.dmas := rfl
@[simp] theorem setReg_nextDma (r : RegId) (v : Nat) : (s.setReg r v).nextDma = s.nextDma := rfl
@[simp] theorem setReg_steep (r : RegId) (v : Nat) : (s.setReg r v).steep = s.steep := rfl
@[simp] theorem setReg_mixed (r : RegId) (v : Nat) : (s.setReg r v).mixed = s.mixed := rfl
@[simp] theorem setReg_pad (r : RegId) (v : Nat) : (s.setReg r v).pad = s.pad := rfl
@[simp] theorem setReg_eng (r : RegId) (v : Nat) : (s.setReg r v).eng = s.eng := rfl
@[simp] theorem setReg_fab (r : RegId) (v : Nat) : (s.setReg r v).fab = s.fab := rfl
@[simp] theorem setReg_qos (r : RegId) (v : Nat) : (s.setReg r v).qos = s.qos := rfl
@[simp] theorem setReg_heads (r : RegId) (v : Nat) : (s.setReg r v).heads = s.heads := rfl
@[simp] theorem setReg_spdm (r : RegId) (v : Nat) : (s.setReg r v).spdm = s.spdm := rfl
@[simp] theorem setReg_sec (r : RegId) (v : Nat) : (s.setReg r v).sec = s.sec := rfl
@[simp] theorem setReg_ras (r : RegId) (v : Nat) : (s.setReg r v).ras = s.ras := rfl
@[simp] theorem setReg_pwr (r : RegId) (v : Nat) : (s.setReg r v).pwr = s.pwr := rfl
@[simp] theorem setReg_out (r : RegId) (v : Nat) : (s.setReg r v).out = s.out := rfl
@[simp] theorem setReg_pending (r : RegId) (v : Nat) : (s.setReg r v).pending = s.pending := rfl

/-! ## `State.setFld` -/

@[simp] theorem setFld_tick (r : RegId) (f : Fld) (v : Nat) : (s.setFld r f v).tick = s.tick := rfl
@[simp] theorem setFld_free (r : RegId) (f : Fld) (v : Nat) : (s.setFld r f v).free = s.free := rfl
@[simp] theorem setFld_fixed (r : RegId) (f : Fld) (v : Nat) : (s.setFld r f v).fixed = s.fixed := rfl
@[simp] theorem setFld_flash (r : RegId) (f : Fld) (v : Nat) : (s.setFld r f v).flash = s.flash := rfl
@[simp] theorem setFld_tier (r : RegId) (f : Fld) (v : Nat) : (s.setFld r f v).tier = s.tier := rfl
@[simp] theorem setFld_dir (r : RegId) (f : Fld) (v : Nat) : (s.setFld r f v).dir = s.dir := rfl
@[simp] theorem setFld_waitq (r : RegId) (f : Fld) (v : Nat) : (s.setFld r f v).waitq = s.waitq := rfl
@[simp] theorem setFld_combine (r : RegId) (f : Fld) (v : Nat) : (s.setFld r f v).combine = s.combine := rfl
@[simp] theorem setFld_ringq (r : RegId) (f : Fld) (v : Nat) : (s.setFld r f v).ringq = s.ringq := rfl
@[simp] theorem setFld_ringBusy (r : RegId) (f : Fld) (v : Nat) : (s.setFld r f v).ringBusy = s.ringBusy := rfl
@[simp] theorem setFld_xlt (r : RegId) (f : Fld) (v : Nat) : (s.setFld r f v).xlt = s.xlt := rfl
@[simp] theorem setFld_queues (r : RegId) (f : Fld) (v : Nat) : (s.setFld r f v).queues = s.queues := rfl
@[simp] theorem setFld_tasks (r : RegId) (f : Fld) (v : Nat) : (s.setFld r f v).tasks = s.tasks := rfl
@[simp] theorem setFld_nextTask (r : RegId) (f : Fld) (v : Nat) : (s.setFld r f v).nextTask = s.nextTask := rfl
@[simp] theorem setFld_dmas (r : RegId) (f : Fld) (v : Nat) : (s.setFld r f v).dmas = s.dmas := rfl
@[simp] theorem setFld_nextDma (r : RegId) (f : Fld) (v : Nat) : (s.setFld r f v).nextDma = s.nextDma := rfl
@[simp] theorem setFld_steep (r : RegId) (f : Fld) (v : Nat) : (s.setFld r f v).steep = s.steep := rfl
@[simp] theorem setFld_mixed (r : RegId) (f : Fld) (v : Nat) : (s.setFld r f v).mixed = s.mixed := rfl
@[simp] theorem setFld_pad (r : RegId) (f : Fld) (v : Nat) : (s.setFld r f v).pad = s.pad := rfl
@[simp] theorem setFld_eng (r : RegId) (f : Fld) (v : Nat) : (s.setFld r f v).eng = s.eng := rfl
@[simp] theorem setFld_fab (r : RegId) (f : Fld) (v : Nat) : (s.setFld r f v).fab = s.fab := rfl
@[simp] theorem setFld_qos (r : RegId) (f : Fld) (v : Nat) : (s.setFld r f v).qos = s.qos := rfl
@[simp] theorem setFld_heads (r : RegId) (f : Fld) (v : Nat) : (s.setFld r f v).heads = s.heads := rfl
@[simp] theorem setFld_spdm (r : RegId) (f : Fld) (v : Nat) : (s.setFld r f v).spdm = s.spdm := rfl
@[simp] theorem setFld_sec (r : RegId) (f : Fld) (v : Nat) : (s.setFld r f v).sec = s.sec := rfl
@[simp] theorem setFld_ras (r : RegId) (f : Fld) (v : Nat) : (s.setFld r f v).ras = s.ras := rfl
@[simp] theorem setFld_pwr (r : RegId) (f : Fld) (v : Nat) : (s.setFld r f v).pwr = s.pwr := rfl
@[simp] theorem setFld_out (r : RegId) (f : Fld) (v : Nat) : (s.setFld r f v).out = s.out := rfl
@[simp] theorem setFld_pending (r : RegId) (f : Fld) (v : Nat) : (s.setFld r f v).pending = s.pending := rfl

/-! ## `State.bump` -/

@[simp] theorem bump_tick (r : RegId) (f : Fld) (v : Nat) : (s.bump r f v).tick = s.tick := rfl
@[simp] theorem bump_free (r : RegId) (f : Fld) (v : Nat) : (s.bump r f v).free = s.free := rfl
@[simp] theorem bump_fixed (r : RegId) (f : Fld) (v : Nat) : (s.bump r f v).fixed = s.fixed := rfl
@[simp] theorem bump_flash (r : RegId) (f : Fld) (v : Nat) : (s.bump r f v).flash = s.flash := rfl
@[simp] theorem bump_tier (r : RegId) (f : Fld) (v : Nat) : (s.bump r f v).tier = s.tier := rfl
@[simp] theorem bump_dir (r : RegId) (f : Fld) (v : Nat) : (s.bump r f v).dir = s.dir := rfl
@[simp] theorem bump_waitq (r : RegId) (f : Fld) (v : Nat) : (s.bump r f v).waitq = s.waitq := rfl
@[simp] theorem bump_combine (r : RegId) (f : Fld) (v : Nat) : (s.bump r f v).combine = s.combine := rfl
@[simp] theorem bump_ringq (r : RegId) (f : Fld) (v : Nat) : (s.bump r f v).ringq = s.ringq := rfl
@[simp] theorem bump_ringBusy (r : RegId) (f : Fld) (v : Nat) : (s.bump r f v).ringBusy = s.ringBusy := rfl
@[simp] theorem bump_xlt (r : RegId) (f : Fld) (v : Nat) : (s.bump r f v).xlt = s.xlt := rfl
@[simp] theorem bump_queues (r : RegId) (f : Fld) (v : Nat) : (s.bump r f v).queues = s.queues := rfl
@[simp] theorem bump_tasks (r : RegId) (f : Fld) (v : Nat) : (s.bump r f v).tasks = s.tasks := rfl
@[simp] theorem bump_nextTask (r : RegId) (f : Fld) (v : Nat) : (s.bump r f v).nextTask = s.nextTask := rfl
@[simp] theorem bump_dmas (r : RegId) (f : Fld) (v : Nat) : (s.bump r f v).dmas = s.dmas := rfl
@[simp] theorem bump_nextDma (r : RegId) (f : Fld) (v : Nat) : (s.bump r f v).nextDma = s.nextDma := rfl
@[simp] theorem bump_steep (r : RegId) (f : Fld) (v : Nat) : (s.bump r f v).steep = s.steep := rfl
@[simp] theorem bump_mixed (r : RegId) (f : Fld) (v : Nat) : (s.bump r f v).mixed = s.mixed := rfl
@[simp] theorem bump_pad (r : RegId) (f : Fld) (v : Nat) : (s.bump r f v).pad = s.pad := rfl
@[simp] theorem bump_eng (r : RegId) (f : Fld) (v : Nat) : (s.bump r f v).eng = s.eng := rfl
@[simp] theorem bump_fab (r : RegId) (f : Fld) (v : Nat) : (s.bump r f v).fab = s.fab := rfl
@[simp] theorem bump_qos (r : RegId) (f : Fld) (v : Nat) : (s.bump r f v).qos = s.qos := rfl
@[simp] theorem bump_heads (r : RegId) (f : Fld) (v : Nat) : (s.bump r f v).heads = s.heads := rfl
@[simp] theorem bump_spdm (r : RegId) (f : Fld) (v : Nat) : (s.bump r f v).spdm = s.spdm := rfl
@[simp] theorem bump_sec (r : RegId) (f : Fld) (v : Nat) : (s.bump r f v).sec = s.sec := rfl
@[simp] theorem bump_ras (r : RegId) (f : Fld) (v : Nat) : (s.bump r f v).ras = s.ras := rfl
@[simp] theorem bump_pwr (r : RegId) (f : Fld) (v : Nat) : (s.bump r f v).pwr = s.pwr := rfl
@[simp] theorem bump_out (r : RegId) (f : Fld) (v : Nat) : (s.bump r f v).out = s.out := rfl
@[simp] theorem bump_pending (r : RegId) (f : Fld) (v : Nat) : (s.bump r f v).pending = s.pending := rfl

/-! ## `State.setTask` -/

@[simp] theorem setTask_tick (id : Nat) (t : Task) : (s.setTask id t).tick = s.tick := rfl
@[simp] theorem setTask_free (id : Nat) (t : Task) : (s.setTask id t).free = s.free := rfl
@[simp] theorem setTask_fixed (id : Nat) (t : Task) : (s.setTask id t).fixed = s.fixed := rfl
@[simp] theorem setTask_flash (id : Nat) (t : Task) : (s.setTask id t).flash = s.flash := rfl
@[simp] theorem setTask_regs (id : Nat) (t : Task) : (s.setTask id t).regs = s.regs := rfl
@[simp] theorem setTask_tier (id : Nat) (t : Task) : (s.setTask id t).tier = s.tier := rfl
@[simp] theorem setTask_dir (id : Nat) (t : Task) : (s.setTask id t).dir = s.dir := rfl
@[simp] theorem setTask_waitq (id : Nat) (t : Task) : (s.setTask id t).waitq = s.waitq := rfl
@[simp] theorem setTask_combine (id : Nat) (t : Task) : (s.setTask id t).combine = s.combine := rfl
@[simp] theorem setTask_ringq (id : Nat) (t : Task) : (s.setTask id t).ringq = s.ringq := rfl
@[simp] theorem setTask_ringBusy (id : Nat) (t : Task) : (s.setTask id t).ringBusy = s.ringBusy := rfl
@[simp] theorem setTask_xlt (id : Nat) (t : Task) : (s.setTask id t).xlt = s.xlt := rfl
@[simp] theorem setTask_queues (id : Nat) (t : Task) : (s.setTask id t).queues = s.queues := rfl
@[simp] theorem setTask_nextTask (id : Nat) (t : Task) : (s.setTask id t).nextTask = s.nextTask := rfl
@[simp] theorem setTask_dmas (id : Nat) (t : Task) : (s.setTask id t).dmas = s.dmas := rfl
@[simp] theorem setTask_nextDma (id : Nat) (t : Task) : (s.setTask id t).nextDma = s.nextDma := rfl
@[simp] theorem setTask_steep (id : Nat) (t : Task) : (s.setTask id t).steep = s.steep := rfl
@[simp] theorem setTask_mixed (id : Nat) (t : Task) : (s.setTask id t).mixed = s.mixed := rfl
@[simp] theorem setTask_pad (id : Nat) (t : Task) : (s.setTask id t).pad = s.pad := rfl
@[simp] theorem setTask_eng (id : Nat) (t : Task) : (s.setTask id t).eng = s.eng := rfl
@[simp] theorem setTask_fab (id : Nat) (t : Task) : (s.setTask id t).fab = s.fab := rfl
@[simp] theorem setTask_qos (id : Nat) (t : Task) : (s.setTask id t).qos = s.qos := rfl
@[simp] theorem setTask_heads (id : Nat) (t : Task) : (s.setTask id t).heads = s.heads := rfl
@[simp] theorem setTask_spdm (id : Nat) (t : Task) : (s.setTask id t).spdm = s.spdm := rfl
@[simp] theorem setTask_sec (id : Nat) (t : Task) : (s.setTask id t).sec = s.sec := rfl
@[simp] theorem setTask_ras (id : Nat) (t : Task) : (s.setTask id t).ras = s.ras := rfl
@[simp] theorem setTask_pwr (id : Nat) (t : Task) : (s.setTask id t).pwr = s.pwr := rfl
@[simp] theorem setTask_out (id : Nat) (t : Task) : (s.setTask id t).out = s.out := rfl
@[simp] theorem setTask_pending (id : Nat) (t : Task) : (s.setTask id t).pending = s.pending := rfl
@[simp] theorem setTask_reg (id : Nat) (t : Task) (g : RegId) : (s.setTask id t).reg g = s.reg g := rfl
@[simp] theorem setTask_fld (id : Nat) (t : Task) (g : RegId) (e : Fld) : (s.setTask id t).fld g e = s.fld g e := rfl

/-! ## `State.setQueue` -/

@[simp] theorem setQueue_tick (q : Nat) (x : QueueState) : (s.setQueue q x).tick = s.tick := rfl
@[simp] theorem setQueue_free (q : Nat) (x : QueueState) : (s.setQueue q x).free = s.free := rfl
@[simp] theorem setQueue_fixed (q : Nat) (x : QueueState) : (s.setQueue q x).fixed = s.fixed := rfl
@[simp] theorem setQueue_flash (q : Nat) (x : QueueState) : (s.setQueue q x).flash = s.flash := rfl
@[simp] theorem setQueue_regs (q : Nat) (x : QueueState) : (s.setQueue q x).regs = s.regs := rfl
@[simp] theorem setQueue_tier (q : Nat) (x : QueueState) : (s.setQueue q x).tier = s.tier := rfl
@[simp] theorem setQueue_dir (q : Nat) (x : QueueState) : (s.setQueue q x).dir = s.dir := rfl
@[simp] theorem setQueue_waitq (q : Nat) (x : QueueState) : (s.setQueue q x).waitq = s.waitq := rfl
@[simp] theorem setQueue_combine (q : Nat) (x : QueueState) : (s.setQueue q x).combine = s.combine := rfl
@[simp] theorem setQueue_ringq (q : Nat) (x : QueueState) : (s.setQueue q x).ringq = s.ringq := rfl
@[simp] theorem setQueue_ringBusy (q : Nat) (x : QueueState) : (s.setQueue q x).ringBusy = s.ringBusy := rfl
@[simp] theorem setQueue_xlt (q : Nat) (x : QueueState) : (s.setQueue q x).xlt = s.xlt := rfl
@[simp] theorem setQueue_tasks (q : Nat) (x : QueueState) : (s.setQueue q x).tasks = s.tasks := rfl
@[simp] theorem setQueue_nextTask (q : Nat) (x : QueueState) : (s.setQueue q x).nextTask = s.nextTask := rfl
@[simp] theorem setQueue_dmas (q : Nat) (x : QueueState) : (s.setQueue q x).dmas = s.dmas := rfl
@[simp] theorem setQueue_nextDma (q : Nat) (x : QueueState) : (s.setQueue q x).nextDma = s.nextDma := rfl
@[simp] theorem setQueue_steep (q : Nat) (x : QueueState) : (s.setQueue q x).steep = s.steep := rfl
@[simp] theorem setQueue_mixed (q : Nat) (x : QueueState) : (s.setQueue q x).mixed = s.mixed := rfl
@[simp] theorem setQueue_pad (q : Nat) (x : QueueState) : (s.setQueue q x).pad = s.pad := rfl
@[simp] theorem setQueue_eng (q : Nat) (x : QueueState) : (s.setQueue q x).eng = s.eng := rfl
@[simp] theorem setQueue_fab (q : Nat) (x : QueueState) : (s.setQueue q x).fab = s.fab := rfl
@[simp] theorem setQueue_qos (q : Nat) (x : QueueState) : (s.setQueue q x).qos = s.qos := rfl
@[simp] theorem setQueue_heads (q : Nat) (x : QueueState) : (s.setQueue q x).heads = s.heads := rfl
@[simp] theorem setQueue_spdm (q : Nat) (x : QueueState) : (s.setQueue q x).spdm = s.spdm := rfl
@[simp] theorem setQueue_sec (q : Nat) (x : QueueState) : (s.setQueue q x).sec = s.sec := rfl
@[simp] theorem setQueue_ras (q : Nat) (x : QueueState) : (s.setQueue q x).ras = s.ras := rfl
@[simp] theorem setQueue_pwr (q : Nat) (x : QueueState) : (s.setQueue q x).pwr = s.pwr := rfl
@[simp] theorem setQueue_out (q : Nat) (x : QueueState) : (s.setQueue q x).out = s.out := rfl
@[simp] theorem setQueue_pending (q : Nat) (x : QueueState) : (s.setQueue q x).pending = s.pending := rfl
@[simp] theorem setQueue_reg (q : Nat) (x : QueueState) (g : RegId) : (s.setQueue q x).reg g = s.reg g := rfl
@[simp] theorem setQueue_fld (q : Nat) (x : QueueState) (g : RegId) (e : Fld) : (s.setQueue q x).fld g e = s.fld g e := rfl

/-! ## `State.setKettle` -/

@[simp] theorem setKettle_tick (n : Nat) (k : Kettle) : (s.setKettle n k).tick = s.tick := rfl
@[simp] theorem setKettle_free (n : Nat) (k : Kettle) : (s.setKettle n k).free = s.free := rfl
@[simp] theorem setKettle_fixed (n : Nat) (k : Kettle) : (s.setKettle n k).fixed = s.fixed := rfl
@[simp] theorem setKettle_flash (n : Nat) (k : Kettle) : (s.setKettle n k).flash = s.flash := rfl
@[simp] theorem setKettle_regs (n : Nat) (k : Kettle) : (s.setKettle n k).regs = s.regs := rfl
@[simp] theorem setKettle_tier (n : Nat) (k : Kettle) : (s.setKettle n k).tier = s.tier := rfl
@[simp] theorem setKettle_dir (n : Nat) (k : Kettle) : (s.setKettle n k).dir = s.dir := rfl
@[simp] theorem setKettle_waitq (n : Nat) (k : Kettle) : (s.setKettle n k).waitq = s.waitq := rfl
@[simp] theorem setKettle_combine (n : Nat) (k : Kettle) : (s.setKettle n k).combine = s.combine := rfl
@[simp] theorem setKettle_ringq (n : Nat) (k : Kettle) : (s.setKettle n k).ringq = s.ringq := rfl
@[simp] theorem setKettle_ringBusy (n : Nat) (k : Kettle) : (s.setKettle n k).ringBusy = s.ringBusy := rfl
@[simp] theorem setKettle_xlt (n : Nat) (k : Kettle) : (s.setKettle n k).xlt = s.xlt := rfl
@[simp] theorem setKettle_queues (n : Nat) (k : Kettle) : (s.setKettle n k).queues = s.queues := rfl
@[simp] theorem setKettle_tasks (n : Nat) (k : Kettle) : (s.setKettle n k).tasks = s.tasks := rfl
@[simp] theorem setKettle_nextTask (n : Nat) (k : Kettle) : (s.setKettle n k).nextTask = s.nextTask := rfl
@[simp] theorem setKettle_dmas (n : Nat) (k : Kettle) : (s.setKettle n k).dmas = s.dmas := rfl
@[simp] theorem setKettle_nextDma (n : Nat) (k : Kettle) : (s.setKettle n k).nextDma = s.nextDma := rfl
@[simp] theorem setKettle_steep (n : Nat) (k : Kettle) : (s.setKettle n k).steep = s.steep := rfl
@[simp] theorem setKettle_mixed (n : Nat) (k : Kettle) : (s.setKettle n k).mixed = s.mixed := rfl
@[simp] theorem setKettle_pad (n : Nat) (k : Kettle) : (s.setKettle n k).pad = s.pad := rfl
@[simp] theorem setKettle_fab (n : Nat) (k : Kettle) : (s.setKettle n k).fab = s.fab := rfl
@[simp] theorem setKettle_qos (n : Nat) (k : Kettle) : (s.setKettle n k).qos = s.qos := rfl
@[simp] theorem setKettle_heads (n : Nat) (k : Kettle) : (s.setKettle n k).heads = s.heads := rfl
@[simp] theorem setKettle_spdm (n : Nat) (k : Kettle) : (s.setKettle n k).spdm = s.spdm := rfl
@[simp] theorem setKettle_sec (n : Nat) (k : Kettle) : (s.setKettle n k).sec = s.sec := rfl
@[simp] theorem setKettle_ras (n : Nat) (k : Kettle) : (s.setKettle n k).ras = s.ras := rfl
@[simp] theorem setKettle_pwr (n : Nat) (k : Kettle) : (s.setKettle n k).pwr = s.pwr := rfl
@[simp] theorem setKettle_out (n : Nat) (k : Kettle) : (s.setKettle n k).out = s.out := rfl
@[simp] theorem setKettle_pending (n : Nat) (k : Kettle) : (s.setKettle n k).pending = s.pending := rfl
@[simp] theorem setKettle_reg (n : Nat) (k : Kettle) (g : RegId) : (s.setKettle n k).reg g = s.reg g := rfl
@[simp] theorem setKettle_fld (n : Nat) (k : Kettle) (g : RegId) (e : Fld) : (s.setKettle n k).fld g e = s.fld g e := rfl

/-! ## `State.setPort` -/

@[simp] theorem setPort_tick (n : Nat) (p : Port) : (s.setPort n p).tick = s.tick := rfl
@[simp] theorem setPort_free (n : Nat) (p : Port) : (s.setPort n p).free = s.free := rfl
@[simp] theorem setPort_fixed (n : Nat) (p : Port) : (s.setPort n p).fixed = s.fixed := rfl
@[simp] theorem setPort_flash (n : Nat) (p : Port) : (s.setPort n p).flash = s.flash := rfl
@[simp] theorem setPort_regs (n : Nat) (p : Port) : (s.setPort n p).regs = s.regs := rfl
@[simp] theorem setPort_tier (n : Nat) (p : Port) : (s.setPort n p).tier = s.tier := rfl
@[simp] theorem setPort_dir (n : Nat) (p : Port) : (s.setPort n p).dir = s.dir := rfl
@[simp] theorem setPort_waitq (n : Nat) (p : Port) : (s.setPort n p).waitq = s.waitq := rfl
@[simp] theorem setPort_combine (n : Nat) (p : Port) : (s.setPort n p).combine = s.combine := rfl
@[simp] theorem setPort_ringq (n : Nat) (p : Port) : (s.setPort n p).ringq = s.ringq := rfl
@[simp] theorem setPort_ringBusy (n : Nat) (p : Port) : (s.setPort n p).ringBusy = s.ringBusy := rfl
@[simp] theorem setPort_xlt (n : Nat) (p : Port) : (s.setPort n p).xlt = s.xlt := rfl
@[simp] theorem setPort_queues (n : Nat) (p : Port) : (s.setPort n p).queues = s.queues := rfl
@[simp] theorem setPort_tasks (n : Nat) (p : Port) : (s.setPort n p).tasks = s.tasks := rfl
@[simp] theorem setPort_nextTask (n : Nat) (p : Port) : (s.setPort n p).nextTask = s.nextTask := rfl
@[simp] theorem setPort_dmas (n : Nat) (p : Port) : (s.setPort n p).dmas = s.dmas := rfl
@[simp] theorem setPort_nextDma (n : Nat) (p : Port) : (s.setPort n p).nextDma = s.nextDma := rfl
@[simp] theorem setPort_steep (n : Nat) (p : Port) : (s.setPort n p).steep = s.steep := rfl
@[simp] theorem setPort_mixed (n : Nat) (p : Port) : (s.setPort n p).mixed = s.mixed := rfl
@[simp] theorem setPort_pad (n : Nat) (p : Port) : (s.setPort n p).pad = s.pad := rfl
@[simp] theorem setPort_eng (n : Nat) (p : Port) : (s.setPort n p).eng = s.eng := rfl
@[simp] theorem setPort_qos (n : Nat) (p : Port) : (s.setPort n p).qos = s.qos := rfl
@[simp] theorem setPort_heads (n : Nat) (p : Port) : (s.setPort n p).heads = s.heads := rfl
@[simp] theorem setPort_spdm (n : Nat) (p : Port) : (s.setPort n p).spdm = s.spdm := rfl
@[simp] theorem setPort_sec (n : Nat) (p : Port) : (s.setPort n p).sec = s.sec := rfl
@[simp] theorem setPort_ras (n : Nat) (p : Port) : (s.setPort n p).ras = s.ras := rfl
@[simp] theorem setPort_pwr (n : Nat) (p : Port) : (s.setPort n p).pwr = s.pwr := rfl
@[simp] theorem setPort_out (n : Nat) (p : Port) : (s.setPort n p).out = s.out := rfl
@[simp] theorem setPort_pending (n : Nat) (p : Port) : (s.setPort n p).pending = s.pending := rfl
@[simp] theorem setPort_reg (n : Nat) (p : Port) (g : RegId) : (s.setPort n p).reg g = s.reg g := rfl
@[simp] theorem setPort_fld (n : Nat) (p : Port) (g : RegId) (e : Fld) : (s.setPort n p).fld g e = s.fld g e := rfl

/-! ## `State.setHead` -/

@[simp] theorem setHead_tick (h : Nat) (x : Head) : (s.setHead h x).tick = s.tick := rfl
@[simp] theorem setHead_free (h : Nat) (x : Head) : (s.setHead h x).free = s.free := rfl
@[simp] theorem setHead_fixed (h : Nat) (x : Head) : (s.setHead h x).fixed = s.fixed := rfl
@[simp] theorem setHead_flash (h : Nat) (x : Head) : (s.setHead h x).flash = s.flash := rfl
@[simp] theorem setHead_regs (h : Nat) (x : Head) : (s.setHead h x).regs = s.regs := rfl
@[simp] theorem setHead_tier (h : Nat) (x : Head) : (s.setHead h x).tier = s.tier := rfl
@[simp] theorem setHead_dir (h : Nat) (x : Head) : (s.setHead h x).dir = s.dir := rfl
@[simp] theorem setHead_waitq (h : Nat) (x : Head) : (s.setHead h x).waitq = s.waitq := rfl
@[simp] theorem setHead_combine (h : Nat) (x : Head) : (s.setHead h x).combine = s.combine := rfl
@[simp] theorem setHead_ringq (h : Nat) (x : Head) : (s.setHead h x).ringq = s.ringq := rfl
@[simp] theorem setHead_ringBusy (h : Nat) (x : Head) : (s.setHead h x).ringBusy = s.ringBusy := rfl
@[simp] theorem setHead_xlt (h : Nat) (x : Head) : (s.setHead h x).xlt = s.xlt := rfl
@[simp] theorem setHead_queues (h : Nat) (x : Head) : (s.setHead h x).queues = s.queues := rfl
@[simp] theorem setHead_tasks (h : Nat) (x : Head) : (s.setHead h x).tasks = s.tasks := rfl
@[simp] theorem setHead_nextTask (h : Nat) (x : Head) : (s.setHead h x).nextTask = s.nextTask := rfl
@[simp] theorem setHead_dmas (h : Nat) (x : Head) : (s.setHead h x).dmas = s.dmas := rfl
@[simp] theorem setHead_nextDma (h : Nat) (x : Head) : (s.setHead h x).nextDma = s.nextDma := rfl
@[simp] theorem setHead_steep (h : Nat) (x : Head) : (s.setHead h x).steep = s.steep := rfl
@[simp] theorem setHead_mixed (h : Nat) (x : Head) : (s.setHead h x).mixed = s.mixed := rfl
@[simp] theorem setHead_pad (h : Nat) (x : Head) : (s.setHead h x).pad = s.pad := rfl
@[simp] theorem setHead_eng (h : Nat) (x : Head) : (s.setHead h x).eng = s.eng := rfl
@[simp] theorem setHead_fab (h : Nat) (x : Head) : (s.setHead h x).fab = s.fab := rfl
@[simp] theorem setHead_qos (h : Nat) (x : Head) : (s.setHead h x).qos = s.qos := rfl
@[simp] theorem setHead_spdm (h : Nat) (x : Head) : (s.setHead h x).spdm = s.spdm := rfl
@[simp] theorem setHead_sec (h : Nat) (x : Head) : (s.setHead h x).sec = s.sec := rfl
@[simp] theorem setHead_ras (h : Nat) (x : Head) : (s.setHead h x).ras = s.ras := rfl
@[simp] theorem setHead_pwr (h : Nat) (x : Head) : (s.setHead h x).pwr = s.pwr := rfl
@[simp] theorem setHead_out (h : Nat) (x : Head) : (s.setHead h x).out = s.out := rfl
@[simp] theorem setHead_pending (h : Nat) (x : Head) : (s.setHead h x).pending = s.pending := rfl
@[simp] theorem setHead_reg (h : Nat) (x : Head) (g : RegId) : (s.setHead h x).reg g = s.reg g := rfl
@[simp] theorem setHead_fld (h : Nat) (x : Head) (g : RegId) (e : Fld) : (s.setHead h x).fld g e = s.fld g e := rfl

/-! ## `State.setMeter` -/

@[simp] theorem setMeter_tick (k : Nat) (m : Meter) : (s.setMeter k m).tick = s.tick := rfl
@[simp] theorem setMeter_free (k : Nat) (m : Meter) : (s.setMeter k m).free = s.free := rfl
@[simp] theorem setMeter_fixed (k : Nat) (m : Meter) : (s.setMeter k m).fixed = s.fixed := rfl
@[simp] theorem setMeter_flash (k : Nat) (m : Meter) : (s.setMeter k m).flash = s.flash := rfl
@[simp] theorem setMeter_regs (k : Nat) (m : Meter) : (s.setMeter k m).regs = s.regs := rfl
@[simp] theorem setMeter_tier (k : Nat) (m : Meter) : (s.setMeter k m).tier = s.tier := rfl
@[simp] theorem setMeter_dir (k : Nat) (m : Meter) : (s.setMeter k m).dir = s.dir := rfl
@[simp] theorem setMeter_waitq (k : Nat) (m : Meter) : (s.setMeter k m).waitq = s.waitq := rfl
@[simp] theorem setMeter_combine (k : Nat) (m : Meter) : (s.setMeter k m).combine = s.combine := rfl
@[simp] theorem setMeter_ringq (k : Nat) (m : Meter) : (s.setMeter k m).ringq = s.ringq := rfl
@[simp] theorem setMeter_ringBusy (k : Nat) (m : Meter) : (s.setMeter k m).ringBusy = s.ringBusy := rfl
@[simp] theorem setMeter_xlt (k : Nat) (m : Meter) : (s.setMeter k m).xlt = s.xlt := rfl
@[simp] theorem setMeter_queues (k : Nat) (m : Meter) : (s.setMeter k m).queues = s.queues := rfl
@[simp] theorem setMeter_tasks (k : Nat) (m : Meter) : (s.setMeter k m).tasks = s.tasks := rfl
@[simp] theorem setMeter_nextTask (k : Nat) (m : Meter) : (s.setMeter k m).nextTask = s.nextTask := rfl
@[simp] theorem setMeter_dmas (k : Nat) (m : Meter) : (s.setMeter k m).dmas = s.dmas := rfl
@[simp] theorem setMeter_nextDma (k : Nat) (m : Meter) : (s.setMeter k m).nextDma = s.nextDma := rfl
@[simp] theorem setMeter_steep (k : Nat) (m : Meter) : (s.setMeter k m).steep = s.steep := rfl
@[simp] theorem setMeter_mixed (k : Nat) (m : Meter) : (s.setMeter k m).mixed = s.mixed := rfl
@[simp] theorem setMeter_pad (k : Nat) (m : Meter) : (s.setMeter k m).pad = s.pad := rfl
@[simp] theorem setMeter_eng (k : Nat) (m : Meter) : (s.setMeter k m).eng = s.eng := rfl
@[simp] theorem setMeter_fab (k : Nat) (m : Meter) : (s.setMeter k m).fab = s.fab := rfl
@[simp] theorem setMeter_heads (k : Nat) (m : Meter) : (s.setMeter k m).heads = s.heads := rfl
@[simp] theorem setMeter_spdm (k : Nat) (m : Meter) : (s.setMeter k m).spdm = s.spdm := rfl
@[simp] theorem setMeter_sec (k : Nat) (m : Meter) : (s.setMeter k m).sec = s.sec := rfl
@[simp] theorem setMeter_ras (k : Nat) (m : Meter) : (s.setMeter k m).ras = s.ras := rfl
@[simp] theorem setMeter_pwr (k : Nat) (m : Meter) : (s.setMeter k m).pwr = s.pwr := rfl
@[simp] theorem setMeter_out (k : Nat) (m : Meter) : (s.setMeter k m).out = s.out := rfl
@[simp] theorem setMeter_pending (k : Nat) (m : Meter) : (s.setMeter k m).pending = s.pending := rfl
@[simp] theorem setMeter_reg (k : Nat) (m : Meter) (g : RegId) : (s.setMeter k m).reg g = s.reg g := rfl
@[simp] theorem setMeter_fld (k : Nat) (m : Meter) (g : RegId) (e : Fld) : (s.setMeter k m).fld g e = s.fld g e := rfl

/-! ## `State.setHealth` -/

@[simp] theorem setHealth_tick (p : PartId) (h : Health) : (s.setHealth p h).tick = s.tick := rfl
@[simp] theorem setHealth_free (p : PartId) (h : Health) : (s.setHealth p h).free = s.free := rfl
@[simp] theorem setHealth_fixed (p : PartId) (h : Health) : (s.setHealth p h).fixed = s.fixed := rfl
@[simp] theorem setHealth_flash (p : PartId) (h : Health) : (s.setHealth p h).flash = s.flash := rfl
@[simp] theorem setHealth_regs (p : PartId) (h : Health) : (s.setHealth p h).regs = s.regs := rfl
@[simp] theorem setHealth_tier (p : PartId) (h : Health) : (s.setHealth p h).tier = s.tier := rfl
@[simp] theorem setHealth_dir (p : PartId) (h : Health) : (s.setHealth p h).dir = s.dir := rfl
@[simp] theorem setHealth_waitq (p : PartId) (h : Health) : (s.setHealth p h).waitq = s.waitq := rfl
@[simp] theorem setHealth_combine (p : PartId) (h : Health) : (s.setHealth p h).combine = s.combine := rfl
@[simp] theorem setHealth_ringq (p : PartId) (h : Health) : (s.setHealth p h).ringq = s.ringq := rfl
@[simp] theorem setHealth_ringBusy (p : PartId) (h : Health) : (s.setHealth p h).ringBusy = s.ringBusy := rfl
@[simp] theorem setHealth_xlt (p : PartId) (h : Health) : (s.setHealth p h).xlt = s.xlt := rfl
@[simp] theorem setHealth_queues (p : PartId) (h : Health) : (s.setHealth p h).queues = s.queues := rfl
@[simp] theorem setHealth_tasks (p : PartId) (h : Health) : (s.setHealth p h).tasks = s.tasks := rfl
@[simp] theorem setHealth_nextTask (p : PartId) (h : Health) : (s.setHealth p h).nextTask = s.nextTask := rfl
@[simp] theorem setHealth_dmas (p : PartId) (h : Health) : (s.setHealth p h).dmas = s.dmas := rfl
@[simp] theorem setHealth_nextDma (p : PartId) (h : Health) : (s.setHealth p h).nextDma = s.nextDma := rfl
@[simp] theorem setHealth_steep (p : PartId) (h : Health) : (s.setHealth p h).steep = s.steep := rfl
@[simp] theorem setHealth_mixed (p : PartId) (h : Health) : (s.setHealth p h).mixed = s.mixed := rfl
@[simp] theorem setHealth_pad (p : PartId) (h : Health) : (s.setHealth p h).pad = s.pad := rfl
@[simp] theorem setHealth_eng (p : PartId) (h : Health) : (s.setHealth p h).eng = s.eng := rfl
@[simp] theorem setHealth_fab (p : PartId) (h : Health) : (s.setHealth p h).fab = s.fab := rfl
@[simp] theorem setHealth_qos (p : PartId) (h : Health) : (s.setHealth p h).qos = s.qos := rfl
@[simp] theorem setHealth_heads (p : PartId) (h : Health) : (s.setHealth p h).heads = s.heads := rfl
@[simp] theorem setHealth_spdm (p : PartId) (h : Health) : (s.setHealth p h).spdm = s.spdm := rfl
@[simp] theorem setHealth_sec (p : PartId) (h : Health) : (s.setHealth p h).sec = s.sec := rfl
@[simp] theorem setHealth_pwr (p : PartId) (h : Health) : (s.setHealth p h).pwr = s.pwr := rfl
@[simp] theorem setHealth_out (p : PartId) (h : Health) : (s.setHealth p h).out = s.out := rfl
@[simp] theorem setHealth_pending (p : PartId) (h : Health) : (s.setHealth p h).pending = s.pending := rfl
@[simp] theorem setHealth_reg (p : PartId) (h : Health) (g : RegId) : (s.setHealth p h).reg g = s.reg g := rfl
@[simp] theorem setHealth_fld (p : PartId) (h : Health) (g : RegId) (e : Fld) : (s.setHealth p h).fld g e = s.fld g e := rfl

/-! ## `State.setExtent` -/

@[simp] theorem setExtent_tick (n : Nat) (x : Extent) : (s.setExtent n x).tick = s.tick := rfl
@[simp] theorem setExtent_free (n : Nat) (x : Extent) : (s.setExtent n x).free = s.free := rfl
@[simp] theorem setExtent_fixed (n : Nat) (x : Extent) : (s.setExtent n x).fixed = s.fixed := rfl
@[simp] theorem setExtent_flash (n : Nat) (x : Extent) : (s.setExtent n x).flash = s.flash := rfl
@[simp] theorem setExtent_regs (n : Nat) (x : Extent) : (s.setExtent n x).regs = s.regs := rfl
@[simp] theorem setExtent_dir (n : Nat) (x : Extent) : (s.setExtent n x).dir = s.dir := rfl
@[simp] theorem setExtent_waitq (n : Nat) (x : Extent) : (s.setExtent n x).waitq = s.waitq := rfl
@[simp] theorem setExtent_combine (n : Nat) (x : Extent) : (s.setExtent n x).combine = s.combine := rfl
@[simp] theorem setExtent_ringq (n : Nat) (x : Extent) : (s.setExtent n x).ringq = s.ringq := rfl
@[simp] theorem setExtent_ringBusy (n : Nat) (x : Extent) : (s.setExtent n x).ringBusy = s.ringBusy := rfl
@[simp] theorem setExtent_xlt (n : Nat) (x : Extent) : (s.setExtent n x).xlt = s.xlt := rfl
@[simp] theorem setExtent_queues (n : Nat) (x : Extent) : (s.setExtent n x).queues = s.queues := rfl
@[simp] theorem setExtent_tasks (n : Nat) (x : Extent) : (s.setExtent n x).tasks = s.tasks := rfl
@[simp] theorem setExtent_nextTask (n : Nat) (x : Extent) : (s.setExtent n x).nextTask = s.nextTask := rfl
@[simp] theorem setExtent_dmas (n : Nat) (x : Extent) : (s.setExtent n x).dmas = s.dmas := rfl
@[simp] theorem setExtent_nextDma (n : Nat) (x : Extent) : (s.setExtent n x).nextDma = s.nextDma := rfl
@[simp] theorem setExtent_steep (n : Nat) (x : Extent) : (s.setExtent n x).steep = s.steep := rfl
@[simp] theorem setExtent_mixed (n : Nat) (x : Extent) : (s.setExtent n x).mixed = s.mixed := rfl
@[simp] theorem setExtent_pad (n : Nat) (x : Extent) : (s.setExtent n x).pad = s.pad := rfl
@[simp] theorem setExtent_eng (n : Nat) (x : Extent) : (s.setExtent n x).eng = s.eng := rfl
@[simp] theorem setExtent_fab (n : Nat) (x : Extent) : (s.setExtent n x).fab = s.fab := rfl
@[simp] theorem setExtent_qos (n : Nat) (x : Extent) : (s.setExtent n x).qos = s.qos := rfl
@[simp] theorem setExtent_heads (n : Nat) (x : Extent) : (s.setExtent n x).heads = s.heads := rfl
@[simp] theorem setExtent_spdm (n : Nat) (x : Extent) : (s.setExtent n x).spdm = s.spdm := rfl
@[simp] theorem setExtent_sec (n : Nat) (x : Extent) : (s.setExtent n x).sec = s.sec := rfl
@[simp] theorem setExtent_ras (n : Nat) (x : Extent) : (s.setExtent n x).ras = s.ras := rfl
@[simp] theorem setExtent_pwr (n : Nat) (x : Extent) : (s.setExtent n x).pwr = s.pwr := rfl
@[simp] theorem setExtent_out (n : Nat) (x : Extent) : (s.setExtent n x).out = s.out := rfl
@[simp] theorem setExtent_pending (n : Nat) (x : Extent) : (s.setExtent n x).pending = s.pending := rfl
@[simp] theorem setExtent_reg (n : Nat) (x : Extent) (g : RegId) : (s.setExtent n x).reg g = s.reg g := rfl
@[simp] theorem setExtent_fld (n : Nat) (x : Extent) (g : RegId) (e : Fld) : (s.setExtent n x).fld g e = s.fld g e := rfl

/-! ## `State.reply` -/

@[simp] theorem reply_tick (t : Transport) (op code : Nat) (d : List Byte) : (s.reply t op code d).tick = s.tick := rfl
@[simp] theorem reply_free (t : Transport) (op code : Nat) (d : List Byte) : (s.reply t op code d).free = s.free := rfl
@[simp] theorem reply_fixed (t : Transport) (op code : Nat) (d : List Byte) : (s.reply t op code d).fixed = s.fixed := rfl
@[simp] theorem reply_flash (t : Transport) (op code : Nat) (d : List Byte) : (s.reply t op code d).flash = s.flash := rfl
@[simp] theorem reply_regs (t : Transport) (op code : Nat) (d : List Byte) : (s.reply t op code d).regs = s.regs := rfl
@[simp] theorem reply_tier (t : Transport) (op code : Nat) (d : List Byte) : (s.reply t op code d).tier = s.tier := rfl
@[simp] theorem reply_dir (t : Transport) (op code : Nat) (d : List Byte) : (s.reply t op code d).dir = s.dir := rfl
@[simp] theorem reply_waitq (t : Transport) (op code : Nat) (d : List Byte) : (s.reply t op code d).waitq = s.waitq := rfl
@[simp] theorem reply_combine (t : Transport) (op code : Nat) (d : List Byte) : (s.reply t op code d).combine = s.combine := rfl
@[simp] theorem reply_ringq (t : Transport) (op code : Nat) (d : List Byte) : (s.reply t op code d).ringq = s.ringq := rfl
@[simp] theorem reply_ringBusy (t : Transport) (op code : Nat) (d : List Byte) : (s.reply t op code d).ringBusy = s.ringBusy := rfl
@[simp] theorem reply_xlt (t : Transport) (op code : Nat) (d : List Byte) : (s.reply t op code d).xlt = s.xlt := rfl
@[simp] theorem reply_queues (t : Transport) (op code : Nat) (d : List Byte) : (s.reply t op code d).queues = s.queues := rfl
@[simp] theorem reply_tasks (t : Transport) (op code : Nat) (d : List Byte) : (s.reply t op code d).tasks = s.tasks := rfl
@[simp] theorem reply_nextTask (t : Transport) (op code : Nat) (d : List Byte) : (s.reply t op code d).nextTask = s.nextTask := rfl
@[simp] theorem reply_dmas (t : Transport) (op code : Nat) (d : List Byte) : (s.reply t op code d).dmas = s.dmas := rfl
@[simp] theorem reply_nextDma (t : Transport) (op code : Nat) (d : List Byte) : (s.reply t op code d).nextDma = s.nextDma := rfl
@[simp] theorem reply_steep (t : Transport) (op code : Nat) (d : List Byte) : (s.reply t op code d).steep = s.steep := rfl
@[simp] theorem reply_mixed (t : Transport) (op code : Nat) (d : List Byte) : (s.reply t op code d).mixed = s.mixed := rfl
@[simp] theorem reply_pad (t : Transport) (op code : Nat) (d : List Byte) : (s.reply t op code d).pad = s.pad := rfl
@[simp] theorem reply_eng (t : Transport) (op code : Nat) (d : List Byte) : (s.reply t op code d).eng = s.eng := rfl
@[simp] theorem reply_fab (t : Transport) (op code : Nat) (d : List Byte) : (s.reply t op code d).fab = s.fab := rfl
@[simp] theorem reply_qos (t : Transport) (op code : Nat) (d : List Byte) : (s.reply t op code d).qos = s.qos := rfl
@[simp] theorem reply_heads (t : Transport) (op code : Nat) (d : List Byte) : (s.reply t op code d).heads = s.heads := rfl
@[simp] theorem reply_spdm (t : Transport) (op code : Nat) (d : List Byte) : (s.reply t op code d).spdm = s.spdm := rfl
@[simp] theorem reply_sec (t : Transport) (op code : Nat) (d : List Byte) : (s.reply t op code d).sec = s.sec := rfl
@[simp] theorem reply_ras (t : Transport) (op code : Nat) (d : List Byte) : (s.reply t op code d).ras = s.ras := rfl
@[simp] theorem reply_pwr (t : Transport) (op code : Nat) (d : List Byte) : (s.reply t op code d).pwr = s.pwr := rfl
@[simp] theorem reply_pending (t : Transport) (op code : Nat) (d : List Byte) : (s.reply t op code d).pending = s.pending := rfl
@[simp] theorem reply_reg (t : Transport) (op code : Nat) (d : List Byte) (g : RegId) : (s.reply t op code d).reg g = s.reg g := rfl
@[simp] theorem reply_fld (t : Transport) (op code : Nat) (d : List Byte) (g : RegId) (e : Fld) : (s.reply t op code d).fld g e = s.fld g e := rfl

/-! ## `State.toHost` -/

@[simp] theorem toHost_tick (head host line : Nat) (m : S2M) : (s.toHost head host line m).tick = s.tick := rfl
@[simp] theorem toHost_free (head host line : Nat) (m : S2M) : (s.toHost head host line m).free = s.free := rfl
@[simp] theorem toHost_fixed (head host line : Nat) (m : S2M) : (s.toHost head host line m).fixed = s.fixed := rfl
@[simp] theorem toHost_flash (head host line : Nat) (m : S2M) : (s.toHost head host line m).flash = s.flash := rfl
@[simp] theorem toHost_regs (head host line : Nat) (m : S2M) : (s.toHost head host line m).regs = s.regs := rfl
@[simp] theorem toHost_tier (head host line : Nat) (m : S2M) : (s.toHost head host line m).tier = s.tier := rfl
@[simp] theorem toHost_dir (head host line : Nat) (m : S2M) : (s.toHost head host line m).dir = s.dir := rfl
@[simp] theorem toHost_waitq (head host line : Nat) (m : S2M) : (s.toHost head host line m).waitq = s.waitq := rfl
@[simp] theorem toHost_combine (head host line : Nat) (m : S2M) : (s.toHost head host line m).combine = s.combine := rfl
@[simp] theorem toHost_ringq (head host line : Nat) (m : S2M) : (s.toHost head host line m).ringq = s.ringq := rfl
@[simp] theorem toHost_ringBusy (head host line : Nat) (m : S2M) : (s.toHost head host line m).ringBusy = s.ringBusy := rfl
@[simp] theorem toHost_xlt (head host line : Nat) (m : S2M) : (s.toHost head host line m).xlt = s.xlt := rfl
@[simp] theorem toHost_queues (head host line : Nat) (m : S2M) : (s.toHost head host line m).queues = s.queues := rfl
@[simp] theorem toHost_tasks (head host line : Nat) (m : S2M) : (s.toHost head host line m).tasks = s.tasks := rfl
@[simp] theorem toHost_nextTask (head host line : Nat) (m : S2M) : (s.toHost head host line m).nextTask = s.nextTask := rfl
@[simp] theorem toHost_dmas (head host line : Nat) (m : S2M) : (s.toHost head host line m).dmas = s.dmas := rfl
@[simp] theorem toHost_nextDma (head host line : Nat) (m : S2M) : (s.toHost head host line m).nextDma = s.nextDma := rfl
@[simp] theorem toHost_steep (head host line : Nat) (m : S2M) : (s.toHost head host line m).steep = s.steep := rfl
@[simp] theorem toHost_mixed (head host line : Nat) (m : S2M) : (s.toHost head host line m).mixed = s.mixed := rfl
@[simp] theorem toHost_pad (head host line : Nat) (m : S2M) : (s.toHost head host line m).pad = s.pad := rfl
@[simp] theorem toHost_eng (head host line : Nat) (m : S2M) : (s.toHost head host line m).eng = s.eng := rfl
@[simp] theorem toHost_fab (head host line : Nat) (m : S2M) : (s.toHost head host line m).fab = s.fab := rfl
@[simp] theorem toHost_qos (head host line : Nat) (m : S2M) : (s.toHost head host line m).qos = s.qos := rfl
@[simp] theorem toHost_heads (head host line : Nat) (m : S2M) : (s.toHost head host line m).heads = s.heads := rfl
@[simp] theorem toHost_spdm (head host line : Nat) (m : S2M) : (s.toHost head host line m).spdm = s.spdm := rfl
@[simp] theorem toHost_sec (head host line : Nat) (m : S2M) : (s.toHost head host line m).sec = s.sec := rfl
@[simp] theorem toHost_ras (head host line : Nat) (m : S2M) : (s.toHost head host line m).ras = s.ras := rfl
@[simp] theorem toHost_pwr (head host line : Nat) (m : S2M) : (s.toHost head host line m).pwr = s.pwr := rfl
@[simp] theorem toHost_pending (head host line : Nat) (m : S2M) : (s.toHost head host line m).pending = s.pending := rfl
@[simp] theorem toHost_reg (head host line : Nat) (m : S2M) (g : RegId) : (s.toHost head host line m).reg g = s.reg g := rfl
@[simp] theorem toHost_fld (head host line : Nat) (m : S2M) (g : RegId) (e : Fld) : (s.toHost head host line m).fld g e = s.fld g e := rfl

/-! ## `State.withFront` -/

@[simp] theorem withFront_tick (c : Instr) : (s.withFront c).tick = s.tick := rfl
@[simp] theorem withFront_free (c : Instr) : (s.withFront c).free = s.free := rfl
@[simp] theorem withFront_fixed (c : Instr) : (s.withFront c).fixed = s.fixed := rfl
@[simp] theorem withFront_flash (c : Instr) : (s.withFront c).flash = s.flash := rfl
@[simp] theorem withFront_regs (c : Instr) : (s.withFront c).regs = s.regs := rfl
@[simp] theorem withFront_tier (c : Instr) : (s.withFront c).tier = s.tier := rfl
@[simp] theorem withFront_dir (c : Instr) : (s.withFront c).dir = s.dir := rfl
@[simp] theorem withFront_waitq (c : Instr) : (s.withFront c).waitq = s.waitq := rfl
@[simp] theorem withFront_combine (c : Instr) : (s.withFront c).combine = s.combine := rfl
@[simp] theorem withFront_ringq (c : Instr) : (s.withFront c).ringq = s.ringq := rfl
@[simp] theorem withFront_ringBusy (c : Instr) : (s.withFront c).ringBusy = s.ringBusy := rfl
@[simp] theorem withFront_xlt (c : Instr) : (s.withFront c).xlt = s.xlt := rfl
@[simp] theorem withFront_queues (c : Instr) : (s.withFront c).queues = s.queues := rfl
@[simp] theorem withFront_tasks (c : Instr) : (s.withFront c).tasks = s.tasks := rfl
@[simp] theorem withFront_nextTask (c : Instr) : (s.withFront c).nextTask = s.nextTask := rfl
@[simp] theorem withFront_dmas (c : Instr) : (s.withFront c).dmas = s.dmas := rfl
@[simp] theorem withFront_nextDma (c : Instr) : (s.withFront c).nextDma = s.nextDma := rfl
@[simp] theorem withFront_steep (c : Instr) : (s.withFront c).steep = s.steep := rfl
@[simp] theorem withFront_mixed (c : Instr) : (s.withFront c).mixed = s.mixed := rfl
@[simp] theorem withFront_pad (c : Instr) : (s.withFront c).pad = s.pad := rfl
@[simp] theorem withFront_eng (c : Instr) : (s.withFront c).eng = s.eng := rfl
@[simp] theorem withFront_fab (c : Instr) : (s.withFront c).fab = s.fab := rfl
@[simp] theorem withFront_qos (c : Instr) : (s.withFront c).qos = s.qos := rfl
@[simp] theorem withFront_heads (c : Instr) : (s.withFront c).heads = s.heads := rfl
@[simp] theorem withFront_spdm (c : Instr) : (s.withFront c).spdm = s.spdm := rfl
@[simp] theorem withFront_sec (c : Instr) : (s.withFront c).sec = s.sec := rfl
@[simp] theorem withFront_ras (c : Instr) : (s.withFront c).ras = s.ras := rfl
@[simp] theorem withFront_pwr (c : Instr) : (s.withFront c).pwr = s.pwr := rfl
@[simp] theorem withFront_out (c : Instr) : (s.withFront c).out = s.out := rfl
@[simp] theorem withFront_reg (c : Instr) (g : RegId) : (s.withFront c).reg g = s.reg g := rfl
@[simp] theorem withFront_fld (c : Instr) (g : RegId) (e : Fld) : (s.withFront c).fld g e = s.fld g e := rfl

/-! ## `settle` -/

variable (t : State)

@[simp] theorem settle_tick : (settle s t).tick = s.tick := rfl
@[simp] theorem settle_free : (settle s t).free = t.free := rfl
@[simp] theorem settle_fixed : (settle s t).fixed = s.fixed := rfl
@[simp] theorem settle_regs : (settle s t).regs = t.regs := rfl
@[simp] theorem settle_tier : (settle s t).tier = t.tier := rfl
@[simp] theorem settle_dir : (settle s t).dir = t.dir := rfl
@[simp] theorem settle_waitq : (settle s t).waitq = t.waitq := rfl
@[simp] theorem settle_combine : (settle s t).combine = t.combine := rfl
@[simp] theorem settle_ringq : (settle s t).ringq = t.ringq := rfl
@[simp] theorem settle_ringBusy : (settle s t).ringBusy = t.ringBusy := rfl
@[simp] theorem settle_xlt : (settle s t).xlt = t.xlt := rfl
@[simp] theorem settle_queues : (settle s t).queues = t.queues := rfl
@[simp] theorem settle_tasks : (settle s t).tasks = t.tasks := rfl
@[simp] theorem settle_nextTask : (settle s t).nextTask = t.nextTask := rfl
@[simp] theorem settle_dmas : (settle s t).dmas = t.dmas := rfl
@[simp] theorem settle_nextDma : (settle s t).nextDma = t.nextDma := rfl
@[simp] theorem settle_steep : (settle s t).steep = t.steep := rfl
@[simp] theorem settle_mixed : (settle s t).mixed = t.mixed := rfl
@[simp] theorem settle_pad : (settle s t).pad = t.pad := rfl
@[simp] theorem settle_eng : (settle s t).eng = t.eng := rfl
@[simp] theorem settle_fab : (settle s t).fab = t.fab := rfl
@[simp] theorem settle_qos : (settle s t).qos = t.qos := rfl
@[simp] theorem settle_heads : (settle s t).heads = t.heads := rfl
@[simp] theorem settle_spdm : (settle s t).spdm = t.spdm := rfl
@[simp] theorem settle_sec : (settle s t).sec = t.sec := rfl
@[simp] theorem settle_pwr : (settle s t).pwr = t.pwr := rfl
@[simp] theorem settle_out : (settle s t).out = t.out := rfl
@[simp] theorem settle_pending : (settle s t).pending = s.pending := rfl
@[simp] theorem settle_reg (g : RegId) : (settle s t).reg g = t.reg g := rfl
@[simp] theorem settle_fld (g : RegId) (e : Fld) : (settle s t).fld g e = t.fld g e := rfl
@[simp] theorem settle_toFlash : (settle s t).ras.toFlash = [] := rfl
@[simp] theorem settle_records :
    (settle s t).flash.records = programAll s.flash.records t.ras.toFlash := rfl

/-- `done` answers a next state, the settled one. -/
theorem done_eq : done s t = .next (settle s t) := rfl

end Sys2Proof.Machine
end

