-- ==== Sys2Proof/Laws/Step.lean ====
section
/-! SUPPORT. What one command and one step can do: every command ends in `settle`, which puts the queue, the clock and the
fixed parts back and programs records at free positions only. -/

namespace Sys2Proof.Machine

/-- Settling changes nothing where the clock, the queue, the fixed parts and the flash stand and no record waits. -/
theorem settle_id {s u : State} (hp : u.pending = s.pending) (ht : u.tick = s.tick) (hx : u.fixed = s.fixed)
    (hf : u.flash = s.flash) (hq : u.Quiet) : settle s u = u := by
  have hr : { u.ras with toFlash := [] } = u.ras := by
    conv_rhs => rw [← show { u.ras with toFlash := u.ras.toFlash } = u.ras from rfl, show u.ras.toFlash = [] from hq]
  have hfl : { u.flash with records := programAll s.flash.records u.ras.toFlash } = u.flash := by
    rw [show u.ras.toFlash = [] from hq, ← hf]; rfl
  unfold settle
  rw [← hp, ← ht, ← hx, hfl, hr]

/-- Without an effect a command answers the state itself. -/
theorem done_self {s : State} (hq : s.Quiet) : done s s = .next s := by
  rw [done_eq, settle_id rfl rfl rfl rfl hq]

/-- A record once in flash stays there as it is. -/
theorem programAll_keeps (l : List Rec) (m : SMap Rec) : Kept m (programAll m l) := by
  induction l generalizing m with
  | nil => exact fun _ _ h => h
  | cons r rs ih =>
    intro k x hx
    apply ih
    by_cases hr : (SMap.find m r.seq).isSome = true
    · rwa [if_pos hr]
    · rw [if_neg hr, SMap.find_put_other]
      · exact hx
      · rintro rfl
        rw [hx] at hr
        exact hr rfl

theorem programAll_rising (l : List Rec) {m : SMap Rec} (h : SMap.rising m = true) :
    SMap.rising (programAll m l) = true := by
  induction l generalizing m with
  | nil => exact h
  | cons r rs ih =>
    apply ih
    split
    · exact h
    · exact SMap.rising_put _ _ h

theorem programAll_seq (l : List Rec) {m : SMap Rec} (h : ∀ k r, SMap.find m k = some r → r.seq = k) :
    ∀ k r, SMap.find (programAll m l) k = some r → r.seq = k := by
  induction l generalizing m with
  | nil => exact h
  | cons r rs ih =>
    apply ih
    intro k x hx
    split at hx
    · exact h k x hx
    · by_cases hk : k = r.seq
      · subst hk
        rw [SMap.find_put_same] at hx
        exact (Option.some.inj hx) ▸ rfl
      · rw [SMap.find_put_other _ _ hk] at hx
        exact h k x hx

/-- What every command does: it answers a state settled from its own, but for a power-up, which restarts the clock. -/
theorem exec_answers (c : Instr) (s : State) :
    (∃ u, exec c s = .next (settle s u)) ∨
      ∃ img u, c = .powerUp img ∧ exec c s = .next { settle s u with tick := 0 } := by
  cases c
  case powerUp img =>
    by_cases h : s.power = 0
    · exact .inr ⟨img, s.powerUp img, rfl, if_pos h⟩
    · exact .inl ⟨s, if_neg h⟩
  all_goals exact .inl ⟨_, rfl⟩

end Sys2Proof.Machine
end

