-- ==== Sys2Proof/WellFormed.lean ====
section
/-! DEFINITION. Which commands the surroundings can send: the operand ranges that the operand types do not say by
themselves. A command that is not well formed still has its arm of `exec`; statements name this check where they need it. -/

namespace Sys2Proof

/-- Engines of a kind on the module (R1): indexes from the kind's count on name no engine. -/
def EngKind.count : EngKind → Nat
  | .newt | .kettle => 32
  | .gecko | .emb => 2
  | .mover => 8

/-- The engine exists on some variant. -/
def Eng.wf (e : Eng) : Bool := decide (e.idx.val < e.kind.count)

/-- A source named by a request: accelerators come through ports 0 to 31 (R25), which the type already says. -/
def EngReq.wf (r : EngReq) : Bool := decide (0 < r.len)

/-- A HDM decoder as a host writes it: BASE and SIZE in units of 256 MiB. -/
def Decoder.wf (d : Decoder) : Bool := decide (d.base % 2 ^ 28 = 0) && decide (d.size % 2 ^ 28 = 0)

/-- A training's result: PCI Express Gen1 to Gen6, and a width of x1, x2, x4, x8 or x16 (R453, R468). -/
def trained (speed width : Nat) : Bool :=
  decide (1 ≤ speed) && decide (speed ≤ 6) && ([1, 2, 4, 8, 16] : List Nat).contains width

/-- The mailbox opcodes that rows of their own serve (R456). -/
def servedMailboxOps : List Nat :=
  [0x0001, 0x0100, 0x0101, 0x0102, 0x0103, 0x0300, 0x0301, 0x0400, 0x0401, 0x4000, 0x4300, 0x4800, 0x4801, 0x4802, 0x4803]

/-- The command can be sent: its operands lie in the ranges the spec gives them. -/
def Instr.wf (i : Instr) : Bool :=
  match i with
  | .registerWrite _ bytes _ _ => ([1, 2, 4, 8] : List Nat).contains bytes
  | .memWr _ _ data _ | .memWrPtl _ _ _ data => data.length == 64
  | .engineRead r => r.wf
  | .engineWrite r be d => r.wf && be.length == r.len && d.length == r.len
  | .engineWatchdog e => e.wf
  | .hdmDecoderCommit _ _ d => d.wf
  | .headResetExit _ speed width _ => trained speed.val width.val
  | .unsupportedMailboxCommand _ op => !servedMailboxOps.contains op.toNat
  | .challenge _ _ nonce | .getMeasurements _ _ nonce _ => nonce.length == 32
  | .wr _ _ _ data => decide (0 < data.length)
  | .wrMasked _ _ _ _ data => data.length == 64
  | .rd _ _ _ len => decide (0 < len)
  | .credit _ counts => counts.length == 8
  | .hostDmaCompletion _ (.data d) => decide (0 < d.length)
  | .setDcRegionConfiguration _ _ len | .addDynamicCapacity _ len _ _ => decide (0 < len)
  | _ => true

end Sys2Proof
end

