-- ==== Sys2Proof/Tests/Slice0.lean ====
section
/-! SUPPORT. Small tests: ill-formed commands refused, worked values of the spec, one step on small states, and for each
statement with hypotheses a state and operands that meet them. -/

namespace Sys2Proof.Tests
open Sys2Proof.Machine

-- One theorem at a time: checked together they hold too many threads at once.
set_option Elab.async false

/-- A module that is READY and holds nothing. -/
def rdy : State := State.reset.setFld Reg.PWR_STAT Reg.PWR_STAT_STATE 1

/-- The state after a command. -/
def after (c : Instr) (s : State) : State :=
  match exec c s with
  | .next t => t
  | _ => s

/-- The header of a message to this module from module 1. -/
def hdr0 : MsgHdr := ⟨false, false, false, 1, false, 0, 0, 0, 1, 0, 0, 0⟩

/-! ## Commands that nothing sends -/

theorem test_wf_register_width : (Instr.registerWrite .steward 3 0 0).wf = false := by decide
theorem test_wf_mem_wr_data : (Instr.memWr ⟨0, 0, 0⟩ .i [] false).wf = false := by decide
theorem test_wf_mem_wr_ptl_data : (Instr.memWrPtl ⟨0, 0, 0⟩ .i 1 []).wf = false := by decide
theorem test_wf_engine_read_empty : (Instr.engineRead ⟨.steward, 0, 0, 0, 0⟩).wf = false := by decide
theorem test_wf_engine_write_data : (Instr.engineWrite ⟨.steward, 0, 0, 0, 1⟩ [true] []).wf = false := by decide
theorem test_wf_engine_index : (Instr.engineWatchdog ⟨.gecko, 2⟩).wf = false := by decide
theorem test_wf_decoder_base : (Instr.hdmDecoderCommit 0 0 ⟨1, 2 ^ 28, 0, 0, 0, 0⟩).wf = false := by decide
theorem test_wf_training_width : (Instr.headResetExit 0 6 3 true).wf = false := by decide
theorem test_wf_mailbox_op : (Instr.unsupportedMailboxCommand 0 0x4000).wf = false := by decide
theorem test_wf_nonce : (Instr.challenge .i3c 0 []).wf = false ∧ (Instr.getMeasurements .i3c 0 [] true).wf = false := by decide
theorem test_wf_masked_data : (Instr.wrMasked 0 hdr0 0 1 []).wf = false := by decide
theorem test_wf_read_empty : (Instr.rd 0 hdr0 0 0).wf = false := by decide
theorem test_wf_credit_counts : (Instr.credit 0 [0]).wf = false := by decide
theorem test_wf_dma_empty : (Instr.hostDmaCompletion 0 (.data [])).wf = false := by decide
theorem test_wf_regions_empty : (Instr.setDcRegionConfiguration 0 0 0).wf = false ∧
    (Instr.addDynamicCapacity 0 0 0 0).wf = false := by decide
theorem test_wf_write_empty : (Instr.wr 0 hdr0 0 []).wf = false := by decide

/-! ## Worked values of the spec -/

/-- The set of "Worked example: decoding one address" (02). -/
def set5 : ISet :=
  { base := BitVec.ofNat 64 (0x0000040000000000 + 1), size := BitVec.ofNat 64 (2 ^ 42)
    cfg := BitVec.ofNat 64 (Reg.XLT_ISET_CFG_GRAN.put (Reg.XLT_ISET_CFG_MEMBERS.put 0 0xFFFFFFFF) 21)
    loc := BitVec.ofNat 64 0x0000001000000000 }

/-- 02: module 21, module-local address 0x0000001000945600, slice 30 of die 0, HBM4 channel 8. -/
theorem test_decode_example : set5.holds 0x40012345600 = true ∧ set5.decode 0x40012345600 = (21, 0x1000945600) ∧
    sliceOf 0x1000945600 = 30 ∧ dieOf 0x1000945600 = 0 ∧ channelOf .hbm 0x03214600 = 8 := by decide +kernel

/-- 03, "a page cools": 200 and then an access 3 intervals later is 26; 66 seven intervals later is 0. -/
theorem test_page_cools : ((⟨.resident, .hbm, 0, 0, 200, 100⟩ : PhtEnt).folded 103 1).count = 26 ∧
    ((⟨.resident, .hbm, 0, 0, 66, 103⟩ : PhtEnt).folded 110 0).count = 0 := by decide

/-- 09, "one RS8 key": scale 164 x 2^-13, offset -2, codes 0, 255 and 150. -/
theorem test_rs8_row : let r := rsRow 255 ([0xC0000000, 0x40466666, 0x3F800000] ++ List.replicate 61 0)
    r.1 = 0xC0003CA4 ∧ r.2.1.take 3 = [0, 255, 150] := by decide +kernel

/-- 19, "a lowered cap under decode load": 1 700 W down to 1 560 W raise lp to 5, where 1 525 W keeps it. -/
theorem test_lowered_cap :
    let s := rdy.setFld Reg.PWR_LIMIT Reg.PWR_LIMIT_LIMIT 1550
    let t := [1700, 1665, 1630, 1595, 1560, 1525, 1525].foldl (fun s p => s.controlTick p 60 60 35) s
    t.pwr.lp = 5 ∧ t.fld Reg.PWR_STAT Reg.PWR_STAT_KTL_LVL = 5 := by decide +kernel

/-- 20, "reading a GXM-4120 after a retirement" of HBM4 stack 3. -/
theorem test_capability_words :
    let s := { rdy with fixed := ⟨.gxm4120, 0, 0⟩, ras := { rdy.ras with health := [((obj 1 3).code, { st := 3 })] } }
    s.capWord Reg.GLB_CAP_CORE.off = some 0xFFFFFFFF00FF00FF ∧ s.capWord Reg.GLB_CAP_ENG.off = some 0x04110FFC ∧
    s.capWord Reg.GLB_CAP_MEM.off = some 0x000000FFFFFFFFF7 ∧
    s.capWord Reg.GLB_CAP_SIZE.off = some 0x0040000000070000 := by decide +kernel

/-- 15, "a tenant above its peak": with both buckets full, 256 bytes are green; with C empty yellow; with P empty red. -/
theorem test_meter_colours :
    let m : Meter := { cir := 200000, xir := 400000, cbs := 1048576, xbs := 2097152, tc := 1048576000, tx := 2097152000 }
    (m.colour false 256).2 = .green ∧ ({ m with tc := 0 }.colour false 256).2 = .yellow ∧
    ({ m with tx := 0 }.colour false 256).2 = .red := by decide

/-- 18, "a stack that goes bad": 8 000 points with AUTO make an HBM4 stack RETIRING. -/
theorem test_stack_retires :
    let s := { rdy with ras := { rdy.ras with health := [((obj 1 3).code, { score := 7999 * 256, st := 1 })] } }
    (((s.score (obj 1 3) .ce).health (obj 1 3)).st, (s.score (obj 1 3) .ce).tier.retiredParts) = (2, [obj 1 3]) := by
  decide +kernel

/-- 09: 0.5, 1 and -0.25 in E4M3 against the RS8 row sum to 7595/4096. -/
theorem test_rs8_group :
    (groupOf 12 ([0, 255, 150] ++ List.replicate 61 0) (natLE 4 0xC0003CA4)
      ([0x30, 0x38, 0xA8].map (elemVal 0) ++ List.replicate 61 (elemVal 0 0))).1 = 0x3FED5800 := by decide +kernel

/-! ## States that meet the statements' hypotheses -/

/-- A READY module with page 0 RESIDENT in HBM4. -/
def lined : State := { rdy with tier := { rdy.tier with pht := [(0, ⟨.resident, .hbm, 0, 0, 0, 0⟩)] } }

/-- An interleave set of one module over the first 4 GiB of the rack. -/
def set0 : ISet :=
  { base := 1, size := BitVec.ofNat 64 (2 ^ 32), cfg := BitVec.ofNat 64 (Reg.XLT_ISET_CFG_GRAN.put (Reg.XLT_ISET_CFG_MEMBERS.put 0 1) 21) }

/-- `lined` with its first 4 GiB named in the rack. -/
def homed : State := { lined with tier := { lined.tier with cur := [(0, set0)] } }

/-- A READY module whose queue 5 is in a state. -/
def queued (st : Nat) (x : QueueState) : State :=
  (rdy.setFld (Reg.Q_STATE 5) Reg.Q_STATE_STATE st).setQueue 5 x

/-- A descriptor's 64 bytes: opcode, flags, SUBOP, first operand byte. -/
def desc0 (op fl sub o : Byte) : List Byte :=
  [op, fl, sub, 0xFF] ++ List.replicate 12 0 ++ [o] ++ List.replicate 47 0

/-- A READY module whose queue 5 runs as task 0. -/
def tasked (t : Task) : State := (queued 1 {}).setTask 0 t

/-- A running descriptor of queue 5, slot 3. -/
def task5 (b : List Byte) : Task := { kind := .desc 5 3 false false, src := .queue 5, ctx := 1, bytes := b }

theorem test_met_StepRunsFront : ({ rdy with pending := [.nop 5] } : State).pending = .nop 5 :: [] := rfl

theorem test_met_IdleStepTicks : State.reset.pending = [] := rfl

theorem test_met_TickNeverBackward : (∃ t, step rdy = .next t) ∧ rdy.served (.head 3) = true ∧
    rdy.mayRead (.head 3) Reg.GLB_TICK.off = true ∧ rdy.served .steward = true ∧
    rdy.mayRead .steward Reg.GLB_TICK.off = true := ⟨⟨_, rfl⟩, by decide⟩

theorem test_met_RecordsNeverRewritten : ∃ t, Reaches State.reset t ∧ t.tick = 1 :=
  ⟨_, .tail (.refl _) rfl, rfl⟩

/-- One record in flash. -/
def recorded : State :=
  { rdy with flash := { rdy.flash with records := [(4, ⟨4, 0, 0, 0, 0, 0, 0, 0, 0, 0, 0, 0, 0⟩)] } }

theorem test_met_RecorderInvariant : recorded.RecorderOk ∧ ∃ t, step recorded = .next t := by
  refine ⟨⟨by decide, ?_, by decide⟩, _, rfl⟩
  intro k r h
  by_cases hk : k = 4
  · subst hk; exact (Option.some.inj (h.symm.trans rfl)) ▸ rfl
  · simp [recorded, SMap.find, Ne.symm hk] at h

theorem test_met_PoisonOfLines : (lined.cell 0).isSome = true ∧
    ({ lined with tier := { lined.tier with poison := [(0, true)] } } : State).linePoison 0 = true := by decide +kernel

theorem test_met_LineAccesses : (lined.cell 64).isSome = true ∧ (List.replicate 64 (1 : Byte)).length = 64 ∧
    rdy.cell 0 = none ∧ lined.cell 0 = some 0 ∧ Memory.wf lined.tier.mem := by decide +kernel

theorem test_met_AtomicsOnLines : (lined.cell 64).isSome = true ∧ lined.linePoison 1 = false ∧ 0 < 8 ∧ 56 + 8 ≤ 64 ∧ 9 ≤ 10 ∧
    2 ^ 64 - 1 < 2 ^ (8 * 8) ∧ 2 ^ 32 - 1 < 2 ^ (8 * 4) := by decide +kernel

theorem test_met_ScratchpadWords : Memory.wf rdy.pad.mem ∧ (List.replicate 64 (1 : Byte)).length = 64 := by decide

theorem test_met_RegisterWriteByAccessType :
    let s := rdy
    let off : BitVec 26 := BitVec.ofNat 26 (Reg.Q_IRQ 4095).off
    s.Quiet ∧ (∃ row r, findReg off.toNat = some (row, r) ∧ handlers.find? (fun h => h.1 = row.base) = none ∧ row.flds ≠ []) ∧
    off.toNat % 8 = 0 ∧ s.mayWrite .steward off.toNat = true ∧ s.absentAt off.toNat = false := by
  refine ⟨by decide, ⟨_, _, rfl, ?_, ?_⟩, ?_⟩ <;> decide +kernel

theorem test_met_RegisterAccessWidth : (4 ≠ 8 ∨ (0 : BitVec 26).toNat % 8 ≠ 0) ∧ ((8 : Nat) ≠ 8 ∨ (4 : BitVec 26).toNat % 8 ≠ 0) ∧
    rdy.Quiet ∧ rdy.served (.head 0) = true := by decide

theorem test_met_QueueDoorbells :
    let n := rdy.setFld (Reg.Q_CFG 5) Reg.Q_CFG_DB_HEADS 14
    let s := rdy.setFld Reg.GLB_PART_CTL Reg.GLB_PART_CTL_HEADS 15
    n.Quiet ∧ n.served (.head 0) = true ∧ n.refusesBar2 0 5 = true ∧ s.Quiet ∧ s.served (.head 0) = true ∧
    s.refusesBar2 0 5 = false ∧ 63 < s.sqLen 5 ∧ 63 < s.cqLen 5 ∧ s.sqLen 5 ≤ 64 ∧ s.cqLen 5 ≤ 64 := by decide +kernel

theorem test_met_QueueEnableAndDisable :
    rdy.mayWrite .steward (Reg.Q_CFG 5).off = true ∧ rdy.qState 5 = 0 ∧ Reg.Q_CFG_EN.get (1 : Word).toNat = 1 ∧
    (rdy.writePlain true (Reg.Q_CFG 5) [Reg.Q_CFG_EN] (Reg.Q_CFG_CTX.put 1 7)).mayEnable 5 = true ∧
    (rdy.writePlain true (Reg.Q_CFG 5) [Reg.Q_CFG_EN] 1).mayEnable 5 = false ∧
    (queued 3 {}).mayWrite .steward (Reg.Q_CFG 5).off = true ∧ (queued 3 {}).qState 5 = 3 ∧
    Reg.Q_CFG_EN.get (0 : Word).toNat = 0 := by decide +kernel

theorem test_met_QueueStopAndResume :
    (queued 1 {}).mayWrite .steward (Reg.Q_CTL 5).off = true ∧ (queued 1 {}).qState 5 = 1 ∧
    (queued 3 {}).Quiet ∧ (queued 3 {}).mayWrite .steward (Reg.Q_CTL 5).off = true ∧ (queued 3 {}).qState 5 = 3 ∧
    (queued 2 {}).Quiet ∧ (queued 2 {}).qState 5 = 2 ∧ (queued 2 {}).descsOf 5 = [] ∧ ((queued 2 {}).queue 5).fetching = false ∧
    ((queued 2 {}).queue 5).fetched = [] ∧ ((queued 2 {}).queue 5).due = [] ∧
    (queued 2 {}).flag (Reg.Q_IRQ 5) Reg.Q_IRQ_EN = false ∧
    (queued 2 {}).fld (Reg.Q_STATE 5) Reg.Q_STATE_STOP_CAUSE = 0 ∧
    ((queued 2 {}).setFld (Reg.Q_STATE 5) Reg.Q_STATE_STOP_CAUSE 5).fld (Reg.Q_STATE 5) Reg.Q_STATE_STOP_CAUSE = 5 ∧
    ((queued 2 {}).setFld (Reg.Q_STATE 5) Reg.Q_STATE_STOP_CAUSE 5).qState 5 = 2 := by decide +kernel

theorem test_met_SlotFetchReadsOneSlot :
    let s := queued 1 { dbTail := 1 }
    let far := (s.setFld (Reg.Q_SQ_BASE 5) Reg.Q_SQ_BASE_HOSTMEM 1).setFld (Reg.Q_SQ_BASE 5) Reg.Q_SQ_BASE_HEAD 2
    let hosted := ({ far with heads := [(2, { bme := true })] } : State).setFld (Reg.HEAD_STAT 2) Reg.HEAD_STAT_IN_RESET 0
    let inStore := { s with tier := homed.tier }
    let full := { inStore with waitq := List.replicate 512 { line := 0, who := .fetch 4 } }
    far.mayFetch 5 = true ∧ far.canDma 2 = false ∧ far.fld (Reg.Q_SQ_BASE 5) Reg.Q_SQ_BASE_HOSTMEM = 1 ∧
    hosted.mayFetch 5 = true ∧ hosted.canDma 2 = true ∧
    s.mayFetch 5 = true ∧ s.fld (Reg.Q_SQ_BASE 5) Reg.Q_SQ_BASE_HOSTMEM = 0 ∧ s.ringLocal 0 64 false = none ∧
    inStore.mayFetch 5 = true ∧ (inStore.ringLocal 0 64 false).isSome = true ∧ inStore.sliceFull (0 / 64) = false ∧
    full.mayFetch 5 = true ∧ (full.ringLocal 0 64 false).isSome = true ∧ full.sliceFull (0 / 64) = true ∧ full.Quiet := by
  decide +kernel


/-- A ring of queue 5 in host memory behind head 2, whose host is there. -/
def hosted5 (s : State) : State :=
  ((s.setFld (Reg.Q_CQ_BASE 5) Reg.Q_CQ_BASE_HOSTMEM 1).setFld (Reg.Q_CQ_BASE 5) Reg.Q_CQ_BASE_HEAD 2).setFld
    (Reg.HEAD_STAT 2) Reg.HEAD_STAT_IN_RESET 0

theorem test_met_DescriptorsComplete :
    let s := (tasked { task5 (desc0 0x10 2 0 0) with fin := some { st := .poison } }).setFld (Reg.Q_CFG 5) Reg.Q_CFG_STOP_ON_ERR 1
    let ok := tasked { task5 (desc0 0x10 2 0 0) with fin := some { st := .ok } }
    let w := hosted5 (queued 1 { due := [⟨3, false, 0x10, 7, false, { st := .ok }⟩], cqHead := 1 })
    let r := hosted5 (queued 1 { due := [⟨3, false, 0x10, 7, false, { st := .ok }⟩], cqHead := 2 })
    let r := { r with heads := [(2, { bme := true })] }
    (∃ t, s.findDesc ⟨5, 3, false⟩ (fun t => t.fin.isSome) = some (0, t) ∧ t.fin = some { st := .poison }) ∧
    s.tier.pageHold = [] ∧ s.tier.serving = [] ∧ s.qState 5 = 1 ∧ s.flag (Reg.Q_CFG 5) Reg.Q_CFG_STOP_ON_ERR = true ∧
    (∃ t, ok.findDesc ⟨5, 3, false⟩ (fun t => t.fin.isSome) = some (0, t) ∧ t.fin = some { st := .ok }) ∧
    (w.queue 5).due.length = 1 ∧ w.ringBusy.contains (3 + 5) = false ∧ w.live = true ∧ w.cqRoom 5 = false ∧ w.Quiet ∧
    (r.queue 5).due.length = 1 ∧ r.live = true ∧ r.cqRoom 5 = true ∧
    r.fld (Reg.Q_CQ_BASE 5) Reg.Q_CQ_BASE_HOSTMEM = 1 ∧ r.canDma (r.fld (Reg.Q_CQ_BASE 5) Reg.Q_CQ_BASE_HEAD) = true := by
  refine ⟨⟨_, rfl, rfl⟩, ?_, ?_, ?_, ?_, ⟨_, rfl, rfl⟩, ?_⟩ <;> decide +kernel

theorem test_met_InterruptsAndDeadlines :
    let s := (rdy.setFld (Reg.Q_IRQ 5) Reg.Q_IRQ_EN 1).setFld (Reg.Q_IRQ 5) Reg.Q_IRQ_TIME 2
    let s := { s.setQueue 5 { unsignalled := 1, firstAt := 1 } with tick := 2001 }
    let v := ({ rdy with heads := [(2, { bme := true, pend := [(9, true)], unmasked := [(0, true)] })] } : State).setFld
      (Reg.HEAD_STAT 2) Reg.HEAD_STAT_IN_RESET 0
    let d := { tasked (task5 (natLE 64 (2 ^ 64 * 5))) with tick := 5000 }
    let w := { d with eng := { d.eng with kqueue := [(0, [0])] } }
    d.atKettle 0 = false ∧ w.atKettle 0 = true ∧ w.Quiet ∧
    s.flag (Reg.Q_IRQ 5) Reg.Q_IRQ_EN = true ∧ s.fld (Reg.Q_IRQ 5) Reg.Q_IRQ_TIME ≠ 0 ∧ 0 < (s.queue 5).unsignalled ∧
    (s.queue 5).firstAt + 1000 * s.fld (Reg.Q_IRQ 5) Reg.Q_IRQ_TIME ≤ s.tick ∧
    v.fld (Reg.HEAD_STAT 2) Reg.HEAD_STAT_IN_RESET ≠ 1 ∧ SMap.get (v.head 2).unmasked 0 false = true ∧ (v.head 2).bme = true ∧
    SMap.get (v.head 2).pend 9 false = true ∧ SMap.get (v.head 2).pend 8 false = false ∧
    (∃ t, d.findDesc ⟨5, 3, false⟩ (fun t => t.fin.isNone) = some (0, t) ∧ SMap.find d.tasks 0 = some t ∧ t.kill = none ∧
      t.ending = none ∧ dDeadline t.bytes = 5 ∧ t.start + 1000 * dDeadline t.bytes ≤ d.tick) := by
  refine ⟨?_, ?_, ?_, ?_, ?_, ?_, ?_, ?_, ?_, ?_, ?_, ?_, _, rfl, rfl, rfl, rfl, ?_⟩ <;> decide +kernel

/-- Queue 5 with a descriptor fetched from its slot 3, of a context of the customer world. -/
def startable (s : State) (b : List Byte) : State :=
  ((s.setFld (Reg.Q_STATE 5) Reg.Q_STATE_STATE 1).setFld (Reg.Q_CFG 5) Reg.Q_CFG_CTX 7).setQueue 5
    { fetched := [⟨3, false, false, b⟩] }

/-- For the rows by opcode: one that passes, one that fails a check of R128 and one that no unit may take. -/
theorem test_met_DescriptorStarts :
    (∀ op ∈ [0x00, 0x01, 0x04, 0x05], let s := startable rdy (desc0 op 0 0 0)
      isOp op.toNat (desc0 op 0 0 0) = true ∧ s.eligible 5 = true ∧ s.inTurn 5 = true) ∧
    (let s := startable rdy (desc0 0 0 0 0); s.descCheck 5 ⟨3, false, false, desc0 0 0 0 0⟩ = .ok) ∧
    (let s := startable rdy (desc0 9 0 0 0); s.descCheck 5 ⟨3, false, false, desc0 9 0 0 0⟩ = .invalid ∧
      s.eligible 5 = true ∧ s.inTurn 5 = true ∧ !opcodes.contains (dOpcode (desc0 9 0 0 0)) = true) ∧
    (let b := natLE 64 (0x10 + 2 ^ 24 * 255 + 4096 * 2 ^ 192 + 64 * 2 ^ 256)
      let s := startable rdy b
      s.descCheck 5 ⟨3, false, false, b⟩ = .ok ∧ (∃ es, s.placing 5 b = .ok (some es) ∧ es ≠ []) ∧ s.eligible 5 = true) ∧
    (let b := natLE 64 (0x52 + 2 ^ 16 * 2 + 2 ^ 24 * 255)
      let s := startable rdy b
      s.descCheck 5 ⟨3, false, false, b⟩ = .ok ∧ s.placing 5 b = .error .unsupported ∧ s.eligible 5 = true) := by
  refine ⟨?_, ?_, ?_, ⟨?_, ⟨_, rfl, ?_⟩, ?_⟩, ?_, rfl, ?_⟩ <;>
  decide +kernel

theorem test_met_DescriptorPrograms :
    (∀ op ∈ [0x00, 0x01, 0x02, 0x03, 0x04, 0x05, 0x10, 0x11, 0x12, 0x20, 0x30, 0x32, 0x33, 0x34, 0x40, 0x41, 0x42, 0x43, 0x50,
      0x51, 0x70, 0x71], isOp op.toNat (desc0 op 0 0 0) = true) ∧
    (∀ sub ∈ [0, 1, 2], isOp 0x52 (desc0 0x52 0 sub 0) = true ∧ dSubop (desc0 0x52 0 sub 0) = sub.toNat) ∧
    ∀ mode ∈ [0, 1, 2, 3, 4, 5], isOp 0x60 (desc0 0x60 0 0 mode) = true ∧ bits (dOp (desc0 0x60 0 0 mode) 0) 3 0 = mode.toNat := by
  decide +kernel

/-- A Kettle 0 that may issue the instruction and owns the first bank of the scratchpad; lanes of V1 and V2 are 1.0. -/
def kst (i : Nat) (k : Kettle) : State :=
  (((rdy.setFld Reg.CADDY_STATUS Reg.CADDY_STATUS_READY 1).setFld (Reg.CADDY_OWN 0) Reg.CADDY_OWN_STATE 1).setFld
    (Reg.CADDY_OWN 0) Reg.CADDY_OWN_KIND 1).setKettle 0
      { k with task := some 0, running := true, prog := List.replicate k.pc 0 ++ [BitVec.ofNat 128 i] }

/-- An instruction's word: opcode, D, M, A, format, N, immediate, X. -/
def kw (op d m a f n imm x : Nat) : Nat :=
  op + d * 2 ^ 8 + m * 2 ^ 13 + a * 2 ^ 16 + f * 2 ^ 32 + n * 2 ^ 48 + imm * 2 ^ 64 + x * 2 ^ 96

theorem test_met_KettleControlAndScalars :
    (∀ op ∈ [0x00, 0x01, 0x02, 0x03, 0x04, 0x05], (kst (kw op 3 0 1 0 2 4 0) {}).kNext 0 = some (kw op 3 0 1 0 2 4 0) ∧
      kOpc (kw op 3 0 1 0 2 4 0) = op) ∧
    (kst 0 { pc := 3, loops := [(1, 4, 2)] }).kNext 0 = some 0 := by decide +kernel

theorem test_met_KettleVectorOperations :
    ∀ c ∈ [(0x22, 0), (0x22, 4), (0x23, 0), (0x23, 4), (0x24, 0), (0x25, 0), (0x25, 5), (0x26, 0), (0x26, 1), (0x27, 0),
        (0x29, 0), (0x2A, 0)],
      let i := kw c.1 3 c.2 1 0 2 4 0
      (kst i {}).kNext 0 = some i ∧ kOpc i = c.1 ∧ kM i = c.2 := by decide +kernel

theorem test_met_KettleMergesAndAccumulators :
    (∀ c ∈ [(kw 0x28 3 0 1 0 0 0 0), (kw 0x2B 3 1 1 0 2 0 64), (kw 0x12 3 3 0 0 0 31 0), (kw 0x13 0 1 0 0 1 127 0)],
      (kst c {}).kNext 0 = some c) ∧
    bits (kX (kw 0x2B 3 1 1 0 2 0 64)) 6 0 = 64 ∧
    ((kst (kw 0x12 3 3 0 0 0 31 0) {}).kettle 0).addr (kw 0x12 3 3 0 0 0 31 0) = 31 ∧
    bits (kImm (kw 0x13 0 1 0 0 1 127 0)) 6 0 + kN (kw 0x13 0 1 0 0 1 127 0) = 128 := by decide +kernel

/-- Fields of registers set in turn. -/
def sets (s : State) (l : List (RegId × Fld × Nat)) : State := l.foldl (fun s x => s.setFld x.1 x.2.1 x.2.2) s

/-- Tile 0 of array 0 in E4M3. -/
def kt : Kettle := { tiles := [(0, ⟨0, List.replicate 16 (List.replicate 128 0x38), []⟩)] }

/-- A ring of Newt 0 with two slots begun and one filled, none released. -/
def ring0 : Stream := { bytes := natLE 64 (6 * 2 ^ 8 + 2 ^ 16 + 256 * 2 ^ 128), begun := 2, filled := 1 }

/-- The Newt of Kettle 0 with that ring. -/
def kr (i : Nat) (k : Kettle := {}) : State := (kst i k).setNewt 0 { task := some 0, streams := [ring0] }

/-- A range of scratchpad that can be read. -/
theorem pad_holds {s : State} {n off len : Nat} {al : Bool}
    (h : (padRangeOk n off len al && (cut 64 off len).all fun w =>
      decide (s.bankGrant (asEng (kEng n)) w.1 = some .ok ∧ s.wordPoison w.1 = false)) = true) :
    s.PadHolds n off len al (s.padBytes off len) := by
  rw [Bool.and_eq_true, List.all_eq_true] at h
  exact ⟨h.1, fun w hw => of_decide_eq_true (h.2 w hw), rfl⟩

/-- The first bytes of `ring0`. -/
def ringBytes (s : State) (len : Nat) : List Byte :=
  (cut 64 0 len).flatMap fun p => s.padBytes (stRing ring0.bytes + p.1 % ringSpan ring0.bytes) p.2

/-- The first slot of `ring0` can be read. -/
theorem ring_holds {s : State} {len : Nat} {al : Bool} (h : (s.newt 0).streams[0]? = some ring0) (hl : len ≤ 64)
    (hp : (cut 64 0 len).all (fun p => padRangeOk 0 (stRing ring0.bytes + p.1 % ringSpan ring0.bytes) p.2 false &&
      (cut 64 (stRing ring0.bytes + p.1 % ringSpan ring0.bytes) p.2).all fun w =>
        decide (s.bankGrant (asEng (kEng 0)) w.1 = some .ok ∧ s.wordPoison w.1 = false)) = true) :
    s.RingHolds 0 0 0 len al (ringBytes s len) := by
  refine ⟨ring0, h, fun _ => rfl, ?_, fun p hp' => pad_holds (List.all_eq_true.1 hp p hp'), rfl⟩
  have : ∀ l, l ≤ 64 → ∀ p ∈ cut (slotBytes ring0.bytes) 0 l, p.1 / slotBytes ring0.bytes = 0 := by decide +kernel
  intro p hp
  rw [this len hl p hp]
  exact ⟨by decide +kernel, 0, rfl, by decide, by decide +kernel, by decide +kernel, by decide, by intro f hf; cases hf⟩

/-- A product of E4M3 codes in scratchpad, one of RS8 codes and their scales in scratchpad, and one of both in a ring. -/
def mmaPad : Nat := kw 0x11 0 2 0 0 1 0 1
def mmaScaled : Nat := kw 0x11 0 2 0 12 1 0 1
def mmaRing : Nat := kw 0x11 0 2 16 12 1 0 1 + 8 * 2 ^ 24

theorem input_pad : (kst mmaPad kt).MmaInput 0 mmaPad 0 0 ((kst mmaPad kt).padBytes 0 64) [] := by
  simp only [State.MmaInput]
  refine ⟨by decide +kernel, by decide +kernel, by decide +kernel, by decide +kernel, by decide +kernel, ?_, ?_⟩
  · rw [if_neg (by decide +kernel)]
    exact ⟨by decide +kernel, pad_holds (by decide +kernel)⟩
  · rw [if_neg (by decide +kernel)]
    trivial

theorem input_scaled : (kst mmaScaled kt).MmaInput 0 mmaScaled 0 0 ((kst mmaScaled kt).padBytes 0 64)
    ((kst mmaScaled kt).padBytes 0 4) := by
  simp only [State.MmaInput]
  refine ⟨by decide +kernel, by decide +kernel, by decide +kernel, by decide +kernel, by decide +kernel, ?_, ?_⟩
  · rw [if_neg (by decide +kernel)]
    exact ⟨by decide +kernel, pad_holds (by decide +kernel)⟩
  · rw [if_pos (by decide +kernel), if_neg (by decide +kernel)]
    exact pad_holds (by decide +kernel)

theorem input_ring : (kr mmaRing kt).MmaInput 0 mmaRing 0 0 (ringBytes (kr mmaRing kt) 64) (ringBytes (kr mmaRing kt) 4) := by
  simp only [State.MmaInput]
  refine ⟨by decide +kernel, by decide +kernel, by decide +kernel, by decide +kernel, by decide +kernel, ?_, ?_⟩
  · rw [if_pos (by decide +kernel)]
    exact ring_holds (s := kr mmaRing kt) (len := 64) (by decide +kernel) (by decide) (by decide +kernel)
  · rw [if_pos (by decide +kernel), if_pos (by decide +kernel)]
    exact ring_holds (s := kr mmaRing kt) (len := 4) (by decide +kernel) (by decide) (by decide +kernel)

theorem test_met_KettleTilesAndProducts :
    let s := kst mmaPad kt
    let l := kw 0x10 3 1 0 0 1 0 (64 * 2 ^ 16)
    let m := kw 0x10 0 0 0 5 1 0 128
    s.kNext 0 = some mmaPad ∧ kOpc mmaPad = 0x11 ∧ kN mmaPad = 1 ∧ kArrays mmaPad = [0] ∧
    (kst mmaScaled kt).kNext 0 = some mmaScaled ∧ (kr mmaRing kt).kNext 0 = some mmaRing ∧
    (kst l {}).kNext 0 = some l ∧ kOpc l = 0x10 ∧ kD l + kRegs l ≤ 4 ∧ isMx (kFmt l) = false ∧
    (kst m {}).kNext 0 = some m ∧ kOpc m = 0x10 ∧ kD m + kRegs m ≤ 4 ∧ isMx (kFmt m) = true ∧
    ∀ i ∈ [l, m], ∀ j, j < kRegs i →
      (∀ q, q < 16 → (kst i {}).PadHolds 0 (((kst i {}).kettle 0).addr i + j * bits (kX i) 31 16 + q * bits (kX i) 15 0)
        (128 * elemWidth (kFmt i) / 8) true
        ((kst i {}).padBytes (((kst i {}).kettle 0).addr i + j * bits (kX i) 31 16 + q * bits (kX i) 15 0) (128 * elemWidth (kFmt i) / 8))) ∧
      (kst i {}).PadHolds 0 (((kst i {}).kettle 0).sget (kSC i) + 64 * j) 64 false
        ((kst i {}).padBytes (((kst i {}).kettle 0).sget (kSC i) + 64 * j) 64) := by
  simp only [State.PadHolds]
  decide +kernel

theorem test_met_KettleMemoryAndRings :
    let v := kw 0x20 3 0 0 5 2 0 64
    let r := kw 0x20 3 0 16 0 1 0 0
    let w := kw 0x21 3 0 0 5 1 0 0
    let g := kw 0x20 3 4 0 0 1 0 0
    let h := kw 0x21 3 4 0 0 1 0 0
    let rw := kw 0x08 0 0 0 0 0 0 0
    let rw1 := kw 0x08 0 0 0 0 0 1 0
    let rr := kw 0x09 0 0 0 0 0 0 1
    let lanes := encodeLanes (kFmt w) (kSat w) ((kst w {}).vec 0 3)
    (kr r).RingHolds 0 (bits (kA r) 2 0) (((kr r).kettle 0).addr r * 64 + 0 * kX r) 64 true (ringBytes (kr r) 64) ∧
    (kst v {}).kNext 0 = some v ∧ bit (kM v) 2 = false ∧ bit (kA v) 4 = false ∧ kD v + kRegs v ≤ 32 ∧ laneScales (kFmt v) ≠ 0 ∧
    (∀ j, j < kRegs v →
      (kst v {}).PadHolds 0 (((kst v {}).kettle 0).addr v + j * kX v) (64 * elemWidth (kFmt v) / 8) true
        ((kst v {}).padBytes (((kst v {}).kettle 0).addr v + j * kX v) (64 * elemWidth (kFmt v) / 8)) ∧
      (kst v {}).PadHolds 0 (((kst v {}).kettle 0).sget (kSC v) + laneScales (kFmt v) * j) (laneScales (kFmt v)) false
        ((kst v {}).padBytes (((kst v {}).kettle 0).sget (kSC v) + laneScales (kFmt v) * j) (laneScales (kFmt v)))) ∧
    (kr r).kNext 0 = some r ∧ bit (kA r) 4 = true ∧ kRegs r = 1 ∧ 64 * elemWidth (kFmt r) / 8 = 64 ∧ laneScales (kFmt r) = 0 ∧
    (kst w {}).kNext 0 = some w ∧ kRegs w = 1 ∧ kD w = 3 ∧ lanes.2.1 ≠ [] ∧
    (∀ x ∈ [(((kst w {}).kettle 0).addr w, lanes.1, true), (((kst w {}).kettle 0).sget (kSC w), lanes.2.1, false)],
      padRangeOk 0 x.1 x.2.1.length x.2.2 = true ∧
      ∀ y ∈ cut 64 x.1 x.2.1.length, (kst w {}).bankGrant (asEng (kEng 0)) y.1 = some .ok) ∧
    (kst g {}).kNext 0 = some g ∧ (kst h {}).kNext 0 = some h ∧ bit (kM g) 2 = true ∧ bit (kM h) 2 = true ∧
    (kr rw).kNext 0 = some rw ∧ (kr rw1).kNext 0 = some rw1 ∧ (kr rr).kNext 0 = some rr ∧
    ((kr rw).newt 0).streams[0]? = some ring0 ∧ 0 < ring0.filled ∧ ring0.filled ≤ 1 ∧ 1 < streamSlots ring0.bytes ∧
    ring0.released ≤ 0 ∧ 1 - ring0.released < 2 ^ stSlotsLog ring0.bytes ∧ ring0.failed = none := by
  refine ⟨ring_holds (by decide +kernel) (by decide) (by decide +kernel), ?_, ?_, ?_, ?_, ?_, ?_, ?_, ?_, ?_, ?_, ?_, ?_, ?_, ?_, ?_, ?_⟩ <;>
    first | decide +kernel | (simp only [State.PadHolds]; decide +kernel)

/-- `homed`, whose first 2 MiB are a region granted to context 7. -/
def granted : State :=
  { homed with sec := { homed.sec with regions := [(0, { valid := true, size := 1 })], grants := [(0, [⟨7, 7, 3⟩])] } }

/-- Fields of bank 0 that make it Newt 0's. -/
def newt0 : List (RegId × Fld × Nat) := [(Reg.CADDY_STATUS, Reg.CADDY_STATUS_READY, 1),
  (Reg.CADDY_OWN 0, Reg.CADDY_OWN_STATE, 1), (Reg.CADDY_OWN 0, Reg.CADDY_OWN_KIND, 0)]

/-- A stream of 64 bytes at store address 0, in one slot. -/
def ring1 : Stream := { bytes := natLE 64 (6 * 2 ^ 8 + 2 ^ 16 + 64 * 2 ^ 128), cursor := 64, begun := 1 }

/-- What a read of the store has been answered so far, up to its return. -/
def readLog : List Ans :=
  [{ val := 1 }, {}, {}, { data := natLE 8 0 }, { val := 1 }, { val := 1 }, {}, {}, {}, { data := List.replicate 64 0 }, {}]

/-- A read of `ring1` that waits for its return. -/
def readTask : Task := { kind := .stream 0 0 0, src := .queue 5, ctx := 7, log := readLog, wait := .reports }

def returning : State :=
  (sets { granted with tasks := [(0, task5 (desc0 0x34 0 0 0)), (1, readTask)], nextTask := 2 } newt0).setNewt 0
    { task := some 0, streams := [ring1], storeAddr := true }

/-- A program's answer and the state it leaves, compared part by part. -/
theorem ran {α : Type} [DecidableEq α] {p : Prog α} {r : Rs} {a : α} {v : Rs}
    (h : (match p r with
      | (.ok b, u) => decide (b = a ∧ u.s = v.s ∧ u.id = v.id ∧ u.pos = v.pos ∧ u.cur = v.cur)
      | _ => false) = true) : p r = (.ok a, v) := by
  revert h
  rcases p r with ⟨x, u⟩
  cases x with
  | error e => intro h; cases h
  | ok b =>
    intro h
    have h := of_decide_eq_true h
    obtain ⟨h0, h1, h2, h3, h4⟩ := h
    cases u; cases v
    dsimp only at h1 h2 h3 h4
    rw [h0, h1, h2, h3, h4]

/-- `returning` with its read given back, as the task's program runs on. -/
def back : Rs := { s := returning.deliver 1 {}, id := 1, pos := 0, cur := { st := .ok } }

theorem returned : readData ⟨.newt, 0⟩ true ring1.bytes 0 0 back =
    (.ok ((List.replicate 64 0).map some), { back with pos := readTask.log.length }) :=
  ran (p := readData ⟨.newt, 0⟩ true ring1.bytes 0 0) (r := back) (a := (List.replicate 64 0).map some)
    (v := { back with pos := readTask.log.length }) (by decide +kernel)

/-- A table at store address 0: entry 0 points to the table itself, entry 1 is a leaf, and the word of context 7 names it. -/
def tabled : State := { granted with tier := { granted.tier with mem := [(0, 1), (8, 0x11), (224, 1)] } }

theorem free_line : tabled.ServesNow 0 0 false ∧ tabled.ServesNow 0 3 false := by
  simp only [State.ServesNow, State.LineFree]
  decide +kernel

theorem w_table : tabled.TableRead 0 8 [1,0,0,0,0,0,0,0] :=
  ⟨by decide +kernel, _, _, _, rfl, by decide +kernel, free_line.1, by decide +kernel, by decide +kernel⟩
theorem w_leaf : tabled.TableRead 8 8 [0x11,0,0,0,0,0,0,0] :=
  ⟨by decide +kernel, _, _, _, rfl, by decide +kernel, free_line.1, by decide +kernel, by decide +kernel⟩
theorem w_ctx : tabled.TableRead 224 32 (1 :: List.replicate 31 0) :=
  ⟨by decide +kernel, _, _, _, rfl, by decide +kernel, free_line.2, by decide +kernel, by decide +kernel⟩
theorem maps3 : tabled.Maps (2 ^ 30) false 5 0 (3, 0x11) :=
  ⟨_, w_table, by decide, by decide, ⟨_, w_table, by decide, by decide, ⟨_, w_leaf, by decide, by decide, by decide, by decide⟩⟩⟩

/-- An ACQUIRE that polls, a walk, an insert that waits for old queries and a switch that waits for a count. -/
def polling : State := { (tasked { task5 (desc0 2 0 0 0) with wait := .poll }) with tick := 200000 }
def walking : State :=
  { tabled with tasks := [(0, { task5 (desc0 0x10 0 0 0) with ctx := 7, wait := .walk, need := some (2 ^ 30, .read) })] }
def insertMsg : Msg := { hdr := { hdr0 with seq := 9 }, body := .subreq (.gkoInsert 0 1 1 false []), bad := false }
def inserting : State := rdy.setTask 0 { kind := .msg 0 insertMsg, src := .peer 1, ctx := 1, wait := .reports }
def switching : State := tasked { task5 (desc0 0x52 0 2 0) with wait := .reports }

theorem no_queries (s : State) (h : s.eng.queries = []) (shard del : Nat) : s.oldQueries shard del = false := by
  simp [State.oldQueries, h]

theorem no_walk_entry (s : State) (h : s.xlt.wc = []) (die ctx level vpn : Nat) : s.wcFind die ctx level vpn = none := by
  simp [State.wcFind, h, SMap.get, SMap.find]

theorem test_met_WaitsEnd :
    (∃ t l, polling.findDesc ⟨5, 3, false⟩ (fun t => t.wait = .poll) = some (0, t) ∧ SMap.find polling.tasks 0 = some t ∧
      (t.fin = none ∧ t.ending = none ∧ t.kill = none ∧ t.bad = none) ∧ dOpcode t.bytes = 0x02 ∧
      t.pollAt + max 32 (polling.fld Reg.GLB_ACQ_POLL Reg.GLB_ACQ_POLL_INTERVAL) ≤ polling.tick ∧
      polling.placing 5 t.bytes = .ok (some l) ∧ l ≠ []) ∧
    (((returning.slotTasks 0).filter fun id => (returning.task id).wait = .reports)[0]? = some 1 ∧
      SMap.find returning.tasks 1 = some readTask ∧
      (readTask.fin = none ∧ readTask.ending = none ∧ readTask.kill = none ∧ readTask.bad = none) ∧
      readTask.kind = .stream 0 0 0 ∧ (returning.newt 0).streams[0]? = some ring1 ∧ 0 < streamBytes ring1.bytes ∧
      (returning.newt 0).storeAddr = true ∧
      readData ⟨.newt, 0⟩ true ring1.bytes 0 0 back =
        (.ok ((List.replicate 64 0).map some), { back with pos := readTask.log.length }) ∧
      (∀ w ∈ cut 64 (stRing ring1.bytes + 0 % ringSpan ring1.bytes) 64,
        returning.bankGrant (asEng ⟨.newt, 0⟩) w.1 = some .ok) ∧
      returning.tier.pageHold = [] ∧ returning.tier.serving = []) ∧
    (∃ t, walking.findDesc ⟨5, 3, false⟩ (fun t => t.fin.isNone) = some (0, t) ∧
      (walking.tasks.find? fun t => (t.1 = 0 || walking.actsFor 0 t.2) && t.2.wait = .walk &&
        t.2.need = some ((2 ^ 30 : BitVec 57).toNat, .read)) = some (0, t) ∧
      SMap.find walking.tasks 0 = some t ∧ (t.fin = none ∧ t.ending = none ∧ t.kill = none ∧ t.bad = none) ∧ t.ctx = 7) ∧
    (tabled.TableRead (tabled.fld Reg.XLT_CTX_BASE Reg.XLT_CTX_BASE_BASE * 2 ^ 21 + 32 * 7) 32 (1 :: List.replicate 31 0) ∧
      (tabled.tlbLook ⟨.newt, 0⟩ 7 (2 ^ 30)).2 = none ∧ (∀ level vpn, tabled.wcFind 0 7 level vpn = none) ∧
      bit 1 0 = true ∧ bits 1 11 3 = 0 ∧ bits 1 63 56 = 0 ∧ fieldLE (1 :: List.replicate 31 (0 : Byte)) 0 8 = 1 ∧
      leNat (((1 :: List.replicate 31 (0 : Byte)).drop 12).take 20) = 0 ∧
      tabled.Maps (2 ^ 30) (bit 1 2) 5 (bits 1 55 12 * 2 ^ 12) (3, 0x11)) ∧
    (inserting.waitingFor (Task.insertOf 9) = [0] ∧ (∀ del, inserting.oldQueries 0 del = false) ∧
      ∃ t, SMap.find inserting.tasks 0 = some t ∧ (t.fin = none ∧ t.ending = none ∧ t.kill = none ∧ t.bad = none) ∧
        t.kind = .msg 0 insertMsg) ∧
    (switching.drainOf 0 false = 0 ∧ switching.waitingFor (Task.switchOf 0) = [0] ∧
      ∃ t, SMap.find switching.tasks 0 = some t ∧ t.fin = none ∧ t.ending = none ∧ t.kill = none ∧ t.bad = none) := by
  refine ⟨⟨_, _, rfl, rfl, ?_, ?_, ?_, rfl, ?_⟩, ⟨?_, rfl, ?_, ?_, ?_, ?_, ?_, returned, ?_⟩, ⟨_, rfl, rfl, rfl, ?_⟩,
    ⟨w_ctx, ?_, fun _ _ => no_walk_entry tabled rfl _ _ _ _, ?_, ?_, ?_, ?_, ?_, maps3⟩,
    ⟨?_, no_queries inserting rfl 0, _, rfl, ?_⟩, ?_, ?_, _, rfl, ?_⟩ <;> decide +kernel

theorem granted_free : granted.ServesNow 7 1 false ∧ granted.ServesNow 7 1 true := by
  simp only [State.ServesNow, State.LineFree]
  decide +kernel

theorem test_met_WorkBegins :
    let g := { (rdy.setFld (Reg.GKO_CFG 1) Reg.GKO_CFG_SLOTS 0) with
      tasks := [(0, { kind := .msg 0 ⟨hdr0, .ack, false⟩, src := .peer 1, ctx := 1 })],
      eng := { rdy.eng with queries := [{ sub := 0, shard := 0, qi := 0 }],
                            rows := [{ sub := 0, pos := 0, addr := 64 }, { sub := 0, pos := 1, addr := 128 }] } }
    let o := [0, 1].foldl (fun (s : State) b => sets s [(Reg.CADDY_OWN (1024 + b), Reg.CADDY_OWN_STATE, 1),
        (Reg.CADDY_OWN (1024 + b), Reg.CADDY_OWN_KIND, 2), (Reg.CADDY_OWN (1024 + b), Reg.CADDY_OWN_IDX, 1)])
      (sets g [(Reg.GKO_CFG 1, Reg.GKO_CFG_SLOTS, 1), (Reg.GKO_CFG 1, Reg.GKO_CFG_WORK, 2 ^ 31)])
    let n := (rdy.setTask 0 (task5 (desc0 0x34 0 0 0))).setNewt 0 { task := some 0, streams := [{ ring0 with begun := 1 }] }
    let r : EngReq := ⟨.steward, 7, 0, 64, 64⟩
    let m := maskOf ((List.range (List.replicate 64 (1 : Byte)).length).filter fun i => (List.replicate 64 true).getD i false)
    let halt := { rdy with ras := { rdy.ras with moduleContained := true } }
    o.nextQuery 1 = some { sub := 0, shard := 0, qi := 0 } ∧
    g.live = true ∧ (g.eng.rows[1]?).isSome = true ∧ g.rowFree 1 { sub := 0, pos := 1, addr := 128 } = true ∧
    n.newtReady 0 = true ∧ n.nextRing 0 = some 0 ∧ ((n.newt 0).streams[0]?).isSome = true ∧
    ring0.cursor < (1 + 1) * slotBytes ring0.bytes ∧ (∀ t ∈ n.tasks, t.2.kind = .desc 5 3 false false) ∧
    halt.ready = true ∧ halt.Quiet ∧
    granted.ready = true ∧ granted.ras.moduleContained = false ∧ granted.FreshTask ∧ granted.storeBefore 0 .steward = false ∧
    (∀ w, granted.homeCheck r.src r.ctx.toNat r.epoch.toNat (r.addr.toNat % 2 ^ 50) 64 w = .ok [(64, 64)] ∧
      granted.readmit r.ctx.toNat w [(64, 64)] = .ok) ∧
    (granted.meterCheck r.ctx.toNat (.task granted.nextTask false false) 64).2 = .pass false ∧
    popcount 64 m = 64 ∧ cut 64 64 64 = [(64, 64)] ∧ granted.linePoison 1 = false ∧
    granted.ServesNow r.ctx.toNat (64 / 64) false ∧ granted.ServesNow r.ctx.toNat (64 / 64) true := by
  simp only [State.FreshTask]
  refine ⟨?_, ?_, ?_, ?_, ?_, ?_, ?_, ?_, ?_, ?_, ?_, ?_, ?_, ?_, ?_, ?_, ?_, ?_, ?_, ?_, granted_free.1, granted_free.2⟩ <;> decide +kernel

theorem test_met_CombiningAndTimeouts :
    let c : Combine := { slice := 63, line := 0, off := 0, subop := 0, width := 4, val := 1, since := 0 }
    let s := fun (n : Nat) => { lined with combine := [(63 * 32 + 31, c)], tick := n }
    let f : Fan := { parts := [{ dst := 1, tag := 0, units := 1, at_ := 0 }], tmo := 3 }
    let d := { tasked { task5 (desc0 0x30 0 0 0) with wait := .reports } with tick := 3000, eng := { rdy.eng with fans := [(0, f)] } }
    (∀ n, SMap.find (s n).combine (63 * 32 + 31) = some c) ∧ (s 1999).tick < c.since + 2000 ∧ (s 1999).Quiet ∧
    c.since + 2000 ≤ (s 2000).tick ∧ (∀ x ∈ (s 2000).waitq, x.line ≠ 0) ∧ (s 2000).lineHeld 0 = false ∧
    SMap.find (s 2000).dir 0 = none ∧ ((s 2000).cell 0).isSome = true ∧ (s 2000).linePoison 0 = false ∧
    (∃ t, d.findDesc ⟨5, 3, false⟩ (fun t => t.fin.isNone) = some (0, t) ∧ t.wait = .reports) ∧
    SMap.find d.eng.fans 0 = some f ∧ f.tmo ≠ 0 ∧ ∃ p ∈ f.parts, p.answered = false ∧ p.at_ + 1000 * f.tmo ≤ d.tick := by
  refine ⟨fun _ => rfl, ?_, ?_, ?_, ?_, ?_, ?_, ?_, ?_, ⟨_, rfl, rfl⟩, ?_⟩ <;> decide +kernel

/-- Page 3 moving from HBM4 to LPDDR6 in slot 127, with chunks of a mask copied and of another held. -/
def moving (mask held again : Nat) : State :=
  { rdy with tier := { rdy.tier with
      pht := [(3, { st := .moving, tier := .hbm, frame := 0, slot := 127 })]
      slots := [(127, { page := 3, tier := .lpddr, frame := 1, mask := mask, held := held, again := again })] } }

theorem test_met_PageMoves :
    (∀ s ∈ [moving 0 0 0, moving 0 (2 ^ 15) 0, moving (2 ^ 15 - 1) (2 ^ 15) (2 ^ 15)],
      (SMap.find s.tier.slots 127).isSome = true ∧ (s.page 3).isSome = true ∧ s.dir = [] ∧ s.combine = [] ∧ s.tier.serving = [] ∧
      ∀ x ∈ s.tier.late, x.2.line / 4 ≠ 3 * 16 + 15) ∧
    (∀ i, i < 4 → SMap.get (moving 0 0 0).tier.poison (cellKey (dieOf (3 * 4096)) .hbm (0 * 4096 + 15 * 256) / 64 + i) false = false) ∧
    bit 0 15 = false ∧ bit (2 ^ 15) 15 = true ∧ putBit (2 ^ 15 - 1) 15 true = 2 ^ 16 - 1 ∧ putBit 0 15 true ≠ 2 ^ 16 - 1 ∧
    (moving 0 0 0).Quiet ∧ ((moving 0 0 0).tier.pht.filter fun e => e.1 = 3).length ≤ 1 := by decide +kernel

/-- One stalled fault, of token 6, whose record waits. -/
def stalled (w : Bool) : State :=
  let k : FaultTok := ⟨6, 1, 4096, 1, .read, 0, 0, 5, 0, w, 0, [0]⟩
  let s := (tasked { task5 (desc0 0x10 0 0 0) with wait := .fault }).setFld Reg.XLT_FQ_CFG Reg.XLT_FQ_CFG_TMO 2
  { s with tick := 2000, xlt := { s.xlt with toks := [k] }, ringq := [{ ring := 0, bytes := [], tok := 6 }] }

theorem test_met_FaultTokensRetire : rdy.mayWrite .steward Reg.XLT_FAULT_RESP.off = true ∧ rdy.findTok 6 = none ∧ rdy.Quiet ∧
    (∃ k, (stalled true).findTok (6 : BitVec 32).toNat = some k ∧ k.joined = [0] ∧ (SMap.find (stalled true).tasks 0).isSome = true ∧
      (stalled true).mayWrite .steward Reg.XLT_FAULT_RESP.off = true ∧
      (stalled true).fld Reg.XLT_FQ_CFG Reg.XLT_FQ_CFG_TMO ≠ 0 ∧
      k.since + 1000 * (stalled true).fld Reg.XLT_FQ_CFG Reg.XLT_FQ_CFG_TMO ≤ (stalled true).tick) := by
  refine ⟨?_, ?_, ?_, _, rfl, ?_⟩ <;> decide +kernel

theorem test_met_RecordRings :
    let s := (((stalled false).setFld Reg.XLT_FQ_BASE Reg.XLT_FQ_BASE_EN 1).setFld Reg.XLT_FQ_BASE Reg.XLT_FQ_BASE_HOSTMEM 1).setFld
      (Reg.HEAD_STAT 0) Reg.HEAD_STAT_IN_RESET 0
    let s := { s with heads := [(0, { bme := true })] }
    rdy.Quiet ∧ newFld Reg.XLT_FQ_BASE_EN 1 = 1 ∧ newFld Reg.XLT_FQ_BASE_EN 0 = 0 ∧
    (∀ k ∈ [0, 1, 2], rdy.mayWrite .steward (ringBase k).off = true ∧ rdy.flag (ringBase k) Reg.XLT_FQ_BASE_EN = false) ∧
    s.mayWrite .steward Reg.XLT_FQ_BASE.off = true ∧
    s.Quiet ∧ (∃ k ∈ s.xlt.toks, k.tok = (6 : BitVec 32).toNat ∧ k.written = false) ∧
    (∃ r, s.ringq = [r] ∧ r.ring = 0 ∧ r.alert = false) ∧ s.ringBusy.contains 0 = false ∧
    s.flag Reg.XLT_FQ_BASE Reg.XLT_FQ_BASE_EN = true ∧ s.ringRoom 0 = true ∧
    s.flag Reg.XLT_FQ_BASE Reg.XLT_FQ_BASE_HOSTMEM = true ∧ s.canDma (s.fld Reg.XLT_FQ_BASE Reg.XLT_FQ_BASE_HEAD) = true := by
  refine ⟨?_, ?_, ?_, ?_, ?_, ?_, ⟨_, List.mem_singleton.2 rfl, rfl, rfl⟩, ⟨_, rfl, rfl, rfl⟩, ?_⟩ <;> decide +kernel

/-- Host 5 behind head 2, with 2 MiB of extent 0 at its decoder, in region 0 of domain 1, context 7. -/
def hostReady : State :=
  let s := sets { homed with
      heads := [(2, { bme := true, decoders := [(0, ⟨0, 2 ^ 28, 1, 256, 0, 0⟩)] })]
      tier := { homed.tier with
        regions := [(0, (0, 2 ^ 21))]
        extents := [(0, { base := 0, len := 2 ^ 21, tag := 0, offered := 32, answered := 32, listed := 32, st := .accepted })]
        nextExt := 1 }
      sec := { homed.sec with regions := [(0, { valid := true, dom := 1, size := 1 })], grants := [(0, [⟨7, 7, 3⟩])] } }
    [(Reg.HEAD_STAT 2, Reg.HEAD_STAT_IN_RESET, 0), (Reg.HEAD_STAT 2, Reg.HEAD_STAT_CXLMEM, 1),
     (Reg.HEAD_HDM_CTX 2 0, Reg.HEAD_HDM_CTX_CTX, 7), (Reg.HOME_HOST 5, Reg.HOME_HOST_VALID, 1),
     (Reg.HOME_HOST 5, Reg.HOME_HOST_HEAD, 2), (Reg.ZL_IDENT, Reg.ZL_IDENT_SET, 1),
     (Reg.GLB_PART_CTL, Reg.GLB_PART_CTL_HEADS, 15), (Reg.HOME_CDOM_HOSTS 1, Reg.HOME_CDOM_HOSTS_HOSTS, 32)]
  s

/-- A message of that host for its first line. -/
def hm : HostMsg := ⟨2, 5, 0⟩

/-- Its line is held, and the directory lists it so. -/
def held (e : DirEnt) : State := { hostReady with dir := [(0, e)] }

/-- The same host in a domain that recovers. -/
def recovering : State := hostReady.setFld (Reg.HOME_CDOM_STATE 1) Reg.HOME_CDOM_STATE_STATE 1

/-- The host's context has meter 9, which delays what is yellow, with room for n requests to wait. -/
def metered (n : Nat) : State :=
  let s := sets hostReady [(Reg.QOS_MTR_CFG 9, Reg.QOS_MTR_CFG_EN, 1), (Reg.QOS_MTR_CFG 9, Reg.QOS_MTR_CFG_ACT_Y, 2),
    (Reg.QOS_MTR_CFG 9, Reg.QOS_MTR_CFG_DQ_MAX, n)]
  ({ s with qos := { s.qos with ctxMap := [(7, 9)] } } : State).setMeter 9 { cir := 1, xir := 1, cbs := 512, xbs := 512, tx := 512000 }

/-- As many requests wait at the line as its slice can hold. -/
def crowded : State := { hostReady with waitq := List.replicate 512 { line := 0, who := .fetch 4 } }

theorem test_met_HostRequestsServed :
    let no : Nat → Bool := fun _ => false
    let q := hostLineReq 5 2 .rdS 0 7
    let own : List State := [held { st := .m, owner := 5 }, held { st := .mInv, owner := 5, awaited := 32 }]
    hostOpOf (.memRd hm .s) = some (hm, .rdS) ∧ hostReady.memArrives 2 = true ∧ hostReady.Quiet ∧
    hostReady.live = true ∧ hostReady.hostKnown hm = true ∧
    (∀ w ∈ [false, true], hostReady.admitHost hm w no = .served 0 7 ∧ hostReady.admitHost hm w (hostReady.owns 5 ·) = .served 0 7 ∧
      (hostReady.setFld (Reg.HOME_HOST 5) Reg.HOME_HOST_DOWN 1).admitHost hm w no = .refused ∧
      recovering.admitHost hm w no = .recovering 0 ∧ crowded.admitHost hm w no = .served 0 7 ∧
      ∀ n ∈ [0, 4], (metered n).admitHost hm w no = .served 0 7) ∧
    hostReady.sliceFull 0 = false ∧ crowded.sliceFull 0 = true ∧ crowded.Quiet ∧ crowded.memArrives 2 = true ∧
    (hostReady.meterCheck 7 (.host q) 64).2 = .pass false ∧ ((metered 4).meterCheck 7 (.host q) 64).2 = .wait ∧
    (metered 4).delayFull 7 = false ∧ ((metered 0).meterCheck 7 (.host q) 64).2 = .wait ∧ (metered 0).delayFull 7 = true ∧
    (metered 0).Quiet ∧ (∀ n ∈ [0, 4], (metered n).memArrives 2 = true ∧ (metered n).sliceFull 0 = false) ∧
    hostReady.owns 5 0 = false ∧
    (∀ s ∈ own, s.owns 5 0 = true ∧ s.admitHost hm true (s.owns 5 ·) = .served 0 7 ∧ s.chunkHeld 0 = false ∧
      s.slowLine 0 = false ∧ (s.cell 0).isSome = true ∧ s.memArrives 2 = true) ∧
    (HostOp.wr fullMask [] false .i).lineOp.isSome = true ∧
    (held { st := .s, sharers := 32 }).admitHost hm false (fun _ => true) = .served 0 7 ∧ putBit 32 5 false = 0 ∧
    (held { st := .s, sharers := 33 }).admitHost hm false (fun _ => true) = .served 0 7 ∧ putBit 33 5 false ≠ 0 ∧
    (held { st := .m, owner := 5 }).admitHost hm false (fun _ => true) = .served 0 7 := by
  refine ⟨rfl, ?_, ?_, ?_, ?_, ?_, ?_, ?_, ?_, ?_, ?_, ?_, ?_, ?_, ?_, ?_, ?_, ?_, ?_, ?_⟩ <;> decide +kernel

/-- States of the line in the directory at which a request is taken, or held in the entry while others are snooped. -/
def entries : List State := [hostReady, held { st := .s, sharers := 32 }, held { st := .s, sharers := 2 ^ 63 + 33 },
  held { st := .m, owner := 5 }, held { st := .m, owner := 63 }]

theorem test_met_DirectoryTable :
    hostOpOf (.memRd hm .s) = some (hm, .rdS) ∧ hostOpOf (.memWrPtl hm .i 1 []) = some (hm, .wr 1 (fitBytes 64 []) false .i) ∧
    (∀ s ∈ entries, ∀ op ∈ [HostOp.rdS, .rdA, .rdI, .invA, .invN, .wr 1 (fitBytes 64 []) false .i],
      let q := hostLineReq 5 2 op 0 7
      s.memArrives 2 = true ∧ s.admitHost hm op.isWrite (fun l => op.stores && s.owns 5 l) = .served 0 7 ∧ s.sliceFull 0 = false ∧
      s.meterCheck 7 (.host q) 64 = (s, .pass false) ∧
      (s.waitq.any fun x => s.comesBefore x q) = false ∧ (s.cell 0).isSome = true ∧ s.lineHeld 0 = false ∧ s.slowLine 0 = false ∧
      s.combinesOf 0 = [] ∧ s.refusal q = none ∧ s.domainHolds q = false ∧ s.transients 0 < 256 ∧
      ((setBits 64 (2 ^ 63 + 1)).all fun g => decide (s.snoopsOut g < s.snoopMax)) = true) ∧
    hostReady.owns 5 0 = false ∧ SMap.find hostReady.dir 0 = none ∧ hostReady.makeRoom 0 = (hostReady, true) ∧
    putBit 32 5 false = 0 ∧ putBit (2 ^ 63 + 33) 5 false = 2 ^ 63 + 1 := by
  refine ⟨rfl, rfl, ?_, ?_⟩
  · decide +kernel
  · decide +kernel

theorem test_met_HostsAnswerSnoops :
    let s := held { st := .mData, owner := 5, awaited := 32 }
    s.memArrives 2 = true ∧ s.live = true ∧ s.hostKnown hm = true ∧ s.hostDecode 2 0 = some (0, 0) ∧
    (∃ e, SMap.find s.dir (0 / 64) = some e ∧ bit e.awaited 5 = true ∧ e.st = .mData) ∧ s.Quiet := by
  refine ⟨?_, ?_, ?_, ?_, ⟨_, rfl, ?_⟩, ?_⟩ <;> decide +kernel

theorem test_met_HostsGoDown :
    let s := { held { st := .m, owner := 5 } with tick := 10 ^ 9 }
    let w := { held { st := .mInv, owner := 5, awaited := 32 } with tick := 10 ^ 9 }
    s.memArrives 2 = true ∧ s.live = true ∧ s.hostKnown hm = true ∧
    w.flag (Reg.HOME_HOST 5) Reg.HOME_HOST_DOWN = false ∧
    (∃ x ∈ w.dir, bit x.2.awaited 5 = true ∧ x.2.since + w.snoopTicks ≤ w.tick) ∧
    s.mayWrite .steward (Reg.HOME_HOST 5).off = true ∧ s.secureVia .steward = true ∧
    s.flag (Reg.HOME_HOST 5) Reg.HOME_HOST_DOWN = false ∧ newFld Reg.HOME_HOST_DOWN (2 ^ 16) = 1 ∧
    (∃ e, SMap.find s.dir 0 = some e ∧ e.st = .m ∧ e.owner = 5 ∧ e.wrote = false) ∧
    (s.dir.filter fun x => x.1 = 0).length ≤ 1 ∧ (s.cell 0).isSome = true := by
  refine ⟨?_, ?_, ?_, ?_, ?_, ?_, ?_, ?_, ?_, ⟨_, rfl, ?_⟩, ?_⟩ <;> decide +kernel

theorem test_met_HostsAndDomainsReturn :
    let s := hostReady.setFld (Reg.HOME_HOST 5) Reg.HOME_HOST_DOWN 1
    let d := hostReady.setFld (Reg.HOME_CDOM_STATE 1) Reg.HOME_CDOM_STATE_STATE 2
    s.Quiet ∧ s.mayWrite .steward (Reg.HOME_HOST 5).off = true ∧ s.secureVia .steward = true ∧
    s.flag (Reg.HOME_HOST 5) Reg.HOME_HOST_DOWN = true ∧ s.hostRecovering 5 = false ∧
    s.flag (Reg.HOME_HOST 5) Reg.HOME_HOST_VALID = true ∧
    newFld Reg.HOME_HOST_DOWN 1 = 0 ∧ newFld Reg.HOME_HOST_VALID 1 = 1 ∧ newFld Reg.HOME_HOST_VALID 0 = 0 ∧
    d.mayWrite .steward (Reg.HOME_CDOM_STATE 1).off = true ∧ d.domState 1 = 2 ∧
    (∀ n, n < 64 → d.domLists 1 n = true → d.flag (Reg.HOME_HOST n) Reg.HOME_HOST_DOWN = false) ∧ d.domLists 1 5 = true ∧
    recovering.recoveryDone = true := by decide +kernel

/-- Extent 0 in a state, with the hosts that have answered and those that list it. -/
def ext0 (answered listed : Nat) (st : ExtState) : State :=
  { hostReady with tier := { hostReady.tier with
      extents := [(0, { base := 0, len := 2 ^ 21, tag := 0, offered := 96, answered := answered, listed := listed, st := st })] } }

theorem test_met_DynamicCapacity :
    (let s := hostReady
     s.Quiet ∧ s.fmServed = true ∧ wholeUnits (2 ^ 21) (2 ^ 21) = true ∧ 2 ^ 21 + 2 ^ 21 ≤ s.window ∧
     (∀ e ∈ s.tier.regions, e.1 ≠ 7 → meets (2 ^ 21) (2 ^ 21) e.2.1 e.2.2 = false) ∧
     (∀ e ∈ s.tier.extents, meets (SMap.get s.tier.regions 7 (0, 0)).1 (SMap.get s.tier.regions 7 (0, 0)).2 e.2.base e.2.len = false) ∧
     ({ s with tier := { s.tier with extents := [] } } : State).addOk 0 (2 ^ 21) 32 = true ∧ s.hostAt 2 5 = true) ∧
    (∀ s ∈ [ext0 0 0 .offered, ext0 64 0 .offered, ext0 64 64 .accepted],
      s.hostAt 2 5 = true ∧ s.fmServed = true ∧ ∃ x, SMap.find s.tier.extents 0 = some x ∧ bit x.offered 5 = true ∧
        bit x.answered 5 = false ∧ (x.st = .offered ∨ x.st = .accepted)) ∧
    putBit 64 5 true = 96 ∧ putBit 0 5 true ≠ 96 ∧
    (∀ s ∈ [ext0 96 32 .accepted, ext0 96 96 .accepted],
      s.hostAt 2 5 = true ∧ ∃ x, SMap.find s.tier.extents 0 = some x ∧ x.st = .accepted ∧ bit x.listed 5 = true) ∧
    (let s := ext0 96 0 .draining
     s.Quiet ∧ ∃ x, SMap.find s.tier.extents 0 = some x ∧ x.st = .draining ∧ (∀ e ∈ s.dir, x.hasLine e.1 = false) ∧
       (∀ r ∈ s.waitq, x.hasLine r.line = false) ∧ (∀ e ∈ s.tier.late, x.hasLine e.2.line = false) ∧ s.tier.serving = [] ∧
       s.combine = []) ∧
    (let s := ext0 96 0 .scrubbing
     ∃ x, SMap.find s.tier.extents 0 = some x ∧ x.st = .scrubbing ∧ x.hasLine (0 * 64) = true ∧ s.tier.slow = [] ∧ s.tier.late = [] ∧
       (∀ n e, s.page n = some e → e.st = .resident) ∧ ∃ e, s.tier.pht = [(0, e)] ∧ s.page 0 = some e) := by
  refine ⟨?_, ?_, ?_, ?_, ?_, ⟨?_, _, rfl, ?_⟩, _, rfl, ?_, ?_, rfl, rfl, ?_, _, rfl, rfl⟩
  · decide +kernel
  · intro s h
    fin_cases h <;> refine ⟨?_, ?_, _, rfl, ?_⟩ <;> decide +kernel
  · decide
  · decide
  · intro s h
    fin_cases h <;> refine ⟨?_, _, rfl, ?_⟩ <;> decide +kernel
  · decide
  · decide
  · decide
  · decide
  · intro n e h
    have h : SMap.find lined.tier.pht n = some e := h
    by_cases hn : n = 0
    · subst hn; exact (Option.some.inj (h.symm.trans rfl)) ▸ rfl
    · simp [lined, SMap.find, Ne.symm hn] at h

theorem test_met_TierAccessesAndRetirement :
    let s := { homed with tick := 10 ^ 9, tier := { homed.tier with slow := [(1, 0)], late := [(4, ⟨0, .fetch 5, 0⟩), (5, ⟨0, .scrub, 0⟩)] } }
    let p := { rdy with tier := { rdy.tier with paused := [obj 1 3, obj 2 31] } }
    let r := { rdy with ras := { rdy.ras with health := [((obj 1 3).code, { st := 2 })] } }
    (∃ a, SMap.find s.tier.late 4 = some a ∧ a.who.lineOp = some .read ∧ a.who ≠ .scrub ∧ (s.cell (a.line * 64)).isSome = true ∧
      ∃ t q ch, s.lineDevice a.line = some (t, q, ch) ∧ a.at_ + s.tierTicks t ≤ s.tick) ∧
    (∃ a, SMap.find s.tier.late 5 = some a ∧ a.who = .scrub) ∧ rdy.power = 1 ∧ rdy.Quiet ∧
    (∀ x ∈ [obj 1 3, obj 2 31], p.tier.paused.contains x = true) ∧ 0 < p.freeCount (3 / 4) .lpddr ∧
    0 < p.freeCount (31 / 16) .hbm ∧ (r.health (obj 1 3)).st = 2 ∧ r.retireReady (obj 1 3) = true := by
  refine ⟨⟨_, rfl, rfl, ?_, ?_, _, _, _, rfl, ?_⟩, ⟨_, rfl, rfl⟩, ?_⟩ <;> decide +kernel

/-- A word of register fields. -/
def word (l : List (Fld × Nat)) : Word := BitVec.ofNat 64 (l.foldl (fun v x => x.1.put v x.2) 0)

/-- Right after reset no engine owns a bank or runs work. -/
theorem engines_idle (e : Eng) : rdy.engineIdle e = true := by
  have h : (List.range 2048).all (fun b => decide (rdy.own b Reg.CADDY_OWN_STATE = 0) ||
      decide (3 < rdy.own b Reg.CADDY_OWN_KIND ∧ rdy.own b Reg.CADDY_OWN_KIND < 7)) = true := by decide +kernel
  have k : ownerKind e.kind ≤ 3 ∨ ownerKind e.kind = 7 := by cases e with | mk k i => cases k <;> simp [ownerKind]
  have t : rdy.tasks = [] := rfl
  have p : rdy.pad.handovers = [] := rfl
  have q : rdy.ownsBank e = false := by
    rw [State.ownsBank, List.any_eq_false]
    intro b hb
    have := List.all_eq_true.1 h b hb
    simp only [p, SMap.find, Bool.or_eq_true, decide_eq_true_eq] at this ⊢
    simp only [Bool.and_eq_true, Bool.or_eq_true, decide_eq_true_eq, Bool.false_eq_true,
      or_false, not_and]
    omega
  simp [State.engineIdle, t, q]

theorem test_met_StoreSettings :
    let s := lined
    let t := s.writePlain true Reg.TIER_PHT_CFG [] 1
    rdy.mayWrite .steward Reg.TIER_PHT_CFG.off = true ∧ rdy.secureVia .steward = true ∧ rdy.Quiet ∧ rdy.tier.pht = [] ∧
    rdy.windowFits (rdy.writePlain true Reg.TIER_PHT_CFG [] (rdy.reg Reg.TIER_PHT_CFG)) = true ∧
    s.mayWrite .steward Reg.TIER_PHT_CFG.off = true ∧ s.tier.pht ≠ [] ∧ t.tier = s.tier ∧
    s.mayWrite .steward Reg.TIER_MAP_EPOCH.off = true ∧
    newFld Reg.TIER_MAP_EPOCH_NEXT (word [(Reg.TIER_MAP_EPOCH_NEXT, 1)]) = (s.epoch + 1) % 2 ^ 32 ∧
    newFld Reg.TIER_MAP_EPOCH_NEXT (word [(Reg.TIER_MAP_EPOCH_NEXT, 2)]) ≠ (s.epoch + 1) % 2 ^ 32 ∧
    s.mayWrite .steward Reg.TIER_CMTR_SEL.off = true ∧ s.mayWrite .steward Reg.EMB_DRAIN_SEL.off = true ∧
    s.tier.ptickAt + 2 ^ 20 ≤ { s with tick := 2 ^ 20 }.tick := by decide +kernel

theorem test_met_PartitionAndUnits :
    let hall := rdy.setFld Reg.GLB_PART_CTL Reg.GLB_PART_CTL_HALL 1
    let lock := rdy.setFld Reg.GLB_LOCK Reg.GLB_LOCK_UNITS 1
    (rdy.Quiet ∧ (∀ r ∈ [Reg.GLB_PART_CTL, Reg.GLB_UNIT_DIS, Reg.GLB_LOCK], rdy.mayWrite .steward r.off = true) ∧
    rdy.secureVia .steward = true ∧ rdy.flag Reg.GLB_PART_CTL Reg.GLB_PART_CTL_HALL = false ∧
    hall.Quiet ∧ hall.mayWrite .steward Reg.GLB_PART_CTL.off = true ∧ hall.flag Reg.GLB_PART_CTL Reg.GLB_PART_CTL_HALL = true ∧
    newFld Reg.GLB_PART_CTL_HALL 0 = 0 ∧ rdy.flag Reg.GLB_LOCK Reg.GLB_LOCK_UNITS = false ∧
    newFld Reg.GLB_LOCK_UNITS (word [(Reg.GLB_LOCK_UNITS, 1)]) = 1 ∧ lock.Quiet ∧
    lock.flag Reg.GLB_LOCK Reg.GLB_LOCK_UNITS = true ∧ rdy.secureVia (.head 0) = false) ∧ ∀ e, rdy.engineIdle e = true :=
  ⟨by decide +kernel, engines_idle⟩

theorem test_met_MailboxAndDoe : hostReady.Quiet ∧ hostReady.headUp 2 = true ∧ hostReady.ras.romOnly = false ∧
    mailboxOps.contains (0x4000 : BitVec 16).toNat = true ∧ mailboxOps.contains (0x4804 : BitVec 16).toNat = false ∧
    hostReady.decoderOk ⟨0, 2 ^ 28, 1, 256, 0, 0⟩ = true ∧ hostReady.decoderOk ⟨0, 2 ^ 28, 3, 256, 0, 0⟩ = false := by
  decide +kernel

theorem test_met_SpdmRequests :
    let on := fun (x : Spdm) => rdy.setSpdm .i3c x
    rdy.Quiet ∧ rdy.transportUp .i3c = true ∧ rdy.mctpOpen .i3c = true ∧ rdy.power ≠ 2 ∧
    hostReady.transportUp (.doe 2) = true ∧ (on { version := true }).spdmOf .i3c = { version := true } ∧
    ((on { caps := true }).spdmOf .i3c).caps = true ∧ ((on { algs := true }).spdmOf .i3c).algs = true ∧
    ((on { handshake := true }).spdmOf .i3c).handshake = true ∧ ((on { session := true }).spdmOf .i3c).session = true ∧
    rdy.spdmOf .i3c = {} ∧ (on { session := true }).transportUp .i3c = true ∧ (on { session := true }).Quiet ∧
    offerOk ⟨true, true, true, true, true⟩ = true ∧ offerOk ⟨true, false, true, true, true⟩ = false := by decide +kernel

theorem test_met_IdeAndMctp :
    let s := hostReady.setSpdm (.doe 2) { session := true }
    let k := { s with heads := [(2, { ideKeys := 1 })] }
    let i := rdy.setFld (Reg.HEAD_STAT 1) Reg.HEAD_STAT_IDE_IO 1
    let j := hostReady.setFld (Reg.HEAD_STAT 2) Reg.HEAD_STAT_IDE_MEM 1
    s.Quiet ∧ s.headUp 2 = true ∧ s.headSession 2 = true ∧ k.headUp 2 = true ∧ k.headSession 2 = true ∧
    bit (k.head 2).ideKeys false.toNat = true ∧
    i.headStat 1 (ideFld false) = 1 ∧ i.hostsBehind 1 = [] ∧ j.headStat 2 (ideFld true) = 1 ∧ j.hostsBehind 2 = [5] ∧
    j.flag (Reg.HOME_HOST 5) Reg.HOME_HOST_DOWN = false ∧ rdy.transportUp .i3c = true ∧ rdy.mctpOpen .i3c = true ∧ rdy.Quiet ∧
    mctpAccepts .i3c .fmApi = true ∧ mctpAccepts .i3c (.other 9) = false ∧
    (hostReady.setFld (Reg.HEAD_CFG 2) Reg.HEAD_CFG_VDM_MCTP 0).mctpOpen (.vdm 2) = false ∧ hostReady.transportUp (.vdm 2) = true := by
  decide +kernel

theorem test_met_HeadConfiguration :
    let r := { hostReady with heads := [(2, { refusedIn := some 0 })], tick := 2 ^ 30 }
    hostReady.Quiet ∧ hostReady.headUp 2 = true ∧ State.reset.Quiet ∧ State.reset.power = 0 ∧ (r.head 2).refusedIn = some 0 ∧ 0 < r.tick / 2 ^ 30 := by
  decide +kernel

theorem test_met_HeadResetsAndReads :
    let s := { tasked { task5 (desc0 0x10 0 0 0) with wait := .dma } with
      tick := 10 ^ 9, dmas := [(4, ⟨2, 0, 64, .fetch 5, 0⟩), (6, ⟨2, 0, 64, .task 0 .read, 0⟩)] }
    let h := rdy.setFld (Reg.HEAD_STAT 1) Reg.HEAD_STAT_IN_RESET 0
    h.headStat 1 Reg.HEAD_STAT_IN_RESET = 0 ∧ h.hostsBehind 1 = [] ∧
    rdy.headStat 1 Reg.HEAD_STAT_IN_RESET = 1 ∧ rdy.power ≠ 0 ∧ rdy.power ≠ 4 ∧
    (∃ d, SMap.find s.dmas 4 = some d ∧ d.who = .fetch 5) ∧
    (∃ d, SMap.find s.dmas 6 = some d ∧ d.who = .task 0 .read ∧
      d.at_ + 1000 * max 1 (s.fld Reg.TIER_TMO Reg.TIER_TMO_HOST) ≤ s.tick) ∧ (SMap.find s.tasks 0).isSome = true := by
  refine ⟨?_, ?_, ?_, ?_, ?_, ⟨_, rfl, rfl⟩, ⟨_, rfl, rfl, ?_⟩, ?_⟩ <;> decide +kernel

theorem test_met_WorldsGrantsFirmware :
    let lock := rdy.setFld Reg.SEC_CFG Reg.SEC_CFG_WLOCK 1
    let busy := rdy.setFld (Reg.SEC_GRANT.world true) Reg.SEC_GRANT_BUSY 1
    let g := { rdy with sec := { rdy.sec with pendGrant := [(worldKey false, (4095, ⟨1, 1, 3⟩))] } }
    ((∀ r ∈ [Reg.SEC_WORLD_MISC, Reg.SEC_WORLD_ENG, Reg.SEC_CFG, Reg.SEC_GRANT, Reg.SEC_FW_CTL],
      rdy.mayWrite .steward r.off = true ∧ lock.mayWrite .steward r.off = true) ∧ rdy.secureVia .steward = true ∧
    rdy.wlock = false ∧ lock.wlock = true ∧ rdy.Quiet ∧ lock.Quiet ∧
    newFld Reg.SEC_CFG_WLOCK (word [(Reg.SEC_CFG_WLOCK, 1)]) = 1 ∧
    newFld Reg.SEC_GRANT_GO (word [(Reg.SEC_GRANT_GO, 1), (Reg.SEC_GRANT_CTX_LO, 7), (Reg.SEC_GRANT_CTX_HI, 7)]) = 1 ∧
    rdy.flag (Reg.SEC_GRANT.world true) Reg.SEC_GRANT_BUSY = false ∧ busy.flag (Reg.SEC_GRANT.world true) Reg.SEC_GRANT_BUSY = true ∧
    busy.mayWrite .steward Reg.SEC_GRANT.off = true ∧ busy.Quiet ∧
    SMap.find g.sec.pendGrant (worldKey false) = some (4095, ⟨1, 1, 3⟩) ∧ rdy.power ≠ 0 ∧ rdy.power ≠ 2 ∧
    Transport.steward .i3c = true ∧ rdy.ras.romOnly = false ∧ rdy.imageCause firstImage = 0 ∧ rdy.imageCause { firstImage with sigOk := false } ≠ 0) ∧
    ∀ e, rdy.engineIdle e = true :=
  ⟨by decide +kernel, engines_idle⟩

theorem test_met_RegionsAndKeys :
    let staged := rdy.setFld (Reg.SEC_RGN_RANGE.world true) Reg.SEC_RGN_RANGE_SIZE 1
    let staged := staged.setFld (Reg.SEC_RGN_CFG.world true) Reg.SEC_RGN_CFG_VALID 1
    let v := word [(Reg.SEC_RGN_SEL_COMMIT, 1), (Reg.SEC_RGN_SEL_REGION, 4095)]
    let bad := rdy.setFld (Reg.SEC_RGN_CFG.world true) Reg.SEC_RGN_CFG_VALID 1
    let p := { rdy with sec := { rdy.sec with pendRgn := [(worldKey true, (4095, { valid := true, size := 1 }))],
                                              keys := [(7, ⟨1, true⟩)] } }
    (∀ r ∈ [Reg.SEC_RGN_SEL, Reg.SEC_KEY_CTL], rdy.mayWrite .steward r.off = true ∧ bad.mayWrite .steward r.off = true ∧
      staged.mayWrite .steward r.off = true ∧ p.mayWrite .steward r.off = true) ∧
    newFld Reg.SEC_RGN_SEL_COMMIT 0 = 0 ∧ newFld Reg.SEC_RGN_SEL_COMMIT v = 1 ∧
    bad.refusesCommit true 4095 (bad.stagedRegion true) = true ∧ bad.Quiet ∧
    staged.refusesCommit true 4095 (staged.stagedRegion true) = false ∧
    SMap.find p.sec.pendRgn (worldKey true) = some (4095, { valid := true, size := 1 }) ∧
    p.heldLines (p.regionAt 4095) { valid := true, size := 1 } = [] ∧
    p.dueCombines (p.regionAt 4095) { valid := true, size := 1 } = [] ∧
    newFld Reg.SEC_KEY_CTL_GO 7 = 0 ∧ rdy.Quiet ∧
    newFld Reg.SEC_KEY_CTL_OP (word [(Reg.SEC_KEY_CTL_GO, 1), (Reg.SEC_KEY_CTL_OP, 1)]) = 1 ∧
    newFld Reg.SEC_KEY_CTL_OP (word [(Reg.SEC_KEY_CTL_GO, 1), (Reg.SEC_KEY_CTL_OP, 2)]) = 2 ∧
    SMap.find rdy.sec.keys 7 = none ∧ (SMap.find p.sec.keys 7).isSome = true ∧ p.keyUsers 7 = 0 ∧ p.secureVia .steward = true := by
  decide +kernel

theorem test_met_ScratchpadBanks :
    let go := word [(Reg.CADDY_OWN_GO, 1), (Reg.CADDY_OWN_NEXT_KIND, 1), (Reg.CADDY_OWN_NEXT_IDX, 15)]
    let h := { rdy with pad := { rdy.pad with handovers := [(2047, ⟨7, 0, true⟩)] } }
    let auto := rdy.setFld Reg.CADDY_REPAIR_CFG Reg.CADDY_REPAIR_CFG_AUTO 1
    let auto := { auto with pad := { auto.pad with ces := [(2047, 2 ^ 16)] } }
    let bad := fun (s : State) (b : Nat) => { s with ras := { s.ras with health := [((obj 3 b).code, { st := 2 })] } }
    let k5 := bad rdy 952
    rdy.mayWrite .steward (Reg.CADDY_OWN 0).off = true ∧ newFld Reg.CADDY_OWN_GO go = 1 ∧
    newFld Reg.CADDY_OWN_NEXT_IDX go = 15 ∧ rdy.refusesHandover 0 1 15 false = false ∧
    rdy.refusesHandover 0 4 0 false = true ∧ rdy.Quiet ∧ newFld Reg.CADDY_OWN_GO (word [(Reg.CADDY_OWN_WORLD, 1)]) = 0 ∧
    newFld Reg.CADDY_OWN_WORLD (word [(Reg.CADDY_OWN_WORLD, 1)]) ≠ rdy.own 0 Reg.CADDY_OWN_WORLD ∧
    rdy.own 0 Reg.CADDY_OWN_STATE = 0 ∧ SMap.find h.pad.handovers 2047 = some ⟨7, 0, true⟩ ∧
    auto.flag Reg.CADDY_REPAIR_CFG Reg.CADDY_REPAIR_CFG_AUTO = true ∧ 0 < auto.pad.fuses0 ∧ 0 < auto.pad.fuses1 ∧
    (auto.pad.repaired.filter fun x => x.1 = 2047 && x.2.1 = 15).length < 4 ∧ (2047, 15, 0) ∉ auto.pad.repaired ∧ auto.columnReached 2047 = true ∧
    ((bad rdy 0).health (obj 3 0)).st = 2 ∧ (bad rdy 0).own 0 Reg.CADDY_OWN_STATE ≠ 3 ∧ (bad rdy 0).own 0 Reg.CADDY_OWN_KIND = 7 ∧
    (k5.health (obj 3 952)).st = 2 ∧ k5.own 952 Reg.CADDY_OWN_STATE = 1 ∧
    (k5.own 952 Reg.CADDY_OWN_KIND = 5 ∨ k5.own 952 Reg.CADDY_OWN_KIND = 6) ∧ k5.spareBank 0 = some 0 ∧
    rdy.flag Reg.CADDY_STATUS Reg.CADDY_STATUS_READY = false ∧ rdy.running = true := by decide +kernel

/-- A READY module in which Kettle 31 runs a descriptor of queue 5. -/
def working : State :=
  { sets (tasked { task5 (desc0 0x34 0 0 0) with eng := some ⟨.kettle, 31⟩ }) [(Reg.RAS_CFG, Reg.RAS_CFG_ENG_WDT, 1)] with
    ras := { rdy.ras with contained := [obj 0x12 4095] } }

theorem test_met_Containment :
    let go := fun (a sc o : Nat) => word [(Reg.RAS_CONTAIN_GO, 1), (Reg.RAS_CONTAIN_ACTION, a), (Reg.RAS_CONTAIN_SCOPE, sc),
      (Reg.RAS_CONTAIN_OBJECT, o)]
    let late := { working with tick := 10 ^ 6,
                               tasks := [(0, { task5 (desc0 0x34 0 0 0) with eng := some ⟨.mover, 0⟩ })] }
    working.mayWrite .steward Reg.RAS_CONTAIN.off = true ∧
    (∀ x ∈ [(1, 4, (obj 5 31).code), (1, 5, (obj 0x12 0).code), (1, 6, (obj 0x13 0).code), (1, 7, (obj 0x20 0).code),
        (2, 5, (obj 0x12 4095).code)],
      newFld Reg.RAS_CONTAIN_GO (go x.1 x.2.1 x.2.2) = 1 ∧ newFld Reg.RAS_CONTAIN_ACTION (go x.1 x.2.1 x.2.2) = x.1 ∧
      newFld Reg.RAS_CONTAIN_SCOPE (go x.1 x.2.1 x.2.2) = x.2.1 ∧
      working.refusesGo true x.2.1 x.1 (partOf (newFld Reg.RAS_CONTAIN_OBJECT (go x.1 x.2.1 x.2.2))) = false) ∧
    working.secureVia .steward = true ∧ engOf (obj 5 31) = some ⟨.kettle, 31⟩ ∧ working.isContained (obj 5 31) = false ∧
    working.isContained (obj 0x12 0) = false ∧ working.isContained (obj 0x12 4095) = true ∧ working.ras.actions = [] ∧
    working.ras.moduleContained = false ∧ (working.tasks.filter fun x => x.1 = 0).length ≤ 1 ∧ working.qState 5 = 1 ∧
    (∃ t, SMap.find working.tasks 0 = some t ∧ t.kind = .desc 5 3 false false ∧ t.eng = some ⟨.kettle, 31⟩ ∧ t.fin = none ∧
      t.kill = none ∧ t.ending = none) ∧
    working.fld Reg.RAS_CFG Reg.RAS_CFG_ENG_WDT ≠ 0 ∧ working.live = true ∧
    us (1000 * late.fld Reg.RAS_CFG Reg.RAS_CFG_ENG_WDT) = 10 ^ 6 ∧ 10 ^ 6 ≤ late.tick ∧
    late.noProgress ⟨.mover, 0⟩ (late.tick - 10 ^ 6) = true ∧ late.present ⟨.mover, 0⟩ = true := by
  refine ⟨?_, ?_, ?_, ?_, ?_, ?_, ?_, ?_, ?_, ?_, ?_, ⟨_, rfl, rfl, rfl, rfl, rfl, rfl⟩, ?_⟩ <;> decide +kernel

theorem test_met_HealthAndRecorder :
    let good := rdy.health (obj 1 3)
    let s := { rdy with tick := 20 * 10 ^ 9, ras := { rdy.ras with open_ := [⟨4, 0, 0, 1, 0, 0, 0, 9, 0, 1, 0, 0, 0⟩],
                                                                   health := [((obj 1 3).code, { score := 512 })] } }
    let l := { rdy with fab := { rdy.fab with lasers := [(7, { bias0 := 100, secs := 60 })] } }
    engOf (obj 1 3) = none ∧ eventWeight 1 .ue = 64 ∧ good.st = 0 ∧ good.score + 256 * 64 < rdy.advisePoint 1 ∧ rdy.advisePoint 1 < rdy.retirePoint 1 ∧
    rdy.retirePoint 1 < 2 ^ 32 ∧ rdy.autoRetire 1 = true ∧ rdy.advisePoint 1 ≤ rdy.advisePoint 1 - 256 + 256 * eventWeight 1 .ce ∧
    s.ras.healthAt < s.opSec ∧ (s.ras.health.filter fun e => e.1 = (obj 1 3).code).length = 1 ∧
    (∀ e ∈ s.ras.health, e.1 < 2 ^ 32) ∧ (s.health (obj 1 3)).st ≠ 3 ∧
    l.fld (Reg.ZL_LSR 7) Reg.ZL_LSR_STATE ≠ 4 ∧ 60 ≤ (SMap.get l.fab.lasers 7 {}).secs ∧
    rdy.Quiet ∧ rdy.mayWrite .steward Reg.RAS_HEALTH_SEL.off = true ∧ rdy.mayWrite .steward Reg.EVR_RD.off = true ∧
    (∃ r, s.ras.open_.find? (fun r => r.seq = 4) = some r ∧ r.tick + 2 ^ 30 ≤ s.tick) ∧ SMap.find s.flash.records 4 = none ∧
    s.ras.counterAt + 16 ≤ s.opSec ∧ s.Quiet ∧ (SMap.find recorded.flash.records 4).isSome = true ∧
    newFld Reg.EVR_RD_INDEX 4 = 4 ∧ recorded.mayWrite .steward Reg.EVR_RD.off = true ∧ recorded.Quiet := by
  refine ⟨?_, ?_, ?_, ?_, ?_, ?_, ?_, ?_, ?_, ?_, ?_, ?_, ?_, ?_, ?_, ?_, ?_, ⟨_, rfl, ?_⟩, ?_⟩ <;> decide +kernel

/-- A message to this module from module 1 waits first at port 0 of a module that also runs that module's subrequest 9. -/
def arrived (b : Body) (h : MsgHdr) : State :=
  let w : Msg := ⟨{ hdr0 with seq := 9 }, .subreq (.gkoDelete 0 0 false []), false⟩
  { rdy.setPort 0 { rx := [⟨h, b, false⟩], given := [0, 0, 0, 0, 0, 0, 0, 0] } with
    tasks := [(0, { kind := .msg 0 w, src := .peer 1, ctx := 1 })], nextTask := 1 }

theorem test_met_MessagesServed :
    let acc := { hdr0 with src := 4, srcAcc := true }
    let q := sets (arrived (.doorbell 5 false 63) acc) [(Reg.GLB_PART_MEMBERS, Reg.GLB_PART_MEMBERS_ACCEL, 16),
      (Reg.Q_CFG 5, Reg.Q_CFG_FAB_DB, 1), (Reg.Q_CFG 5, Reg.Q_CFG_DB_POS, 4)]
    hdr0.dstRack.toNat = rdy.rack ∧ hdr0.dst.toNat = rdy.module ∧
    (∀ b ∈ [.rd 0 64, .subreq (.gkoDelete 0 0 false []), .wr 0 [1], .wrMasked 0 1 [1], .atom 0 0 4 1 0, .streamReset 7, .cancel 9],
      (arrived b hdr0).Arrives 0 ⟨hdr0, b, false⟩ ∧ (arrived b hdr0).gatewayHome 0 ⟨hdr0, b, false⟩ = none) ∧
    ((arrived .ack hdr0).inStream hdr0).expect = hdr0.seq.toNat ∧ ((arrived .ack hdr0).inStream hdr0).busy = false ∧
    ((arrived .ack hdr0).inStream hdr0).held = [] ∧
    (∀ h ∈ [{ hdr0 with seq := 1 }, { hdr0 with seq := 2 ^ 23 - 1 }], (arrived (.wr 0 [1]) h).Arrives 0 ⟨h, .wr 0 [1], false⟩ ∧
      (arrived (.wr 0 [1]) h).heldEarly < 8192 ∧ (h.seq.toNat + 2 ^ 24 - 0) % 2 ^ 24 < 2 ^ 23 ∧
      (h.seq.toNat + 2 ^ 24 - 0) % 2 ^ 24 ≠ 0) ∧
    (let h := { hdr0 with seq := 2 ^ 23 }
     (arrived (.wr 0 [1]) h).Arrives 0 ⟨h, .wr 0 [1], false⟩ ∧ 2 ^ 23 ≤ (h.seq.toNat + 2 ^ 24 - 0) % 2 ^ 24) ∧
    q.Arrives 0 ⟨acc, .doorbell 5 false 63, false⟩ ∧
    bit (q.fld Reg.GLB_PART_MEMBERS Reg.GLB_PART_MEMBERS_ACCEL) acc.src.toNat = true ∧
    q.fld (Reg.Q_CFG 5) Reg.Q_CFG_FAB_DB ≠ 0 ∧ q.fld (Reg.Q_CFG 5) Reg.Q_CFG_DB_POS = acc.src.toNat ∧
    q.fld (Reg.Q_CFG 5) Reg.Q_CFG_WORLD ≠ 1 ∧ 63 < q.sqLen 5 ∧ 63 < q.cqLen 5 ∧ q.sqLen 5 ≤ 64 ∧ q.cqLen 5 ≤ 64 ∧
    (arrived (.doorbell 5 false 63) hdr0).Arrives 0 ⟨hdr0, .doorbell 5 false 63, false⟩ ∧
    ∃ t, SMap.find (arrived (.cancel 9) hdr0).tasks 0 = some t ∧ t.fin = none ∧ t.ending = none ∧ t.kill = none := by
  refine ⟨?_, ?_, ?_, ?_, ?_, ?_, ?_, ?_, ?_, ?_, ?_, ?_, ?_, ?_, ?_, ?_, ?_, ?_, _, rfl, rfl, rfl, rfl⟩ <;>
    first | decide +kernel | (simp only [State.Arrives]; decide +kernel)

/-- What an answer answers. -/
def asked : Body → Body
  | .atomResult _ => .atom 0 0 4 1 0
  | .rdData _ => .rd 0 64
  | _ => .wr 0 [1]

theorem test_met_AnswersAndTransit :
    let o := fun (b : Body) => ({ store := b != .rdData [1], dst := 1, stream := 0, seq := 0, msg := ⟨hdr0, asked b, false⟩,
                                  first := 0, last := 0, path := 0, task := some 0 } : OutMsg)
    let s := fun (b : Body) => { arrived b hdr0 with fab := { (arrived b hdr0).fab with outs := [o b] } }
    let f : Fan := { parts := [{ dst := 1, tag := 0, units := 1, at_ := 0 }] }
    let r := { arrived (.report (.update 1 .ok false)) hdr0 with eng := { rdy.eng with fans := [(0, f)] } }
    let h2 := { hdr0 with dst := 2 }
    let t := fun (b : Body) => sets (arrived b h2)
      [(Reg.GLB_PART_MEMBERS, Reg.GLB_PART_MEMBERS_MODULES, 7), (Reg.ZL_PORT_STAT 1, Reg.ZL_PORT_STAT_STATE, 3)]
    (∀ b ∈ [.rdData [1], .ack, .refuse .prot, .atomResult 1], (s b).Arrives 0 ⟨hdr0, b, false⟩ ∧
      (s b).answered ⟨hdr0, b, false⟩ = [o b] ∧ (SMap.find (s b).tasks 0).isSome = true) ∧
    r.Arrives 0 ⟨hdr0, .report (.update 1 .ok false), false⟩ ∧
    (r.eng.fans.find? fun e => e.2.parts.any fun x => decide (x.dst = hdr0.src.toNat ∧ x.tag = hdr0.seq.toNat)) = some (0, f) ∧
    (f.parts.findIdx fun x => decide (x.dst = hdr0.src.toNat ∧ x.tag = hdr0.seq.toNat)) = 0 ∧
    ∀ b ∈ [.rd 0 64, .wr 0 [1], .wrMasked 0 1 [1], .atom 0 0 4 1 0, .doorbell 0 false 0, .streamReset 0,
        .subreq (.gkoDelete 0 0 false []), .cancel 0],
      (t b).Quiet ∧ (t b).Arrives 0 ⟨h2, b, false⟩ ∧ h2.dstRack.toNat = (t b).rack ∧ h2.dst.toNat ≠ (t b).module ∧
      h2.srcRack.toNat = (t b).rack ∧ h2.srcAcc = false ∧ (t b).member h2.src.toNat = true ∧ (t b).member h2.dst.toNat = true ∧
      (t b).portUp ((t b).peerPort h2.dst.toNat) = true := by
  simp only [State.Arrives]
  decide +kernel

/-- Fields of port n. -/
def ported (n : Nat) (l : List (Fld × Nat)) : State := sets rdy (l.map fun x => (Reg.ZL_PORT_STAT n, x.1, x.2))

theorem test_met_LinkAndResends :
    let s := (ported 0 [(Reg.ZL_PORT_STAT_STATE, 3)]).setPort 0 { expect := 2 ^ 14 - 1 }
    let f : Flit := { fseq := BitVec.ofNat 14 (2 ^ 14 - 1), ack := 0, nak := false, idle := false, intact := true, msgs := [] }
    let m : Msg := ⟨hdr0, .ack, false⟩
    let x := (ported 0 [(Reg.ZL_PORT_STAT_STATE, 3)]).setPort 0 { tx := [(0, m)], total := List.replicate 8 100,
                                                                  last := List.replicate 8 0 }
    let o : OutMsg := { store := true, dst := 1, stream := 63, seq := 5, msg := m, first := 0, last := 0, path := 4, task := some 0 }
    let r := { x with tick := 10 ^ 12, fab := { x.fab with outs := [o] }, tasks := [(0, task5 [])] }
    let og := { o with gw := some (0, m), path := 0 }
    let g := { sets r [(Reg.ZL_PORT_STAT (rdy.peerPort 1), Reg.ZL_PORT_STAT_STATE, 3)] with fab := { r.fab with outs := [og] } }
    s.portHears 0 = true ∧ f.fseq.toNat = (s.port 0).expect ∧ s.Quiet ∧ (s.port 0).total = [] ∧ (x.port 0).total ≠ [] ∧
    x.portUp 0 = true ∧ (SMap.get x.qos.sending 0 (0, 0)).2 ≤ x.tick ∧ (x.port 0).replay.length < replayMax 0 ∧
    ([1, 3, 5, 7, 0, 2, 4, 6].findSome? fun v => (x.sendable 0 v).map fun y => (v, y)) = some (0, m, false) ∧
    r.live = true ∧ (r.fab.outs.find? fun o => o.store = true ∧ o.dst % 32 = 1 ∧ o.stream = 63 ∧ o.seq = 5) = some o ∧
    o.last + r.resendTicks ≤ r.tick ∧ o.dst / 32 = r.rack ∧ r.nextPath 1 o.path = some 0 ∧
    g.live = true ∧ (g.fab.outs.find? fun x => x.store = true ∧ x.dst % 32 = 1 ∧ x.stream = 63 ∧ x.seq = 5) = some og ∧
    og.gw.isSome = true ∧ og.dst / 32 = g.rack ∧ g.portUp (g.peerPort 1) = true ∧
    (∀ x ∈ r.fab.outs, x.store = true ∧ x.gw = none) ∧ o.first + r.giveupTicks ≤ r.tick ∧ (SMap.find r.tasks 0).isSome = true := by
  decide +kernel

theorem test_met_PortStates :
    let b := Reg.ZL_PORT_CTL_EN
    let id := rdy.setFld Reg.ZL_IDENT Reg.ZL_IDENT_SET 1
    let lit := id.setFld (Reg.ZL_LSR 0) Reg.ZL_LSR_STATE 2
    let c4 := { ported 48 [(Reg.ZL_PORT_STAT_CAUSE, 4)] with tick := 2 * 10 ^ 9 }
    let c2 := ported 49 [(Reg.ZL_PORT_STAT_CAUSE, 2)]
    let up := fun (n : Nat) => ported n [(Reg.ZL_PORT_STAT_STATE, 3)]
    let s1 := ported 0 [(Reg.ZL_PORT_STAT_STATE, 1)]
    let s2 := { ported 0 [(Reg.ZL_PORT_STAT_STATE, 2)] with tick := 10 ^ 9 }
    (∀ n, n < 50 → rdy.mayWrite .steward (Reg.ZL_PORT_CTL n).off = true) ∧
    newFld b (word [(b, 1)]) = 1 ∧ newFld b 0 = 0 ∧
    ((rdy.setFld (Reg.ZL_PORT_CTL 0) b 0).portEn 0 = false ∧ (rdy.setFld (Reg.ZL_PORT_CTL 0) b 1).portEn 0 = true) ∧
    newFld Reg.ZL_PORT_CTL_FENCE (word [(b, 1)]) = rdy.fld (Reg.ZL_PORT_CTL 0) Reg.ZL_PORT_CTL_FENCE ∧
    rdy.flag Reg.ZL_IDENT Reg.ZL_IDENT_SET = false ∧ id.flag Reg.ZL_IDENT Reg.ZL_IDENT_SET = true ∧
    (sets id ((List.range 8).map fun c => (Reg.ZL_LSR c, Reg.ZL_LSR_STATE, 0))).lit 0 = false ∧ lit.lit 0 = true ∧
    (lit.port 0).signal = true ∧ (up 0).portState 0 = 3 ∧ (up 48).portState 48 = 3 ∧
    (ported 48 [(Reg.ZL_PORT_STAT_STATE, 5)]).portState 48 = 5 ∧
    (c2.portState 49 = 0 ∧ c2.portCause 49 = 2) ∧ ((c2.port 49).badId = false) ∧
    (c4.portState 48 = 0 ∧ c4.portCause 48 = 4 ∧ (c4.port 48).since + 10 ^ 9 ≤ c4.tick) ∧
    s1.portState 0 = 1 ∧ s1.farOk 0 (.peer 0 1 30) = true ∧ s1.farOk 0 .service = false ∧
    s2.portState 0 = 2 ∧ (s2.port 0).since + s2.lmTicks ≤ s2.tick ∧ (12 : BitVec 8).toNat ≤ 12 ∧
    rdy.mayWrite .steward Reg.ZL_IDENT.off = true ∧ rdy.secureVia .steward = true ∧
    newFld Reg.ZL_IDENT_SET (word [(Reg.ZL_IDENT_SET, 1)]) = 1 := by decide +kernel

/-- Cartridge 0 in a state, the others in one of their own. -/
def lasers (st rest : Nat) : State :=
  sets rdy ((Reg.ZL_LSR 0, Reg.ZL_LSR_STATE, st) :: ((List.range 7).map fun c => (Reg.ZL_LSR (c + 1), Reg.ZL_LSR_STATE, rest)))

theorem test_met_LaserCartridges :
    let up := (lasers 2 0).setFld (Reg.ZL_PORT_STAT 0) Reg.ZL_PORT_STAT_STATE 3
    (lasers 2 2).mayWrite .steward (Reg.ZL_LSR 0).off = true ∧ (lasers 2 2).flag (Reg.ZL_LSR 0) Reg.ZL_LSR_SERVICE = false ∧
    (lasers 2 2).othersOn 0 = true ∧ (lasers 2 2).fld (Reg.ZL_LSR 0) Reg.ZL_LSR_STATE = 2 ∧ 0 ∈ portsOf 0 ∧
    (lasers 2 0).othersOn 0 = false ∧ (lasers 2 0).Quiet ∧
    (lasers 0 2).fld (Reg.ZL_LSR 0) Reg.ZL_LSR_STATE = 0 ∧ (lasers 0 2).Quiet ∧
    (lasers 3 2).fld (Reg.ZL_LSR 0) Reg.ZL_LSR_STATE = 3 ∧ (lasers 3 2).Quiet ∧
    (∀ d ∈ [feedA (0 / 2), feedB (0 / 2)], d ≠ 0 → up.laserOn d = false) ∧ up.portState 0 = 3 ∧
    up.fld (Reg.ZL_LSR 0) Reg.ZL_LSR_STATE ≠ 0 := by decide +kernel

/-- Meter 4095 enabled, with actions for yellow and red, and a task's 256 bytes in its delay queue. -/
def delayed (en y : Nat) (m : Meter) : State :=
  (sets rdy [(Reg.QOS_MTR_CFG 4095, Reg.QOS_MTR_CFG_EN, en), (Reg.QOS_MTR_CFG 4095, Reg.QOS_MTR_CFG_ACT_Y, y),
    (Reg.QOS_MTR_CFG 4095, Reg.QOS_MTR_CFG_ACT_R, 3)]).setMeter 4095 { m with dq := [(.task 0 false false, 256)] }

theorem test_met_Meters :
    let full : Meter := { cir := 1, xir := 1, cbs := 512, xbs := 512, tc := 512000, tx := 512000 }
    let yel : Meter := { full with tc := 0, cir := 0 }
    let slow : Meter := { full with tc := 0 }
    let red : Meter := { full with tx := 0, tc := 0 }
    let stuck := { rdy with waitq := List.replicate 512 { line := 0, who := .fetch 4 } }
    let mode := fun (s : State) => s.flag (Reg.QOS_MTR_CFG 4095) Reg.QOS_MTR_CFG_MODE
    let colour := fun (s : State) => ((((s.meter 4095).refill s.tick).colour (mode s) 256).2)
    (∀ r ∈ [Reg.QOS_CTX_MAP, Reg.QOS_MTR_CFG 4095, Reg.QOS_MTR_SEL], rdy.mayWrite .steward r.off = true) ∧
    newFld Reg.QOS_CTX_MAP_GO (word [(Reg.QOS_CTX_MAP_GO, 1)]) = 1 ∧
    newFld Reg.QOS_CTX_MAP_READ (word [(Reg.QOS_CTX_MAP_READ, 1)]) = 1 ∧
    newFld Reg.QOS_CTX_MAP_GO (word [(Reg.QOS_CTX_MAP_READ, 1)]) = 0 ∧ rdy.Quiet ∧
    newFld Reg.QOS_MTR_CFG_APPLY (word [(Reg.QOS_MTR_CFG_APPLY, 1)]) = 1 ∧ (rdy.meter 4095).dq = [] ∧
    (∀ e y, ((delayed e y full).meter 4095).dq = [(.task 0 false false, 256)]) ∧ (delayed 0 0 full).live = true ∧
    (delayed 0 0 full).flag (Reg.QOS_MTR_CFG 4095) Reg.QOS_MTR_CFG_EN = false ∧
    (delayed 1 0 full).flag (Reg.QOS_MTR_CFG 4095) Reg.QOS_MTR_CFG_EN = true ∧
    (delayed 1 0 full).meterAct 4095 (colour (delayed 1 0 full)) = 0 ∧
    (delayed 1 1 slow).meterAct 4095 (colour (delayed 1 1 slow)) = 1 ∧
    (delayed 1 2 slow).meterAct 4095 (colour (delayed 1 2 slow)) = 2 ∧
    (slow.refill 0).hopeless (mode (delayed 1 2 slow)) (colour (delayed 1 2 slow)) 256 = false ∧
    (delayed 1 2 yel).meterAct 4095 (colour (delayed 1 2 yel)) = 2 ∧
    (yel.refill 0).hopeless (mode (delayed 1 2 yel)) (colour (delayed 1 2 yel)) 256 = true ∧
    (delayed 1 2 red).meterAct 4095 (colour (delayed 1 2 red)) = 3 ∧
    (delayed 1 0 full).mayLeave (.task 0 false false) = true ∧ stuck.mayLeave (.host { line := 0, who := .fetch 4 }) = false ∧
    (Delayed.task 0 true false).keep = true ∧ (Delayed.task 0 false false).keep = false ∧ (Delayed.task 0 false true).wb = true := by
  refine ⟨?_, ?_, ?_, ?_, ?_, ?_, ?_, fun _ _ => rfl, ?_⟩ <;> decide +kernel

theorem test_met_ShapersAndGates :
    let on := { sets rdy [(Reg.QOS_GATE_CTL 49, Reg.QOS_GATE_CTL_EN, 1), (Reg.QOS_GATE_CTL 49, Reg.QOS_GATE_CTL_LEN0, 2)] with
      tick := 2 ^ 32 }
    rdy.Quiet ∧ rdy.mayWrite .steward (Reg.QOS_SHP 49 7).off = true ∧ rdy.mayWrite .steward (Reg.QOS_SHP 0 2).off = true ∧
    rdy.mayWrite .steward (Reg.QOS_GATE_CTL 49).off = true ∧ rdy.gateFld 49 Reg.QOS_GATE_CTL_EN = 0 ∧
    newFld Reg.QOS_GATE_CTL_EN (word [(Reg.QOS_GATE_CTL_EN, 1)]) = 1 ∧
    newFld Reg.QOS_GATE_CTL_SWITCH (word [(Reg.QOS_GATE_CTL_EN, 1)]) = 0 ∧
    newFld Reg.QOS_GATE_CTL_SWITCH (word [(Reg.QOS_GATE_CTL_EN, 1), (Reg.QOS_GATE_CTL_SWITCH, 1)]) = 1 ∧
    on.gateFld 49 Reg.QOS_GATE_CTL_EN = 1 ∧ on.mayWrite .steward (Reg.QOS_GATE_CTL 49).off = true ∧
    (on.gate 49).since + on.gateDur 49 (on.gateFld 49 Reg.QOS_GATE_CTL_ACTIVE) (on.gate 49).entry ≤ on.tick ∧
    (on.gate 49).entry + 1 < on.gateLen 49 0 ∧ on.gateLen 49 1 ≤ (on.gate 49).entry + 1 := by decide +kernel

theorem test_met_PowerAndResets :
    let v := word [(Reg.PWR_CTL_KEY, 0xA5), (Reg.PWR_CTL_RESET, 1)]
    let w := word [(Reg.PWR_CTL_KEY, 0xA5), (Reg.PWR_CTL_OFFLINE, 1)]
    State.reset.power = 0 ∧ rdy.power ≠ 0 ∧ rdy.power ≠ 4 ∧ rdy.mayWrite .steward Reg.PWR_CTL.off = true ∧
    rdy.secureVia .steward = true ∧ newFld Reg.PWR_CTL_KEY v = 0xA5 ∧ newFld Reg.PWR_CTL_RESET v = 1 ∧
    newFld Reg.PWR_CTL_KEY w = 0xA5 ∧ newFld Reg.PWR_CTL_RESET w = 0 ∧ newFld Reg.PWR_CTL_OFFLINE w = 1 ∧
    (rdy.setFld Reg.PWR_STAT Reg.PWR_STAT_STATE 5).power = 5 := by decide +kernel

theorem test_met_PinsAndDemands :
    let on := { rdy with tick := 10 ^ 6 }
    let lost := { rdy with tick := 10 ^ 8, pwr := { rdy.pwr with refLostAt := some 0 } }
    let o : OutMsg := { store := true, dst := 32, stream := 0, seq := 0, msg := ⟨hdr0, .ack, false⟩, first := 0, last := 0,
                        path := 0, task := some 0 }
    let hall := { tasked (task5 []) with fab := { rdy.fab with outs := [o] } }
    rdy.Quiet ∧ rdy.running = true ∧ rdy.pwr.refLostAt = none ∧ lost.pwr.refLostAt = some 0 ∧ 0 + 10 ^ 8 ≤ lost.tick ∧
    rdy.ras.moduleContained = false ∧ rdy.power ≠ 5 ∧ rdy.power ≠ 0 ∧
    (rdy.setFld (Reg.HEAD_STAT 3) Reg.HEAD_STAT_IN_RESET 0).headStat 3 Reg.HEAD_STAT_IN_RESET = 0 ∧
    rdy.flag Reg.PWR_STAT Reg.PWR_STAT_FENCE = false ∧ o.dst / 32 ≠ hall.rack ∧ (SMap.find hall.tasks 0).isSome = true ∧
    rdy.pwr.hpArmed = true ∧ rdy.powerLimit 40 < 1801 ∧ 1800 ≤ rdy.powerLimit 40 ∧ 100 * 1709 < 95 * 1800 ∧
    95 * 1800 ≤ 100 * 1710 ∧ on.running = true ∧ on.pwr.ctlAt + us 100 ≤ on.tick ∧ on.pwr.droopAt + us 1000 ≤ on.tick := by decide +kernel

end Sys2Proof.Tests
end

section
/-! SUPPORT. Register writes field by field (R10): the layout of the register map, what a write does to the field it
writes and to the others, and the accesses that reach no register (R8). -/

namespace Sys2Proof.Machine

/-! ## Fields of a word -/

/-- Two fields share no bit. -/
abbrev Fld.Apart (f g : Fld) : Prop := f.hi < g.lo ∨ g.hi < f.lo

/-- Fields that lie in a 64-bit word, no two of which share a bit. -/
abbrev LayoutOk (l : List Fld) : Prop := (∀ f ∈ l, f.lo ≤ f.hi ∧ f.hi < 64) ∧ l.Pairwise Fld.Apart

theorem regTable_layoutOk : ∀ row ∈ regTable, LayoutOk row.flds := by decide +kernel

theorem layoutOk_cons {f : Fld} {l : List Fld} :
    LayoutOk (f :: l) ↔ (f.lo ≤ f.hi ∧ f.hi < 64) ∧ (∀ g ∈ l, f.Apart g) ∧ LayoutOk l := by
  simp only [LayoutOk, List.forall_mem_cons, List.pairwise_cons]
  tauto

theorem LayoutOk.filter {l : List Fld} (h : LayoutOk l) (p : Fld → Bool) : LayoutOk (l.filter p) :=
  ⟨fun f hf => h.1 f (List.mem_filter.1 hf).1, h.2.filter p⟩

theorem Fld.get_lt (f : Fld) (w : Nat) : f.get w < 2 ^ (f.hi + 1 - f.lo) := bits_lt _ _ _

/-- A field takes a value of its width as it is. -/
theorem Fld.get_put_of_lt {f : Fld} (h : f.lo ≤ f.hi) (w : Nat) {v : Nat} (hv : v < 2 ^ (f.hi + 1 - f.lo)) :
    f.get (f.put w v) = v :=
  (bits_putBits_same h).trans (Nat.mod_eq_of_lt hv)

theorem Fld.get_put_of_apart {f g : Fld} (h : f.lo ≤ f.hi) (hd : f.Apart g) (w v : Nat) :
    g.get (f.put w v) = g.get w :=
  bits_putBits_other h hd

/-- A field written with the value it has changes nothing. -/
theorem Fld.put_get {f : Fld} (h : f.lo ≤ f.hi) (w : Nat) : f.put w (f.get w) = w := by
  apply Nat.eq_of_testBit_eq
  intro i
  rw [Fld.put, Fld.get, testBit_putBits h, testBit_bits]
  split
  next hin => simp [show i - f.lo < f.hi + 1 - f.lo by omega, show f.lo + (i - f.lo) = i by omega]
  next => rfl

/-- Subtracting the bits that two numbers share clears them. -/
theorem testBit_sub_and (a b i : Nat) : (a - (a &&& b)).testBit i = (a.testBit i && !b.testBit i) := by
  induction i generalizing a b with
  | zero =>
    have hle : a &&& b ≤ a := Nat.and_le_left
    have hpar : (a &&& b) % 2 = 1 ↔ a % 2 = 1 ∧ b % 2 = 1 := Nat.and_mod_two_eq_one
    rw [Bool.eq_iff_iff]
    simp only [Nat.testBit_zero, decide_eq_true_eq, Bool.and_eq_true, Bool.not_eq_true', decide_eq_false_iff_not]
    omega
  | succ i ih =>
    have hle : a &&& b ≤ a := Nat.and_le_left
    have hpar : (a &&& b) % 2 = 1 ↔ a % 2 = 1 ∧ b % 2 = 1 := Nat.and_mod_two_eq_one
    have hdiv : (a &&& b) / 2 = a / 2 &&& b / 2 := Nat.and_div_two
    have hhalf : (a - (a &&& b)) / 2 = a / 2 - (a / 2 &&& b / 2) := by omega
    rw [Nat.testBit_succ, Nat.testBit_succ, Nat.testBit_succ, hhalf, ih]

/-! ## A write of a word -/

/-- The value of a field that held `x` after a write of the word `v`, by the field's access type (R10). -/
def Fld.written (f : Fld) (sec lock : Bool) (v x : Nat) : Nat :=
  match f.acc with
  | .rw => f.get v
  | .rw1c => x - (x &&& f.get v)
  | .srw => if sec then f.get v else x
  | .rwl => if lock then x else f.get v
  | .ro | .wo => x

theorem Fld.written_lt (f : Fld) (sec lock : Bool) (v : Nat) {x : Nat} (hx : x < 2 ^ (f.hi + 1 - f.lo)) :
    f.written sec lock v x < 2 ^ (f.hi + 1 - f.lo) := by
  have hv := f.get_lt v
  unfold Fld.written
  split
  case h_1 => exact hv
  case h_2 => exact Nat.lt_of_le_of_lt (Nat.sub_le _ _) hx
  case h_3 | h_4 => split <;> assumption
  case h_5 | h_6 => exact hx

/-- A word is written one field after the other. -/
theorem writeFields_cons {f : Fld} (h : f.lo ≤ f.hi) (sec lock : Bool) (v : Nat) (fs : List Fld) (w : Nat) :
    writeFields sec lock v (f :: fs) w =
      writeFields sec lock v fs (f.put w (f.written sec lock v (f.get w))) := by
  rw [writeFields, Fld.written]
  cases f.acc with
  | rw | rw1c => rfl
  | srw => cases sec <;> simp [Fld.put_get h]
  | rwl => cases lock <;> simp [Fld.put_get h]
  | ro | wo => simp [Fld.put_get h]

theorem writeFields_lt {l : List Fld} (hl : LayoutOk l) (sec lock : Bool) (v : Nat) {w : Nat} (hw : w < 2 ^ 64) :
    writeFields sec lock v l w < 2 ^ 64 := by
  induction l generalizing w with
  | nil => exact hw
  | cons f fs ih =>
    obtain ⟨⟨hle, hhi⟩, -, hfs⟩ := layoutOk_cons.1 hl
    rw [writeFields_cons hle]
    exact ih hfs (putBits_lt hle hhi hw)

/-- A field that no written field overlaps keeps its value. -/
theorem get_writeFields_of_apart {l : List Fld} (hl : LayoutOk l) {g : Fld} (hg : ∀ f ∈ l, f.Apart g)
    (sec lock : Bool) (v w : Nat) : g.get (writeFields sec lock v l w) = g.get w := by
  induction l generalizing w with
  | nil => rfl
  | cons f fs ih =>
    obtain ⟨⟨hle, -⟩, -, hfs⟩ := layoutOk_cons.1 hl
    obtain ⟨hgf, hgfs⟩ := List.forall_mem_cons.1 hg
    rw [writeFields_cons hle, ih hfs hgfs, Fld.get_put_of_apart hle hgf]

/-- Each field of a word is written as if it stood alone. -/
theorem get_writeFields {l : List Fld} (hl : LayoutOk l) {g : Fld} (hg : g ∈ l) (sec lock : Bool) (v w : Nat) :
    g.get (writeFields sec lock v l w) = g.written sec lock v (g.get w) := by
  induction l generalizing w with
  | nil => cases hg
  | cons f fs ih =>
    obtain ⟨⟨hle, -⟩, hap, hfs⟩ := layoutOk_cons.1 hl
    rw [writeFields_cons hle]
    rcases List.mem_cons.1 hg with rfl | hg
    · rw [get_writeFields_of_apart hfs fun k hk => (hap k hk).symm,
        Fld.get_put_of_lt hle w (g.written_lt sec lock v (g.get_lt w))]
    · rw [ih hfs hg, Fld.get_put_of_apart hle (hap g hg)]

/-! ## A write of a register -/

/-- What the map gives at an offset: a row of it, and the register at that offset. -/
theorem findReg_some {off : Nat} {row : RegRow} {r : RegId} (h : findReg off = some (row, r)) :
    row ∈ regTable ∧ r.off = off := by
  unfold findReg at h
  split at h
  · cases h
  · obtain ⟨row', hmem, h⟩ := List.exists_of_findSome?_eq_some h
    split at h
    · split at h
      next heq => cases h; exact ⟨hmem, heq⟩
      · cases h
    · cases h

theorem fieldsAt_of_findReg {off : Nat} {row : RegRow} {r : RegId} (h : findReg off = some (row, r)) :
    fieldsAt off = row.flds := by
  simp [fieldsAt, h]

theorem setReg_onlyReg (s : State) (r : RegId) (v : Nat) : s.OnlyReg (s.setReg r v) r :=
  ⟨⟨_, rfl⟩, fun _ hq => reg_setReg_other s v hq⟩

theorem writePlain_onlyReg (s : State) (sec : Bool) (r : RegId) (hold : List Fld) (v : Nat) :
    s.OnlyReg (s.writePlain sec r hold v) r :=
  setReg_onlyReg s r _

/-- A plain write of a register, in either world's copy of it: each field of its row that the write does not leave alone
takes the value its access type gives it. -/
theorem fld_writePlain (s : State) (sec : Bool) {off : Nat} {row : RegRow} {r q : RegId}
    (h : findReg off = some (row, r)) (hq : q.off % 2 ^ 40 = off) {hold : List Fld} {f : Fld} (hf : f ∈ row.flds)
    (hh : f ∉ hold) (v : Nat) :
    (s.writePlain sec q hold v).fld q f = f.written sec false v (s.fld q f) := by
  have hl := (regTable_layoutOk row (findReg_some h).1).filter fun f => !hold.contains f
  have hmem : f ∈ row.flds.filter fun f => !hold.contains f := List.mem_filter.2 ⟨hf, by simpa using hh⟩
  rw [State.writePlain, hq, fieldsAt_of_findReg h, State.fld,
    reg_setReg_lt s q (writeFields_lt hl sec false v (reg_lt s q)), get_writeFields hl hmem, State.fld]

/-- A register without behaviour of its own has its fields written and nothing else. -/
theorem writeReg_of_no_handler (s : State) (via : Via) {off : Nat} (v : Word) {row : RegRow} {r : RegId}
    (h : findReg off = some (row, r)) (hn : handlers.find? (fun h => h.1 = row.base) = none) :
    s.writeReg via off v = s.writePlain (s.secureVia via) r [] v.toNat := by
  simp only [State.writeReg, h, hn]

/-! ## Accesses of BAR0 -/

theorem exec_registerWrite (via : Via) (bytes : Nat) (off : BitVec 26) (v : Word) (s : State) :
    exec (.registerWrite via bytes off v) s =
      done s (if bytes = 8 ∧ off.toNat % 8 = 0 ∧ s.mayWrite via off.toNat then s.writeReg via off.toNat v else s) := rfl

/-- A write that may act writes the register at its offset. -/
theorem exec_registerWrite_of_mayWrite {via : Via} {off : BitVec 26} (v : Word) {s : State} (ha : off.toNat % 8 = 0)
    (hm : s.mayWrite via off.toNat = true) :
    exec (.registerWrite via 8 off v) s = done s (s.writeReg via off.toNat v) := by
  rw [exec_registerWrite, if_pos ⟨rfl, ha, hm⟩]

/-- A command that changes registers alone needs no settling. -/
theorem done_setReg {s : State} (hs : s.Quiet) (r : RegId) (v : Nat) : done s (s.setReg r v) = .next (s.setReg r v) := by
  rw [done_eq, settle_id (s := s) (u := s.setReg r v) rfl rfl rfl rfl hs]

theorem exec_registerWrite_of_misfit {via : Via} {bytes : Nat} {off : BitVec 26} (v : Word) {s : State} (hs : s.Quiet)
    (h : bytes ≠ 8 ∨ off.toNat % 8 ≠ 0) : exec (.registerWrite via bytes off v) s = .next s := by
  rw [exec_registerWrite, if_neg (by tauto), done_self hs]

theorem readBar0_of_misfit {via : Via} {bytes off : Nat} {s : State} (hs : s.served via = true)
    (h : bytes ≠ 8 ∨ off % 8 ≠ 0) : s.readBar0 via bytes off = some 0 := by
  rcases h with h | h <;> simp [State.readBar0, hs, h]

/-! ## The obligations -/

/-- Settles O13: neither guard of a write and of a read lets another width or alignment through. -/
theorem registerAccessWidth : Obligations.RegisterAccessWidth := by
  intro s
  refine ⟨reg_lt s, fun via bytes off v hbad => ⟨fun hs => ?_, fun hs => ?_⟩⟩
  · exact exec_registerWrite_of_misfit v hs hbad
  · exact readBar0_of_misfit hs hbad

/-- Settles O12: the fields of a row share no bit, so each is written as if it stood alone. -/
theorem registerWriteByAccessType : Obligations.RegisterWriteByAccessType := by
  intro via off v s row r hs hfind hnone halign hmay _
  have hq : r.off % 2 ^ 40 = off.toNat := by
    rw [(findReg_some hfind).2]
    omega
  refine ⟨s.writePlain (s.secureVia via) r [] v.toNat, ?_, writePlain_onlyReg s _ r [] _, fun f hf => ?_⟩
  · rw [exec_registerWrite_of_mayWrite v halign hmay, writeReg_of_no_handler s via v hfind hnone]
    exact done_setReg hs r _
  · rw [fld_writePlain s _ hfind hq hf List.not_mem_nil, Fld.written]
    cases f.acc with
    | rw | rwl | srw | ro | wo => rfl
    | rw1c => exact testBit_sub_and _ _

end Sys2Proof.Machine
end

section
/-! SUPPORT. Rules about registers and tasks that the families of commands share: plain writes of a register by its row of
the map (R10), commands that change registers alone, answers that reach tasks, and the closing of the hall (R32). -/

namespace Sys2Proof.Machine

/-! ## Fields -/

theorem layoutOk_fieldsAt (off : Nat) : LayoutOk (fieldsAt off) := by
  cases h : findReg off with
  | none => simp [fieldsAt, h, LayoutOk]
  | some x =>
    obtain ⟨row, r⟩ := x
    rw [fieldsAt_of_findReg h]
    exact regTable_layoutOk row (findReg_some h).1

/-- A plain write gives each field of the register the value of its access type. -/
theorem fld_writePlain_of_mem (s : State) (sec : Bool) {q : RegId} {f : Fld} (hf : f ∈ fieldsAt (q.off % 2 ^ 40)) (v : Nat) :
    (s.writePlain sec q [] v).fld q f = f.written sec false v (s.fld q f) := by
  cases h : findReg (q.off % 2 ^ 40) with
  | none => simp only [fieldsAt, h, Option.map_none, Option.getD_none, List.not_mem_nil] at hf
  | some x => exact fld_writePlain s sec h rfl (fieldsAt_of_findReg h ▸ hf) List.not_mem_nil v

theorem reg_writePlain_other (s : State) (sec : Bool) {r q : RegId} (hold : List Fld) (v : Nat) (h : q.off ≠ r.off) :
    (s.writePlain sec r hold v).reg q = s.reg q :=
  reg_setReg_other s _ h

theorem flag_eq_true {s : State} {r : RegId} {f : Fld} : s.flag r f = true ↔ s.fld r f = 1 := by simp [State.flag]

theorem flag_eq_false {s : State} {r : RegId} {f : Fld} : s.flag r f = false ↔ s.fld r f ≠ 1 := by simp [State.flag]

/-- Two states whose registers read the same have the same fields. -/
theorem fld_congr {s t : State} {r : RegId} (f : Fld) (h : t.reg r = s.reg r) : t.fld r f = s.fld r f := congrArg f.get h

theorem flag_congr {s t : State} {r : RegId} (f : Fld) (h : t.reg r = s.reg r) : t.flag r f = s.flag r f := by
  simp only [State.flag, fld_congr f h]

/-! ## Commands that change registers alone -/

theorem setFld_onlyReg (s : State) (r : RegId) (f : Fld) (v : Nat) : s.OnlyReg (s.setFld r f v) r := setReg_onlyReg s r _

theorem State.OnlyReg.trans {s t u : State} {r : RegId} (h : s.OnlyReg t r) (h' : t.OnlyReg u r) : s.OnlyReg u r := by
  obtain ⟨⟨w, rfl⟩, hs⟩ := h
  obtain ⟨⟨w', rfl⟩, ht⟩ := h'
  exact ⟨⟨w', rfl⟩, fun q hq => (ht q hq).trans (hs q hq)⟩

theorem State.OnlyReg.regs {s t : State} {r : RegId} {l : List RegId} (h : s.OnlyReg t r) (hr : r ∈ l) : s.OnlyRegs t l :=
  ⟨h.1, fun q hq => h.2 q (hq r hr)⟩

theorem State.OnlyRegs.trans {s t u : State} {l : List RegId} (h : s.OnlyRegs t l) (h' : t.OnlyRegs u l) : s.OnlyRegs u l := by
  obtain ⟨⟨w, rfl⟩, hs⟩ := h
  obtain ⟨⟨w', rfl⟩, ht⟩ := h'
  exact ⟨⟨w', rfl⟩, fun q hq => (ht q hq).trans (hs q hq)⟩

/-- A command of a quiet state that leaves the queue, the clock, the fixed parts, the flash and the recorder alone answers
the state it reaches. -/
theorem done_of_quiet {s u : State} (hs : s.Quiet) (hp : u.pending = s.pending) (ht : u.tick = s.tick)
    (hx : u.fixed = s.fixed) (hf : u.flash = s.flash) (hr : u.ras = s.ras) : done s u = .next u := by
  rw [done_eq, settle_id hp ht hx hf (show u.ras.toFlash = [] from hr ▸ hs)]

theorem done_of_onlyRegs {s u : State} {l : List RegId} (hs : s.Quiet) (h : s.OnlyRegs u l) : done s u = .next u := by
  obtain ⟨⟨w, rfl⟩, -⟩ := h
  exact done_of_quiet hs rfl rfl rfl rfl rfl

theorem done_of_onlyReg {s u : State} {r : RegId} (hs : s.Quiet) (h : s.OnlyReg u r) : done s u = .next u :=
  done_of_onlyRegs (l := [r]) hs (h.regs (List.mem_singleton_self r))

/-! ## Answers that reach tasks -/

/-- A task has an answer of a status and may run again. -/
def State.Answered (s : State) (id : Nat) (st : Status) : Prop := ∃ a ∈ (s.task id).log, a.st = st ∧ (s.task id).wait = .ready

theorem deliver_onlyTasks (s : State) (id : Nat) (a : Ans) : ∃ m, s.deliver id a = { s with tasks := m } := by
  unfold State.deliver
  split
  · exact ⟨s.tasks, rfl⟩
  · exact ⟨_, rfl⟩

theorem deliver_of_find {s : State} {id : Nat} {t : Task} (h : SMap.find s.tasks id = some t) (a : Ans) :
    s.deliver id a = s.setTask id { t with log := t.log ++ [a], wait := .ready, moved := s.tick } := by
  simp only [State.deliver, h, State.setTask]

theorem task_setTask_same (s : State) (id : Nat) (t : Task) : (s.setTask id t).task id = t := SMap.get_put_same ..

theorem task_setTask_other (s : State) {id k : Nat} (t : Task) (h : k ≠ id) : (s.setTask id t).task k = s.task k :=
  SMap.get_put_other _ _ _ h

theorem task_of_find {s : State} {id : Nat} {t : Task} (h : SMap.find s.tasks id = some t) : s.task id = t := by
  simp [State.task, SMap.get, h]

/-- An answer adds to one task and takes nothing from any. -/
theorem isSome_find_deliver {s : State} {k : Nat} (id : Nat) (a : Ans) (h : (SMap.find s.tasks k).isSome) :
    (SMap.find (s.deliver id a).tasks k).isSome := by
  cases hf : SMap.find s.tasks id with
  | none => simpa only [State.deliver, hf] using h
  | some t =>
    rw [deliver_of_find hf]
    by_cases hk : k = id
    · simp [State.setTask, hk, SMap.find_put_same]
    · simpa [State.setTask, SMap.find_put_other _ _ hk] using h

theorem answered_deliver_same {s : State} {id : Nat} (a : Ans) (h : (SMap.find s.tasks id).isSome) :
    (s.deliver id a).Answered id a.st := by
  obtain ⟨t, ht⟩ := Option.isSome_iff_exists.1 h
  rw [deliver_of_find ht, State.Answered, task_setTask_same]
  exact ⟨a, List.mem_append_right _ (List.mem_singleton_self a), rfl, rfl⟩

theorem State.Answered.deliver {s : State} {k : Nat} {st : Status} (h : s.Answered k st) (id : Nat) (a : Ans) :
    (s.deliver id a).Answered k st := by
  cases hf : SMap.find s.tasks id with
  | none => simpa only [State.deliver, hf] using h
  | some t =>
    obtain ⟨b, hb, hst, hw⟩ := h
    rw [deliver_of_find hf, State.Answered]
    by_cases hk : k = id
    · subst hk
      rw [task_of_find hf] at hb
      rw [task_setTask_same]
      exact ⟨b, List.mem_append_left _ hb, hst, rfl⟩
    · rw [task_setTask_other s _ hk]
      exact ⟨b, hb, hst, hw⟩

/-! ## The closing of the hall (R32) -/

/-- A message's task gets `ST_FENCED`. -/
def State.endFenced (s : State) (o : OutMsg) : State :=
  match o.task with
  | some id => s.deliver id { st := .fenced }
  | none => s

theorem endFenced_onlyTasks (s : State) (o : OutMsg) : ∃ m, s.endFenced o = { s with tasks := m } := by
  unfold State.endFenced
  split
  · exact deliver_onlyTasks ..
  · exact ⟨s.tasks, rfl⟩

theorem foldl_endFenced_onlyTasks (l : List OutMsg) (s : State) : ∃ m, l.foldl State.endFenced s = { s with tasks := m } := by
  induction l generalizing s with
  | nil => exact ⟨s.tasks, rfl⟩
  | cons o l ih =>
    obtain ⟨m, hm⟩ := endFenced_onlyTasks s o
    rw [List.foldl_cons, hm]
    exact ih _

theorem isSome_find_endFenced {s : State} {k : Nat} (o : OutMsg) (h : (SMap.find s.tasks k).isSome) :
    (SMap.find (s.endFenced o).tasks k).isSome := by
  unfold State.endFenced
  split
  · exact isSome_find_deliver _ _ h
  · exact h

theorem State.Answered.endFenced {s : State} {k : Nat} {st : Status} (h : s.Answered k st) (o : OutMsg) :
    (s.endFenced o).Answered k st := by
  unfold State.endFenced
  split
  · exact h.deliver ..
  · exact h

theorem State.Answered.foldl_endFenced {k : Nat} {st : Status} (l : List OutMsg) {s : State} (h : s.Answered k st) :
    (l.foldl State.endFenced s).Answered k st := by
  induction l generalizing s with
  | nil => exact h
  | cons o l ih => exact ih (h.endFenced o)

/-- Every task of a list of messages is answered once the list has been gone through. -/
theorem answered_foldl_endFenced {l : List OutMsg} {o : OutMsg} (ho : o ∈ l) {id : Nat} (hid : o.task = some id) {s : State}
    (h : (SMap.find s.tasks id).isSome) : (l.foldl State.endFenced s).Answered id .fenced := by
  induction l generalizing s with
  | nil => cases ho
  | cons x l ih =>
    rcases List.mem_cons.1 ho with rfl | ho
    · refine State.Answered.foldl_endFenced l ?_
      simp only [State.endFenced, hid]
      exact answered_deliver_same { st := .fenced } h
    · exact ih ho (isSome_find_endFenced x h)

/-- The closing of the hall takes the messages to the racks of a test out of the outstanding ones and answers their tasks. -/
theorem closeHall_eq (s : State) (p : Nat → Bool) :
    ∃ ps, s.closeHall p = ((s.fab.outs.filter fun o => decide (o.dst / 32 ≠ s.rack) && p (o.dst / 32)).foldl State.endFenced
      { s with fab := { s.fab with
          outs := s.fab.outs.filter fun o => !(decide (o.dst / 32 ≠ s.rack) && p (o.dst / 32)), ports := ps } }).go :=
  ⟨_, rfl⟩

/-- The closing of the hall, up to the work that it lets go on: the messages to the racks of the test are no longer
outstanding and their tasks have `ST_FENCED`; registers and recorder are as they were. -/
theorem closeHall_spec (s : State) (p : Nat → Bool) :
    ∃ u : State, s.closeHall p = u.go ∧ u.regs = s.regs ∧ u.ras = s.ras ∧
      u.fab.outs = s.fab.outs.filter (fun o => !(decide (o.dst / 32 ≠ s.rack) && p (o.dst / 32))) ∧
      ∀ o ∈ s.fab.outs, o.dst / 32 ≠ s.rack → p (o.dst / 32) = true → ∀ id, o.task = some id →
        (SMap.find s.tasks id).isSome → u.Answered id .fenced := by
  obtain ⟨ps, h⟩ := closeHall_eq s p
  refine ⟨_, h, ?_⟩
  generalize hl : (s.fab.outs.filter fun o => decide (o.dst / 32 ≠ s.rack) && p (o.dst / 32)) = l
  generalize hs0 : ({ s with fab := { s.fab with
    outs := s.fab.outs.filter fun o => !(decide (o.dst / 32 ≠ s.rack) && p (o.dst / 32)), ports := ps } } : State) = s0
  obtain ⟨m, hm⟩ := foldl_endFenced_onlyTasks l s0
  refine ⟨by rw [hm, ← hs0], by rw [hm, ← hs0], by rw [hm, ← hs0], fun o ho hd hp id hid hsome => ?_⟩
  refine answered_foldl_endFenced (l := l) (o := o) ?_ hid (by rw [← hs0]; exact hsome)
  rw [← hl]
  exact List.mem_filter.2 ⟨ho, by simp [hd, hp]⟩

end Sys2Proof.Machine
end

section
/-! O41: the partition's commit (R23, R32), the disabling of units (R562) and its lock (R563). -/

namespace Sys2Proof.Machine

/-! ## The commands -/

theorem exec_partitionCommit {via : Via} {s : State} (hm : s.mayWrite via Reg.GLB_PART_CTL.off = true) (v : Word) :
    exec (.partitionCommit via v) s = done s (s.writePartCtl via v) := congrArg (done s) (if_pos hm)

theorem exec_unitDisable {via : Via} {s : State} (hm : s.mayWrite via Reg.GLB_UNIT_DIS.off = true) (v : Word) :
    exec (.unitDisable via v) s = done s (s.writeUnitDis via v) := congrArg (done s) (if_pos hm)

/-- A write that its register's handler ignores is a command without effect. -/
theorem done_ite_self {s : State} (hs : s.Quiet) (c : Prop) [Decidable c] {t : State} (h : t = s) :
    done s (if c then t else s) = .next s := by
  rw [h, ite_self, done_self hs]

/-! ## The partition -/

/-- The fields and the members that a write of `GLB_PART_CTL` puts in force. -/
def State.commitPart (s : State) (v : Word) : State :=
  (s.writePlain true Reg.GLB_PART_CTL [] v.toNat).setReg Reg.GLB_PART_MEMBERS (s.reg Reg.PART_STAGED)

theorem writePartCtl_insecure {s : State} {via : Via} (h : s.secureVia via = false) (v : Word) : s.writePartCtl via v = s := by
  simp [State.writePartCtl, h]

theorem writePartCtl_secure {s : State} {via : Via} (h : s.secureVia via = true) (v : Word) :
    s.writePartCtl via v = if s.flag Reg.GLB_PART_CTL Reg.GLB_PART_CTL_HALL = true ∧ newFld Reg.GLB_PART_CTL_HALL v = 0 then
      (s.commitPart v).closeHall fun _ => true else s.commitPart v := by
  simp only [State.writePartCtl, h, Bool.not_true, Bool.false_eq_true, if_false, State.commitPart,
    reg_writePlain_other s true [] v.toNat (show Reg.PART_STAGED.off ≠ Reg.GLB_PART_CTL.off by decide)]

theorem commitPart_onlyRegs (s : State) (v : Word) : s.OnlyRegs (s.commitPart v) [Reg.GLB_PART_CTL, Reg.GLB_PART_MEMBERS] :=
  ((writePlain_onlyReg s true Reg.GLB_PART_CTL [] v.toNat).regs (by simp)).trans ((setReg_onlyReg _ _ _).regs (by simp))

theorem commitPart_members (s : State) (v : Word) : (s.commitPart v).reg Reg.GLB_PART_MEMBERS = s.reg Reg.PART_STAGED :=
  reg_setReg_lt _ _ (reg_lt s _)

theorem fieldsAt_partCtl : fieldsAt (Reg.GLB_PART_CTL.off % 2 ^ 40) =
    [Reg.GLB_PART_CTL_HEADS, Reg.GLB_PART_CTL_PART_ID, Reg.GLB_PART_CTL_GEN, Reg.GLB_PART_CTL_HALL] := by decide +kernel

/-- A secure commit gives every field of `GLB_PART_CTL` the value written. -/
theorem commitPart_fld (s : State) (v : Word) {f : Fld}
    (hf : f ∈ [Reg.GLB_PART_CTL_HEADS, Reg.GLB_PART_CTL_PART_ID, Reg.GLB_PART_CTL_GEN, Reg.GLB_PART_CTL_HALL]) :
    (s.commitPart v).fld Reg.GLB_PART_CTL f = f.get v.toNat := by
  have hacc : f.acc = .srw := by
    have h : ∀ f ∈ [Reg.GLB_PART_CTL_HEADS, Reg.GLB_PART_CTL_PART_ID, Reg.GLB_PART_CTL_GEN, Reg.GLB_PART_CTL_HALL],
        f.acc = .srw := by decide
    exact h f hf
  calc (s.commitPart v).fld Reg.GLB_PART_CTL f
      = (s.writePlain true Reg.GLB_PART_CTL [] v.toNat).fld Reg.GLB_PART_CTL f :=
        fld_congr f (reg_setReg_other _ _ (by decide))
    _ = f.written true false v.toNat (s.fld Reg.GLB_PART_CTL f) :=
        fld_writePlain_of_mem s true (fieldsAt_partCtl ▸ hf) v.toNat
    _ = f.get v.toNat := by simp [Fld.written, hacc]

theorem commitPart_rack (s : State) (v : Word) : (s.commitPart v).rack = s.rack :=
  fld_congr _ ((commitPart_onlyRegs s v).2 _ (by decide))

/-- The hall closes over a commit that takes HALL from 1 to 0: what is outstanding afterwards stays in the rack (R32). -/
theorem commitPart_closeHall (s : State) (v : Word) : ∃ u : State, (s.commitPart v).closeHall (fun _ => true) = u.go ∧
    (∀ r, u.reg r = (s.commitPart v).reg r) ∧ ∀ o ∈ u.fab.outs, o.dst / 32 = s.rack := by
  obtain ⟨u, hu, hregs, -, houts, -⟩ := closeHall_spec (s.commitPart v) fun _ => true
  refine ⟨u, hu, fun r => by simp only [State.reg, hregs], fun o ho => ?_⟩
  rw [houts, commitPart_rack] at ho
  simpa using (List.mem_filter.1 ho).2

/-! ## Units -/

/-- Whether an engine is idle shows in the tasks, the engines' own state, the banks' owners and their handovers. -/
theorem engineIdle_congr {s t : State} (htasks : t.tasks = s.tasks) (heng : t.eng = s.eng) (hpad : t.pad = s.pad)
    (hown : ∀ b, t.reg (Reg.CADDY_OWN b) = s.reg (Reg.CADDY_OWN b)) (e : Eng) : t.engineIdle e = s.engineIdle e := by
  have hon : t.onEngine e = s.onEngine e := by
    have hnewt : t.newt = s.newt := by funext n; rw [State.newt, heng, ← State.newt]
    have hkettle : t.kettle = s.kettle := by funext n; rw [State.kettle, heng, ← State.kettle]
    funext id x
    rw [State.onEngine, hnewt, hkettle, ← State.onEngine]
  have howns : t.own = s.own := by
    funext b f
    exact fld_congr f (hown b)
  have hbank : t.ownsBank e = s.ownsBank e := by rw [State.ownsBank, howns, hpad, ← State.ownsBank]
  rw [State.engineIdle, hon, hbank, htasks, ← State.engineIdle]

theorem bit_eq_testBit (n i : Nat) : bit n i = n.testBit i := by
  rw [bit, Nat.testBit_eq_decide_div_mod_eq]

theorem testBit_putBit (n i j : Nat) (b : Bool) : (putBit n i b).testBit j = if j = i then b else n.testBit j := by
  rw [putBit, testBit_putBits (Nat.le_refl i)]
  by_cases h : j = i
  · subst h
    cases b <;> simp
  · rw [if_neg (by omega), if_neg h]

/-- The disable bits of a field after some of a list of engines have been gone through: every engine is still idle, bits that
are as written stay so, an engine's own bit is as written, and the other fields are as they were. -/
structure State.DisabledTo (s t : State) (f : Fld) (l : List Eng) (v : Nat) : Prop where
  idle : ∀ e, t.engineIdle e = s.engineIdle e
  bits : ∀ i, i < f.hi + 1 - f.lo → (∃ e ∈ l, e.idx.val = i) ∨ (s.fld Reg.GLB_UNIT_DIS f).testBit i = v.testBit i →
    (t.fld Reg.GLB_UNIT_DIS f).testBit i = v.testBit i
  others : ∀ g : Fld, f.Apart g → t.fld Reg.GLB_UNIT_DIS g = s.fld Reg.GLB_UNIT_DIS g

/-- The bit of one idle engine is written; the engine's steep cache, if it has one, is emptied. -/
theorem disabledTo_set (s : State) {f : Fld} (hf : f.lo ≤ f.hi) (hw : f.hi < 64) (e : Eng) (v : Nat) :
    let t := s.setFld Reg.GLB_UNIT_DIS f (putBit (s.fld Reg.GLB_UNIT_DIS f) e.idx.val (bit v e.idx.val))
    s.DisabledTo (if engHasSteep e then t.setSteep e [] else t) f [e] v := by
  intro t
  have hregs : (if engHasSteep e then t.setSteep e [] else t).regs = t.regs := by split <;> rfl
  have hfld : ∀ g, (if engHasSteep e then t.setSteep e [] else t).fld Reg.GLB_UNIT_DIS g = t.fld Reg.GLB_UNIT_DIS g :=
    fun g => by simp only [State.fld, State.reg, hregs]
  refine ⟨fun x => ?_, fun i hi h => ?_, fun g hg => ?_⟩
  · refine engineIdle_congr (by split <;> rfl) (by split <;> rfl) (by split <;> rfl) (fun b => ?_) x
    simp only [State.reg, hregs]
    refine reg_setFld_other s f _ ?_
    simp only [Reg.CADDY_OWN, Reg.GLB_UNIT_DIS]
    omega
  · rw [hfld, fld_setFld_same _ _ _ hf hw, Nat.testBit_mod_two_pow, decide_eq_true hi, Bool.true_and, testBit_putBit,
      bit_eq_testBit]
    split
    · next heq => rw [heq]
    · next hne =>
      rcases h with ⟨x, hx, rfl⟩ | h
      · exact absurd (congrArg (fun y : Eng => y.idx.val) (List.mem_singleton.1 hx)) hne
      · exact h
  · rw [hfld, fld_setFld_field _ _ _ hf hw hg]

theorem State.DisabledTo.nil (s : State) (f : Fld) (v : Nat) : s.DisabledTo s f [] v :=
  ⟨fun _ => rfl, fun _ _ h => h.resolve_left (by simp), fun _ _ => rfl⟩

theorem State.DisabledTo.append {s t u : State} {f : Fld} {l l' : List Eng} {v : Nat} (h : s.DisabledTo t f l v)
    (h' : t.DisabledTo u f l' v) : s.DisabledTo u f (l ++ l') v := by
  refine ⟨fun e => (h'.idle e).trans (h.idle e), fun i hi hl => h'.bits i hi ?_, fun g hg => (h'.others g hg).trans (h.others g hg)⟩
  rcases hl with ⟨e, he, rfl⟩ | hl
  · rcases List.mem_append.1 he with he | he
    · exact .inr (h.bits _ hi (.inl ⟨e, he, rfl⟩))
    · exact .inl ⟨e, he, rfl⟩
  · exact .inr (h.bits i hi (.inr hl))

/-- An engine beyond the field's width has no bit, and one whose bit is as written needs nothing. -/
theorem State.DisabledTo.self {s : State} {f : Fld} {e : Eng} {v : Nat}
    (h : e.idx.val ≥ f.hi + 1 - f.lo ∨ bit (s.fld Reg.GLB_UNIT_DIS f) e.idx.val = bit v e.idx.val) : s.DisabledTo s f [e] v := by
  refine ⟨fun _ => rfl, fun i hi hl => ?_, fun _ _ => rfl⟩
  rcases hl with ⟨x, hx, rfl⟩ | hl
  · rw [List.mem_singleton.1 hx] at hi ⊢
    simpa only [bit_eq_testBit] using h.resolve_left (Nat.not_le.2 hi)
  · exact hl

theorem disableUnits_disabledTo (s : State) {f : Fld} (hf : f.lo ≤ f.hi) (hw : f.hi < 64) (k : EngKind) (v : Nat)
    (hidle : ∀ e, s.engineIdle e = true) : s.DisabledTo (s.disableUnits f k v) f (engines k) v := by
  unfold State.disableUnits
  generalize engines k = l
  induction l generalizing s with
  | nil => exact .nil s f v
  | cons e l ih =>
    rw [List.foldl_cons]
    have hstep : s.DisabledTo (if e.idx.val ≥ f.hi + 1 - f.lo ∨ bit (s.fld Reg.GLB_UNIT_DIS f) e.idx.val = bit v e.idx.val then s
        else if s.engineIdle e then
          if engHasSteep e then (s.setFld Reg.GLB_UNIT_DIS f (putBit (s.fld Reg.GLB_UNIT_DIS f) e.idx.val
            (bit v e.idx.val))).setSteep e []
          else s.setFld Reg.GLB_UNIT_DIS f (putBit (s.fld Reg.GLB_UNIT_DIS f) e.idx.val (bit v e.idx.val))
        else s.ignored e.part Reg.GLB_UNIT_DIS.off (f.put 0 v)) f [e] v := by
      split
      · next h => exact .self h
      · rw [if_pos (hidle e)]
        exact disabledTo_set s hf hw e v
    exact hstep.append (ih _ fun x => (hstep.idle x).trans (hidle x))

/-- With every engine idle the field takes the value written. -/
theorem State.DisabledTo.fld_eq {s t : State} {f : Fld} {k : EngKind} {v : Nat} (h : s.DisabledTo t f (engines k) v)
    (hw : f.hi + 1 - f.lo ≤ 32) (hv : v < 2 ^ (f.hi + 1 - f.lo)) : t.fld Reg.GLB_UNIT_DIS f = v := by
  refine Nat.eq_of_testBit_eq fun i => ?_
  by_cases hi : i < f.hi + 1 - f.lo
  · exact h.bits i hi (.inl ⟨⟨k, ⟨i, by omega⟩⟩, List.mem_map.2 ⟨_, List.mem_finRange _, rfl⟩, rfl⟩)
  · have hle : 2 ^ (f.hi + 1 - f.lo) ≤ 2 ^ i := Nat.pow_le_pow_right (by decide) (Nat.not_lt.1 hi)
    rw [Nat.testBit_lt_two_pow (Nat.lt_of_lt_of_le hv hle),
      Nat.testBit_lt_two_pow (Nat.lt_of_lt_of_le (fld_lt t _ f) hle)]

/-- The three kinds' bits, written one kind after the other with every engine idle. -/
theorem disableUnits_fld (s : State) (v : Word) (hidle : ∀ e, s.engineIdle e = true) :
    ∀ f ∈ [Reg.GLB_UNIT_DIS_KTL, Reg.GLB_UNIT_DIS_GKO, Reg.GLB_UNIT_DIS_EMB],
      (((s.disableUnits Reg.GLB_UNIT_DIS_KTL .kettle (newFld Reg.GLB_UNIT_DIS_KTL v)).disableUnits Reg.GLB_UNIT_DIS_GKO .gecko
        (newFld Reg.GLB_UNIT_DIS_GKO v)).disableUnits Reg.GLB_UNIT_DIS_EMB .emb (newFld Reg.GLB_UNIT_DIS_EMB v)).fld
          Reg.GLB_UNIT_DIS f = f.get v.toNat := by
  have hk := disableUnits_disabledTo s (f := Reg.GLB_UNIT_DIS_KTL) (by decide) (by decide) .kettle
    (newFld Reg.GLB_UNIT_DIS_KTL v) hidle
  have hg := disableUnits_disabledTo _ (f := Reg.GLB_UNIT_DIS_GKO) (by decide) (by decide) .gecko
    (newFld Reg.GLB_UNIT_DIS_GKO v) fun e => (hk.idle e).trans (hidle e)
  have he := disableUnits_disabledTo _ (f := Reg.GLB_UNIT_DIS_EMB) (by decide) (by decide) .emb
    (newFld Reg.GLB_UNIT_DIS_EMB v) fun e => (hg.idle e).trans ((hk.idle e).trans (hidle e))
  rw [List.forall_mem_cons, List.forall_mem_cons, List.forall_mem_singleton]
  refine ⟨?_, ?_, he.fld_eq (by decide) (Fld.get_lt _ _)⟩
  · rw [he.others _ (by decide), hg.others _ (by decide)]
    exact hk.fld_eq (by decide) (Fld.get_lt _ _)
  · rw [he.others _ (by decide)]
    exact hg.fld_eq (by decide) (Fld.get_lt _ _)

theorem writeUnitDis_ignored {s : State} {via : Via} (h : s.secureVia via = false ∨ s.flag Reg.GLB_LOCK Reg.GLB_LOCK_UNITS = true)
    (v : Word) : s.writeUnitDis via v = s := by
  rcases h with h | h <;> simp [State.writeUnitDis, h]

/-- A secure write of `GLB_UNIT_DIS` that is not locked, with every engine idle, up to the work that it lets go on. -/
theorem writeUnitDis_of_idle {s : State} {via : Via} (hsec : s.secureVia via = true)
    (hlock : s.flag Reg.GLB_LOCK Reg.GLB_LOCK_UNITS = false) (hidle : ∀ e, s.engineIdle e = true) (v : Word) :
    ∃ u : State, s.writeUnitDis via v = u.go ∧
      ∀ f ∈ [Reg.GLB_UNIT_DIS_KTL, Reg.GLB_UNIT_DIS_GKO, Reg.GLB_UNIT_DIS_EMB],
        u.fld Reg.GLB_UNIT_DIS f = f.get v.toNat := by
  simp only [State.writeUnitDis, hsec, hlock, Bool.not_true, Bool.or_false, Bool.false_eq_true, if_false]
  refine ⟨_, rfl, fun f hf => ?_⟩
  rw [← disableUnits_fld s v hidle f hf]
  split
  · rfl
  · exact fld_setFld_other _ _ _ _ (by decide)

/-! ## The lock -/

theorem writeLock_insecure {s : State} {via : Via} (h : s.secureVia via = false) (v : Word) : s.writeLock via v = s := by
  simp [State.writeLock, h]

theorem exec_unitsLock {via : Via} {v : Word} {s : State} (hm : s.mayWrite via Reg.GLB_LOCK.off = true)
    (hsec : s.secureVia via = true) (hv : newFld Reg.GLB_LOCK_UNITS v = 1) :
    exec (.unitsLock via v) s = done s (s.setFld Reg.GLB_LOCK Reg.GLB_LOCK_UNITS 1) :=
  congrArg (done s) ((if_pos hm).trans (if_pos ⟨hsec, hv⟩))

/-! ## The obligation -/

/-- Settles O41: each write is its handler's, which a secure access alone passes; the disable bits are written engine by
engine. -/
theorem partitionAndUnits : Obligations.PartitionAndUnits := by
  intro via v s hs
  refine ⟨fun hm hsec hhall => ?_, fun hm hsec hwas hnew => ?_, fun hm hsec hlock hidle => ?_, fun hm hsec hv => ?_,
    fun hlock => ?_, fun hsec => ⟨?_, ?_, ?_⟩⟩
  · have hopen : ¬ (s.flag Reg.GLB_PART_CTL Reg.GLB_PART_CTL_HALL = true ∧ newFld Reg.GLB_PART_CTL_HALL v = 0) := by
      rintro ⟨hwas, hnew⟩
      rcases hhall with h | h
      · exact absurd (h.symm.trans hwas) (by decide)
      · exact absurd (h.symm.trans hnew) (by decide)
    refine ⟨s.commitPart v, ?_, commitPart_onlyRegs s v, commitPart_members s v, fun f hf => commitPart_fld s v hf⟩
    rw [exec_partitionCommit hm, writePartCtl_secure hsec, if_neg hopen, done_of_onlyRegs hs (commitPart_onlyRegs s v)]
  · obtain ⟨u, hu, hregs, houts⟩ := commitPart_closeHall s v
    refine ⟨u, ?_, (hregs _).trans (commitPart_members s v), ?_, houts⟩
    · rw [exec_partitionCommit hm, writePartCtl_secure hsec, if_pos ⟨hwas, hnew⟩, hu, done_eq]
    · rw [flag_congr _ (hregs _), flag_eq_false, commitPart_fld s v (by simp)]
      exact fun h => absurd (h.symm.trans hnew) (by decide)
  · obtain ⟨u, hu, hfld⟩ := writeUnitDis_of_idle hsec hlock hidle v
    exact ⟨u, by rw [exec_unitDisable hm, hu, done_eq], hfld⟩
  · have honly := setFld_onlyReg s Reg.GLB_LOCK Reg.GLB_LOCK_UNITS 1
    refine ⟨_, by rw [exec_unitsLock hm hsec hv, done_of_onlyReg hs honly], honly, flag_eq_true.2 ?_⟩
    exact fld_setFld_same _ _ _ (by decide) (by decide)
  · exact done_ite_self hs _ (writeUnitDis_ignored (.inr hlock) v)
  · exact done_ite_self hs _ (writePartCtl_insecure hsec v)
  · exact done_ite_self hs _ (writeUnitDis_ignored (.inl hsec) v)
  · exact done_ite_self hs _ (writeLock_insecure hsec v)

end Sys2Proof.Machine
end

section
/-! SUPPORT. What the recorder, the health scores and the queues of the fabric ports change: events and scores leave
registers, ports and work alone; offering queued messages their paths again changes the queues alone. -/

namespace Sys2Proof.Machine

/-! ## Records, advisories and scores (R519 to R531) -/

/-- Everything but the recorder, health and containment data, advisories, replies and the pool of frames is as it was, and the
module is contained as before. -/
def State.OnlyNotes (s t : State) : Prop :=
  ∃ r q p i, t = { s with ras := r, ringq := q, out := { s.out with replies := p }, tier := i } ∧
    r.moduleContained = s.ras.moduleContained

namespace State.OnlyNotes

variable {s t u : State}

theorem refl (s : State) : s.OnlyNotes s := ⟨s.ras, s.ringq, s.out.replies, s.tier, rfl, rfl⟩

theorem trans (h : s.OnlyNotes t) (h' : t.OnlyNotes u) : s.OnlyNotes u := by
  obtain ⟨_, _, _, _, rfl, hc⟩ := h
  obtain ⟨r, q, p, i, rfl, hc'⟩ := h'
  exact ⟨r, q, p, i, rfl, hc'.trans hc⟩

theorem of_ras {r : RasState} (h : r.moduleContained = s.ras.moduleContained) : s.OnlyNotes { s with ras := r } :=
  ⟨r, s.ringq, s.out.replies, s.tier, rfl, h⟩

theorem moduleContained_eq (h : s.OnlyNotes t) : t.ras.moduleContained = s.ras.moduleContained := by
  obtain ⟨_, _, _, _, rfl, hc⟩ := h
  exact hc

theorem regs_eq (h : s.OnlyNotes t) : t.regs = s.regs := by obtain ⟨_, _, _, _, rfl, -⟩ := h; rfl

theorem tasks_eq (h : s.OnlyNotes t) : t.tasks = s.tasks := by obtain ⟨_, _, _, _, rfl, -⟩ := h; rfl

theorem fab_eq (h : s.OnlyNotes t) : t.fab = s.fab := by obtain ⟨_, _, _, _, rfl, -⟩ := h; rfl

theorem tick_eq (h : s.OnlyNotes t) : t.tick = s.tick := by obtain ⟨_, _, _, _, rfl, -⟩ := h; rfl

theorem reg_eq (h : s.OnlyNotes t) (q : RegId) : t.reg q = s.reg q := by simp only [State.reg, h.regs_eq]

theorem port_eq (h : s.OnlyNotes t) (n : Nat) : t.port n = s.port n := by simp only [State.port, h.fab_eq]

end State.OnlyNotes

theorem dropEvent_onlyNotes (s : State) (n : Nat) : s.OnlyNotes (s.dropEvent n) := .of_ras rfl

theorem openEvent_onlyNotes (s : State) (e : Ev) (i : EvInfo) : s.OnlyNotes (s.openEvent e i).1 := by
  unfold State.openEvent
  dsimp only
  split
  · exact dropEvent_onlyNotes s 1
  · split
    · exact .of_ras rfl
    · split
      · exact .of_ras rfl
      · split
        · exact dropEvent_onlyNotes s 1
        · split
          · exact dropEvent_onlyNotes s 1
          · split
            · exact dropEvent_onlyNotes s 1
            · exact .of_ras rfl

theorem advise_onlyNotes (s : State) (kind severity scope : Nat) (object : PartId) (value : Nat) (rec_ : Option Nat)
    (detail : Nat) : s.OnlyNotes (s.advise kind severity scope object value rec_ detail) := by
  unfold State.advise
  dsimp only
  split
  · exact ⟨_, _, _, _, rfl, rfl⟩
  · exact ⟨_, _, _, _, rfl, rfl⟩

theorem reserveCheck_onlyNotes (s : State) (n : Nat) : s.OnlyNotes (s.reserveCheck n) := by
  unfold State.reserveCheck
  split
  · exact (openEvent_onlyNotes s _ _).trans (advise_onlyNotes ..)
  · exact .refl s

theorem eventSeq_onlyNotes (s : State) (e : Ev) (i : EvInfo) : s.OnlyNotes (s.eventSeq e i).1 := by
  unfold State.eventSeq
  split
  · exact (openEvent_onlyNotes s e i).trans (reserveCheck_onlyNotes ..)
  · split
    · dsimp only
      split
      · exact .of_ras rfl
      · exact .of_ras rfl
    · exact (openEvent_onlyNotes s e i).trans (reserveCheck_onlyNotes ..)

theorem event_onlyNotes (s : State) (e : Ev) (i : EvInfo) : s.OnlyNotes (s.event e i) := eventSeq_onlyNotes s e i

theorem eventAdvise_onlyNotes (s : State) (e : Ev) (i : EvInfo) (value : Nat) : s.OnlyNotes (s.eventAdvise e i value) :=
  (eventSeq_onlyNotes s e i).trans (advise_onlyNotes ..)

theorem setHealth_onlyNotes (s : State) (p : PartId) (h : Health) : s.OnlyNotes (s.setHealth p h) := .of_ras rfl

theorem healthState_onlyNotes (s : State) (p : PartId) (st : Nat) (e : Ev) : s.OnlyNotes (s.healthState p st e) :=
  (setHealth_onlyNotes s p _).trans (eventAdvise_onlyNotes ..)

theorem startRetire_onlyNotes (s : State) (p : PartId) : s.OnlyNotes (s.startRetire p) := by
  unfold State.startRetire
  split
  · exact ⟨_, _, _, _, rfl, rfl⟩
  · exact .refl s

theorem raiseScore_onlyNotes (s : State) (p : PartId) (new : Nat) : s.OnlyNotes (s.raiseScore p new) := by
  have hset := setHealth_onlyNotes s p { s.health p with score := new }
  unfold State.raiseScore
  dsimp only
  generalize s.setHealth p { s.health p with score := new } = t at hset ⊢
  have hadv : s.OnlyNotes (if (s.health p).st = 0 ∧ s.advisePoint p.kind.toNat ≤ new then t.healthState p 1 .healthAdvise
      else t) := by
    split
    · exact hset.trans (healthState_onlyNotes ..)
    · exact hset
  generalize (if (s.health p).st = 0 ∧ s.advisePoint p.kind.toNat ≤ new then t.healthState p 1 .healthAdvise else t) = u
    at hadv ⊢
  split
  · split
    · exact hadv.trans ((healthState_onlyNotes ..).trans (startRetire_onlyNotes ..))
    · split
      · exact hadv.trans (healthState_onlyNotes ..)
      · exact hadv
  · exact hadv

theorem score_onlyNotes (s : State) (p : PartId) (e : PartEvent) : s.OnlyNotes (s.score p e) := by
  unfold State.score
  dsimp only
  split
  · exact .refl s
  · exact (setHealth_onlyNotes ..).trans (raiseScore_onlyNotes ..)

/-! ## Messages queued on ports (R426, R427, R433) -/

theorem port_setPort_same (s : State) (n : Nat) (p : Port) : (s.setPort n p).port n = p := SMap.get_set_same ..

theorem port_setPort_other (s : State) {n m : Nat} (p : Port) (h : m ≠ n) : (s.setPort n p).port m = s.port m :=
  SMap.get_set_other _ _ _ _ h

/-- Everything but the messages queued on ports and the count of free values is as it was. -/
def State.OnlyTx (s t : State) : Prop :=
  (∃ p f, t = { s with free := f, fab := { s.fab with ports := p } }) ∧ ∀ n, ∃ x, t.port n = { s.port n with tx := x }

namespace State.OnlyTx

variable {s t u : State}

theorem refl (s : State) : s.OnlyTx s := ⟨⟨s.fab.ports, s.free, rfl⟩, fun n => ⟨(s.port n).tx, rfl⟩⟩

theorem trans (h : s.OnlyTx t) (h' : t.OnlyTx u) : s.OnlyTx u := by
  obtain ⟨⟨_, _, rfl⟩, hs⟩ := h
  obtain ⟨⟨p, f, rfl⟩, ht⟩ := h'
  refine ⟨⟨p, f, rfl⟩, fun n => ?_⟩
  obtain ⟨y, hy⟩ := hs n
  obtain ⟨x, hx⟩ := ht n
  exact ⟨x, by rw [hx, hy]⟩

theorem reg_eq (h : s.OnlyTx t) (q : RegId) : t.reg q = s.reg q := by obtain ⟨⟨_, _, rfl⟩, -⟩ := h; rfl

theorem out_eq (h : s.OnlyTx t) : t.out = s.out := by obtain ⟨⟨_, _, rfl⟩, -⟩ := h; rfl

end State.OnlyTx

theorem setPort_tx_onlyTx (s : State) (n : Nat) (x : List (Nat × Msg)) : s.OnlyTx (s.setPort n { s.port n with tx := x }) := by
  refine ⟨⟨_, _, rfl⟩, fun m => ?_⟩
  by_cases h : m = n
  · subst h
    exact ⟨x, port_setPort_same ..⟩
  · exact ⟨(s.port m).tx, port_setPort_other s _ h⟩

theorem enqueue_onlyTx (s : State) (n : Nat) (m : Msg) : s.OnlyTx (s.enqueue n m) := setPort_tx_onlyTx s n _

theorem sendPeer_onlyTx (s : State) (d : Nat) (m : Msg) : s.OnlyTx (s.sendPeer d m).1 := by
  unfold State.sendPeer
  split
  · exact enqueue_onlyTx ..
  · exact enqueue_onlyTx ..

theorem pickUplink_onlyTx (s : State) (r : Nat) : s.OnlyTx (s.pickUplink r).2 := by
  unfold State.pickUplink
  dsimp only
  split
  · exact .refl s
  · exact ⟨⟨_, _, rfl⟩, fun n => ⟨_, rfl⟩⟩

theorem replace_onlyTx (s : State) (n : Nat) (m : Msg) : s.OnlyTx (s.replace n m) := by
  unfold State.replace
  split
  · exact .refl s
  · split
    · exact sendPeer_onlyTx ..
    · split
      · exact enqueue_onlyTx ..
      · have hpick := pickUplink_onlyTx s m.hdr.dstRack.toNat
        split
        · next heq =>
          rw [heq] at hpick
          exact hpick.trans (enqueue_onlyTx ..)
        · next heq =>
          rw [heq] at hpick
          exact hpick.trans (enqueue_onlyTx ..)

theorem requeue_onlyTx (s : State) : s.OnlyTx s.requeue := by
  unfold State.requeue
  refine List.foldlRecOn _ _ (State.OnlyTx.refl s) fun t ht n _ => ht.trans ?_
  exact List.foldlRecOn _ _ (setPort_tx_onlyTx t n []) fun u hu e _ => hu.trans (replace_onlyTx ..)

@[simp] theorem requeue_reg (s : State) (q : RegId) : s.requeue.reg q = s.reg q := (requeue_onlyTx s).reg_eq q

/-- A port after its queued messages have been offered their paths again. -/
theorem port_requeue (s : State) (n : Nat) : ∃ x, s.requeue.port n = { s.port n with tx := x } := (requeue_onlyTx s).2 n

end Sys2Proof.Machine
end

section
/-! SUPPORT. Fabric ports (R413 to R422, R435): a port's STATE and CAUSE, going DOWN, training, the check, retraining, and
what each leaves alone. -/

namespace Sys2Proof.Machine

/-! ## Which registers are apart -/

/-- The registers from `ZL_PORT_CTL_0` on lie above the fabric's settings. -/
theorem ne_portStat_of_lt {q : RegId} (h : q.off < 0xb01000) (n : Nat) : q.off ≠ (Reg.ZL_PORT_STAT n).off := by
  simp only [Reg.ZL_PORT_STAT]; omega

theorem ne_portErr_of_lt {q : RegId} (h : q.off < 0xb01000) (n : Nat) : q.off ≠ (Reg.ZL_PORT_ERR n).off := by
  simp only [Reg.ZL_PORT_ERR]; omega

theorem ne_portCtl_of_lt {q : RegId} (h : q.off < 0xb01000) (n : Nat) : q.off ≠ (Reg.ZL_PORT_CTL n).off := by
  simp only [Reg.ZL_PORT_CTL]; omega

theorem portCtl_ne_portStat (n m : Nat) : (Reg.ZL_PORT_CTL n).off ≠ (Reg.ZL_PORT_STAT m).off := by
  simp only [Reg.ZL_PORT_CTL, Reg.ZL_PORT_STAT]; omega

theorem portCtl_ne_portErr (n m : Nat) : (Reg.ZL_PORT_CTL n).off ≠ (Reg.ZL_PORT_ERR m).off := by
  simp only [Reg.ZL_PORT_CTL, Reg.ZL_PORT_ERR]; omega

theorem portErr_ne_portStat (n m : Nat) : (Reg.ZL_PORT_ERR n).off ≠ (Reg.ZL_PORT_STAT m).off := by
  simp only [Reg.ZL_PORT_ERR, Reg.ZL_PORT_STAT]; omega

theorem portStat_ne_portStat {n m : Nat} (h : n ≠ m) : (Reg.ZL_PORT_STAT n).off ≠ (Reg.ZL_PORT_STAT m).off := by
  simp only [Reg.ZL_PORT_STAT]; omega

theorem lsr_lt {c : Nat} (h : c < 8) : (Reg.ZL_LSR c).off < 0xb01000 := by
  simp only [Reg.ZL_LSR]; omega

/-- A register of a port is none of the eight cartridges'. -/
theorem ne_lsr_of_ge {q : RegId} (h : 0xb01000 ≤ q.off) : ∀ r ∈ (List.range 8).map Reg.ZL_LSR, q.off ≠ r.off := by
  intro r hr
  obtain ⟨c, hc, rfl⟩ := List.mem_map.1 hr
  have := lsr_lt (List.mem_range.1 hc)
  omega

theorem portStat_ge (n : Nat) : 0xb01000 ≤ (Reg.ZL_PORT_STAT n).off := by simp only [Reg.ZL_PORT_STAT]; omega

theorem portCtl_ge (n : Nat) : 0xb01000 ≤ (Reg.ZL_PORT_CTL n).off := by simp only [Reg.ZL_PORT_CTL]; omega

/-! ## STATE and CAUSE -/

/-- A port is in a state with a cause. -/
def State.PortAt (s : State) (n st cause : Nat) : Prop := s.portState n = st ∧ s.portCause n = cause

theorem portState_congr {s t : State} {n : Nat} (h : t.reg (Reg.ZL_PORT_STAT n) = s.reg (Reg.ZL_PORT_STAT n)) :
    t.portState n = s.portState n := fld_congr _ h

theorem State.PortAt.congr {s t : State} {n st cause : Nat} (hs : s.PortAt n st cause)
    (h : t.reg (Reg.ZL_PORT_STAT n) = s.reg (Reg.ZL_PORT_STAT n)) : t.PortAt n st cause :=
  ⟨(portState_congr h).trans hs.1, (fld_congr _ h).trans hs.2⟩

theorem portState_setPortState (s : State) (n : Nat) {st : Nat} (h : st < 8) : (s.setPortState n st).portState n = st :=
  (fld_setFld_same s _ st (by decide) (by decide)).trans (Nat.mod_eq_of_lt h)

theorem portAt_setState_setCause (s : State) (n : Nat) {st cause : Nat} (hst : st < 8) (hc : cause < 16) :
    ((s.setPortState n st).setPortCause n cause).PortAt n st cause := by
  constructor
  · exact (fld_setFld_field _ _ _ (by decide) (by decide) (by decide)).trans (portState_setPortState s n hst)
  · exact (fld_setFld_same _ _ _ (by decide) (by decide)).trans (Nat.mod_eq_of_lt hc)

theorem reg_setPortState_other (s : State) {n : Nat} (st : Nat) {q : RegId} (h : q.off ≠ (Reg.ZL_PORT_STAT n).off) :
    (s.setPortState n st).reg q = s.reg q := reg_setFld_other s _ st h

theorem reg_setPortCause_other (s : State) {n : Nat} (c : Nat) {q : RegId} (h : q.off ≠ (Reg.ZL_PORT_STAT n).off) :
    (s.setPortCause n c).reg q = s.reg q := reg_setFld_other s _ c h

@[simp] theorem clearCredits_reg (s : State) (n : Nat) (q : RegId) : (s.clearCredits n).reg q = s.reg q := rfl

@[simp] theorem clearCredits_port (s : State) (n m : Nat) : (s.clearCredits n).port m = s.port m := rfl

@[simp] theorem setPortState_port (s : State) (n st m : Nat) : (s.setPortState n st).port m = s.port m := rfl

@[simp] theorem setReg_port (s : State) (r : RegId) (v m : Nat) : (s.setReg r v).port m = s.port m := rfl

@[simp] theorem setFld_port (s : State) (r : RegId) (f : Fld) (v m : Nat) : (s.setFld r f v).port m = s.port m := rfl

@[simp] theorem bump_port (s : State) (r : RegId) (f : Fld) (v m : Nat) : (s.bump r f v).port m = s.port m := rfl

theorem State.OnlyRegs.refl (s : State) (l : List RegId) : s.OnlyRegs s l := ⟨⟨s.regs, rfl⟩, fun _ _ => rfl⟩

/-! ## Light -/

theorem lit_congr {s t : State} (h : ∀ c, c < 8 → t.reg (Reg.ZL_LSR c) = s.reg (Reg.ZL_LSR c)) (n : Nat) : t.lit n = s.lit n := by
  have hon : ∀ c, c < 8 → t.laserOn c = s.laserOn c := fun c hc => by
    simp only [State.laserOn, fld_congr _ (h c hc)]
  have hA : feedA (n / 2) < 8 := Nat.mod_lt _ (by decide)
  have hB : feedB (n / 2) < 8 := Nat.mod_lt _ (by decide)
  rw [State.lit, State.lit, hon _ hA, hon _ hB]

/-- A cartridge's settling touches the cartridges' registers alone. -/
theorem laserSettle_onlyRegs (s : State) : s.OnlyRegs s.laserSettle ((List.range 8).map Reg.ZL_LSR) := by
  unfold State.laserSettle
  refine List.foldlRecOn (motive := s.OnlyRegs (l := _)) _ _ (.refl s _) fun t ht c hc => ht.trans ?_
  dsimp only
  split
  · exact (setFld_onlyReg ..).regs (List.mem_map_of_mem hc)
  · exact .refl t _

theorem laserSettle_reg (s : State) {q : RegId} (h : 0xb01000 ≤ q.off) : s.laserSettle.reg q = s.reg q :=
  (laserSettle_onlyRegs s).2 q (ne_lsr_of_ge h)

theorem laserSettle_port (s : State) (n : Nat) : s.laserSettle.port n = s.port n := by
  obtain ⟨w, hw⟩ := (laserSettle_onlyRegs s).1
  rw [hw]
  rfl

/-! ## A port goes DOWN or FAILED -/

theorem portGoes_reg (s : State) (n st cause : Nat) (q : RegId) :
    (s.portGoes n st cause).reg q = ((s.setPortState n st).setPortCause n cause).reg q := by
  rw [State.portGoes, requeue_reg, setPort_reg, clearCredits_reg]

theorem portGoes_portAt (s : State) (n : Nat) {st cause : Nat} (hst : st < 8) (hc : cause < 16) :
    (s.portGoes n st cause).PortAt n st cause :=
  (portAt_setState_setCause s n hst hc).congr (portGoes_reg s n st cause _)

theorem portGoes_reg_other (s : State) {n : Nat} (st cause : Nat) {q : RegId} (h : q.off ≠ (Reg.ZL_PORT_STAT n).off) :
    (s.portGoes n st cause).reg q = s.reg q := by
  rw [portGoes_reg, reg_setPortCause_other _ _ h, reg_setPortState_other _ _ h]

theorem portGoes_port_same (s : State) (n st cause : Nat) : ∃ x, (s.portGoes n st cause).port n =
    { s.port n with tx := x, replay := [], fast := false, laser := false, since := s.tick } := by
  obtain ⟨x, hx⟩ := port_requeue ((((s.setPortState n st).setPortCause n cause).clearCredits n).setPort n
    { s.port n with replay := [], fast := false, laser := false, since := s.tick }) n
  rw [port_setPort_same] at hx
  exact ⟨x, hx⟩

theorem portGoes_port_other (s : State) {n m : Nat} (st cause : Nat) (h : m ≠ n) :
    ∃ x, (s.portGoes n st cause).port m = { s.port m with tx := x } := by
  obtain ⟨x, hx⟩ := port_requeue ((((s.setPortState n st).setPortCause n cause).clearCredits n).setPort n
    { s.port n with replay := [], fast := false, laser := false, since := s.tick }) m
  rw [port_setPort_other _ _ h] at hx
  exact ⟨x, hx⟩

/-! ## Training (R14, R416) -/

/-- A port has its identity: the service port needs none. -/
def State.Known (s : State) (n : Nat) : Prop := n = 49 ∨ s.flag Reg.ZL_IDENT Reg.ZL_IDENT_SET = true

/-- From the identity and light of `s` and the signal given, port n of `t` trains, or stays DOWN with the cause that forbids it. -/
def State.Trains (s t : State) (n : Nat) (signal : Bool) : Prop :=
  (¬ s.Known n → t.PortAt n 0 7) ∧ (s.Known n → s.lit n = false → t.PortAt n 0 6) ∧
  (s.Known n → s.lit n = true → signal = false → t.PortAt n 0 2) ∧
  (s.Known n → s.lit n = true → signal = true → t.PortAt n 1 0)

/-- Training that nothing forbids. -/
def State.beginTraining (s : State) (n : Nat) : State :=
  ((s.setPort n { s.port n with fast := false, badId := false, laser := false }).setPortState n 1).setPortCause n 0

theorem startTraining_cases (s : State) (n : Nat) :
    (¬ s.Known n ∧ s.startTraining n = s.portGoes n 0 7) ∨
    (s.Known n ∧ s.lit n = false ∧ s.startTraining n = s.portGoes n 0 6) ∨
    (s.Known n ∧ s.lit n = true ∧ (s.port n).signal = false ∧ s.startTraining n = s.portGoes n 0 2) ∨
    (s.Known n ∧ s.lit n = true ∧ (s.port n).signal = true ∧ s.startTraining n = s.beginTraining n) := by
  unfold State.startTraining
  by_cases hk : s.Known n
  · rw [if_neg (by unfold State.Known at hk; tauto)]
    cases hl : s.lit n with
    | false => exact .inr (.inl ⟨hk, rfl, if_pos (by simp)⟩)
    | true =>
      cases hsig : (s.port n).signal with
      | false => exact .inr (.inr (.inl ⟨hk, rfl, rfl, by simp⟩))
      | true => exact .inr (.inr (.inr ⟨hk, rfl, rfl, by simp [State.beginTraining]⟩))
  · rw [if_pos (by unfold State.Known at hk; tauto)]
    exact .inl ⟨hk, rfl⟩

theorem startTraining_trains (s : State) (n : Nat) : s.Trains (s.startTraining n) n (s.port n).signal := by
  have hgoes : ∀ c, c < 16 → (s.portGoes n 0 c).PortAt n 0 c := fun c hc => portGoes_portAt s n (by decide) hc
  rcases startTraining_cases s n with ⟨hk, h⟩ | ⟨hk, hl, h⟩ | ⟨hk, hl, hs, h⟩ | ⟨hk, hl, hs, h⟩
  · rw [h]
    exact ⟨fun _ => hgoes 7 (by decide), fun k => absurd k hk, fun k => absurd k hk, fun k => absurd k hk⟩
  · rw [h]
    refine ⟨fun k => absurd hk k, fun _ _ => hgoes 6 (by decide), fun _ l => ?_, fun _ l => ?_⟩
    · simp [hl] at l
    · simp [hl] at l
  · rw [h]
    refine ⟨fun k => absurd hk k, fun _ l => ?_, fun _ _ _ => hgoes 2 (by decide), fun _ _ g => ?_⟩
    · simp [hl] at l
    · simp [hs] at g
  · rw [h]
    refine ⟨fun k => absurd hk k, fun _ l => ?_, fun _ _ g => ?_, fun _ _ _ => portAt_setState_setCause _ n (by decide) (by decide)⟩
    · simp [hl] at l
    · simp [hs] at g

theorem startTraining_reg_other (s : State) {n : Nat} {q : RegId} (h : q.off ≠ (Reg.ZL_PORT_STAT n).off) :
    (s.startTraining n).reg q = s.reg q := by
  rcases startTraining_cases s n with ⟨-, e⟩ | ⟨-, -, e⟩ | ⟨-, -, -, e⟩ | ⟨-, -, -, e⟩
  · rw [e, portGoes_reg_other s 0 7 h]
  · rw [e, portGoes_reg_other s 0 6 h]
  · rw [e, portGoes_reg_other s 0 2 h]
  · rw [e]
    exact (reg_setPortCause_other _ _ h).trans (reg_setPortState_other _ _ h)

theorem portGoes_signal (s : State) (n st cause m : Nat) : ((s.portGoes n st cause).port m).signal = (s.port m).signal := by
  by_cases h : m = n
  · subst h
    obtain ⟨x, hx⟩ := portGoes_port_same s m st cause
    rw [hx]
  · obtain ⟨x, hx⟩ := portGoes_port_other s st cause h
    rw [hx]

theorem startTraining_signal (s : State) (n m : Nat) : ((s.startTraining n).port m).signal = (s.port m).signal := by
  rcases startTraining_cases s n with ⟨-, e⟩ | ⟨-, -, e⟩ | ⟨-, -, -, e⟩ | ⟨-, -, -, e⟩
  · rw [e, portGoes_signal]
  · rw [e, portGoes_signal]
  · rw [e, portGoes_signal]
  · rw [e]
    change ((s.setPort n { s.port n with fast := false, badId := false, laser := false }).port m).signal = _
    by_cases h : m = n
    · rw [h, port_setPort_same]
    · rw [port_setPort_other _ _ h]

/-- Two states show the same identity and light where the fabric's settings read the same. -/
theorem State.Trains.congr {s t u : State} {n : Nat} {signal : Bool} (h : t.Trains u n signal)
    (hregs : ∀ q : RegId, q.off < 0xb01000 → t.reg q = s.reg q) : s.Trains u n signal := by
  have hident : t.flag Reg.ZL_IDENT Reg.ZL_IDENT_SET = s.flag Reg.ZL_IDENT Reg.ZL_IDENT_SET :=
    flag_congr _ (hregs _ (by decide))
  have hlit : t.lit n = s.lit n := lit_congr (fun c hc => hregs _ (lsr_lt hc)) n
  simpa only [State.Trains, State.Known, hident, hlit] using h

/-! ## Retraining (R416, R418, R419) -/

/-- What the start of a retrain does at the port itself, before it is scored. -/
def State.beginRetrain (s : State) (n : Nat) : State :=
  let t := ((s.bump (Reg.ZL_PORT_ERR n) Reg.ZL_PORT_ERR_RETRAINS 1).setPortState n 4).clearCredits n
  t.setPort n { t.port n with fast := true }

theorem enterRetrain_eq (s : State) (n : Nat) :
    s.enterRetrain n = ((s.beginRetrain n).score (obj 9 n) .retrain).requeue := rfl

theorem enterRetrain_reg (s : State) (n : Nat) (q : RegId) : (s.enterRetrain n).reg q =
    ((s.bump (Reg.ZL_PORT_ERR n) Reg.ZL_PORT_ERR_RETRAINS 1).setPortState n 4).reg q := by
  rw [enterRetrain_eq, requeue_reg, (score_onlyNotes ..).reg_eq, State.beginRetrain, setPort_reg, clearCredits_reg]

theorem enterRetrain_reg_other (s : State) {n : Nat} {q : RegId} (hs : q.off ≠ (Reg.ZL_PORT_STAT n).off)
    (he : q.off ≠ (Reg.ZL_PORT_ERR n).off) : (s.enterRetrain n).reg q = s.reg q := by
  rw [enterRetrain_reg, reg_setPortState_other _ _ hs]
  exact reg_setFld_other _ _ _ he

theorem enterRetrain_state (s : State) (n : Nat) : (s.enterRetrain n).portState n = 4 :=
  (portState_congr (enterRetrain_reg s n _)).trans (portState_setPortState _ n (by decide))

theorem enterRetrain_count (s : State) (n : Nat) : (s.enterRetrain n).fld (Reg.ZL_PORT_ERR n) Reg.ZL_PORT_ERR_RETRAINS =
    (s.fld (Reg.ZL_PORT_ERR n) Reg.ZL_PORT_ERR_RETRAINS + 1) % 2 ^ 16 := by
  rw [fld_congr _ (enterRetrain_reg s n _), fld_congr _ (reg_setPortState_other _ _ (portErr_ne_portStat n n))]
  exact fld_setFld_same _ _ _ (by decide) (by decide)

theorem enterRetrain_port (s : State) (n : Nat) : ∃ x, (s.enterRetrain n).port n = { s.port n with tx := x, fast := true } := by
  obtain ⟨x, hx⟩ := port_requeue ((s.beginRetrain n).score (obj 9 n) .retrain) n
  refine ⟨x, ?_⟩
  rw [enterRetrain_eq, hx, (score_onlyNotes ..).port_eq, State.beginRetrain, port_setPort_same, clearCredits_port,
    setPortState_port, bump_port]

end Sys2Proof.Machine
end

section
/-! O55: the states of fabric ports (R14, R413 to R420, R422, R435, R546). -/

namespace Sys2Proof.Machine

/-! ## What settling shows -/

theorem State.PortAt.settle {u : State} {n st cause : Nat} (h : u.PortAt n st cause) (s : State) :
    (settle s u).PortAt n st cause := h

theorem State.Trains.settle {x u : State} {n : Nat} {signal : Bool} (h : x.Trains u n signal) (s : State) :
    x.Trains (settle s u) n signal := h

theorem settle_port (s u : State) (n : Nat) : (settle s u).port n = u.port n := rfl

theorem settle_portState (s u : State) (n : Nat) : (settle s u).portState n = u.portState n := rfl

theorem settle_portEn (s u : State) (n : Nat) : (settle s u).portEn n = u.portEn n := rfl

/-! ## A write of `ZL_PORT_CTL_n` (R416, R420, R435) -/

theorem fieldsAt_portCtl : ∀ n : Fin 50, fieldsAt ((Reg.ZL_PORT_CTL n.val).off % 2 ^ 40) =
    [Reg.ZL_PORT_CTL_EN, Reg.ZL_PORT_CTL_FENCE, Reg.ZL_PORT_CTL_RETRAIN] := by decide +kernel

/-- The register's fields as they are written. -/
def State.putCtl (s : State) (via : Via) (n : Nat) (v : Word) : State :=
  s.writePlain (s.secureVia via) (Reg.ZL_PORT_CTL n) [] v.toNat

theorem putCtl_reg_other (s : State) (via : Via) {n : Nat} (v : Word) {q : RegId} (h : q.off ≠ (Reg.ZL_PORT_CTL n).off) :
    (s.putCtl via n v).reg q = s.reg q := reg_writePlain_other s _ _ _ h

theorem putCtl_en (s : State) (via : Via) (n : Fin 50) (v : Word) :
    (s.putCtl via n.val v).fld (Reg.ZL_PORT_CTL n.val) Reg.ZL_PORT_CTL_EN = newFld Reg.ZL_PORT_CTL_EN v :=
  fld_writePlain_of_mem s _ (by rw [fieldsAt_portCtl n]; decide) _

theorem putCtl_fence (s : State) (via : Via) (n : Fin 50) (v : Word) :
    (s.putCtl via n.val v).fld (Reg.ZL_PORT_CTL n.val) Reg.ZL_PORT_CTL_FENCE = newFld Reg.ZL_PORT_CTL_FENCE v :=
  fld_writePlain_of_mem s _ (by rw [fieldsAt_portCtl n]; decide) _

theorem putCtl_port (s : State) (via : Via) (n : Nat) (v : Word) (m : Nat) : (s.putCtl via n v).port m = s.port m := setReg_port ..

theorem putCtl_portState (s : State) (via : Via) (n : Nat) (v : Word) : (s.putCtl via n v).portState n = s.portState n :=
  portState_congr (putCtl_reg_other s via v (portCtl_ne_portStat n n).symm)

/-- The fields written, and the retrain that RETRAIN = 1 asks for. -/
def State.putCtlRetrain (s : State) (via : Via) (n : Nat) (v : Word) : State :=
  if newFld Reg.ZL_PORT_CTL_RETRAIN v = 1 ∧ (s.putCtl via n v).portState n = 3 then (s.putCtl via n v).enterRetrain n
  else s.putCtl via n v

theorem putCtlRetrain_reg_other (s : State) (via : Via) {n : Nat} (v : Word) {q : RegId}
    (hc : q.off ≠ (Reg.ZL_PORT_CTL n).off) (hs : q.off ≠ (Reg.ZL_PORT_STAT n).off) (he : q.off ≠ (Reg.ZL_PORT_ERR n).off) :
    (s.putCtlRetrain via n v).reg q = s.reg q := by
  unfold State.putCtlRetrain
  split
  · rw [enterRetrain_reg_other _ hs he, putCtl_reg_other s via v hc]
  · exact putCtl_reg_other s via v hc

theorem putCtlRetrain_reg_of_lt (s : State) (via : Via) (n : Nat) (v : Word) {q : RegId} (h : q.off < 0xb01000) :
    (s.putCtlRetrain via n v).reg q = s.reg q :=
  putCtlRetrain_reg_other s via v (ne_portCtl_of_lt h n) (ne_portStat_of_lt h n) (ne_portErr_of_lt h n)

theorem putCtlRetrain_en (s : State) (via : Via) (n : Fin 50) (v : Word) :
    (s.putCtlRetrain via n.val v).fld (Reg.ZL_PORT_CTL n.val) Reg.ZL_PORT_CTL_EN = newFld Reg.ZL_PORT_CTL_EN v := by
  rw [← putCtl_en s via n v]
  unfold State.putCtlRetrain
  split
  · exact fld_congr _ (enterRetrain_reg_other _ (portCtl_ne_portStat _ _) (portCtl_ne_portErr _ _))
  · rfl

theorem putCtlRetrain_signal (s : State) (via : Via) (n : Nat) (v : Word) :
    ((s.putCtlRetrain via n v).port n).signal = (s.port n).signal := by
  unfold State.putCtlRetrain
  split
  · obtain ⟨x, hx⟩ := enterRetrain_port (s.putCtl via n v) n
    rw [hx, putCtl_port]
  · rw [putCtl_port]

/-- A write that leaves FENCE as it is. -/
theorem writePortCtl_of_fence_same (s : State) (via : Via) (n : Fin 50) (v : Word)
    (hf : newFld Reg.ZL_PORT_CTL_FENCE v = s.fld (Reg.ZL_PORT_CTL n.val) Reg.ZL_PORT_CTL_FENCE) :
    s.writePortCtl via n.val v =
      if s.portEn n.val = true ∧ ¬ newFld Reg.ZL_PORT_CTL_EN v = 1 then ((s.putCtlRetrain via n.val v).portGoes n.val 0 1).laserSettle
      else if newFld Reg.ZL_PORT_CTL_EN v = 1 ∧ ¬ s.portEn n.val = true then (s.putCtlRetrain via n.val v).startTraining n.val
      else s.putCtlRetrain via n.val v := by
  have hflag : (s.putCtl via n.val v).flag (Reg.ZL_PORT_CTL n.val) Reg.ZL_PORT_CTL_FENCE =
      s.flag (Reg.ZL_PORT_CTL n.val) Reg.ZL_PORT_CTL_FENCE := by
    rw [State.flag, putCtl_fence, hf, State.flag]
  rw [State.putCtl] at hflag
  unfold State.writePortCtl
  dsimp only
  rw [hflag, if_neg (and_not_self (a := _)), if_neg (and_not_self (a := _)), ← State.putCtl, ← State.putCtlRetrain]
  by_cases hv : newFld Reg.ZL_PORT_CTL_EN v = 1
  · simp [hv]
  · simp [hv]

/-- A write that leaves EN as it is and asks for no retrain. -/
theorem writePortCtl_of_en_same (s : State) (via : Via) (n : Fin 50) (v : Word)
    (he : newFld Reg.ZL_PORT_CTL_EN v = s.fld (Reg.ZL_PORT_CTL n.val) Reg.ZL_PORT_CTL_EN)
    (hr : newFld Reg.ZL_PORT_CTL_RETRAIN v = 0) :
    s.writePortCtl via n.val v =
      if newFld Reg.ZL_PORT_CTL_FENCE v = 1 ∧ ¬ s.fld (Reg.ZL_PORT_CTL n.val) Reg.ZL_PORT_CTL_FENCE = 1 then
        (s.putCtl via n.val v).fencePort n.val
      else if s.fld (Reg.ZL_PORT_CTL n.val) Reg.ZL_PORT_CTL_FENCE = 1 ∧ ¬ newFld Reg.ZL_PORT_CTL_FENCE v = 1 then
        (s.putCtl via n.val v).unfencePort n.val
      else s.putCtl via n.val v := by
  have hfence := putCtl_fence s via n v
  rw [State.putCtl] at hfence
  simp only [State.writePortCtl, State.putCtl, State.portEn, State.flag, hfence, he, hr, Nat.zero_ne_one, false_and, if_false,
    decide_eq_true_eq, and_not_self_iff]

/-! ### EN (R416, R422) -/

theorem exec_portEnable {via : Via} {n : Fin 50} {v : Word} {s : State} (hm : s.mayWrite via (Reg.ZL_PORT_CTL n.val).off = true)
    (hv : newFld Reg.ZL_PORT_CTL_EN v = 1) : exec (.portEnable via n v) s = done s (s.writePortCtl via n.val v) :=
  congrArg (done s) (if_pos ⟨hm, hv⟩)

theorem exec_portDisable {via : Via} {n : Fin 50} {v : Word} {s : State} (hm : s.mayWrite via (Reg.ZL_PORT_CTL n.val).off = true)
    (hv : newFld Reg.ZL_PORT_CTL_EN v = 0) : exec (.portDisable via n v) s = done s (s.writePortCtl via n.val v) :=
  congrArg (done s) (if_pos ⟨hm, hv⟩)

theorem portEnable_trains {via : Via} {n : Fin 50} {v : Word} {s : State}
    (hm : s.mayWrite via (Reg.ZL_PORT_CTL n.val).off = true) (hen : s.portEn n.val = false)
    (hv : newFld Reg.ZL_PORT_CTL_EN v = 1)
    (hf : newFld Reg.ZL_PORT_CTL_FENCE v = s.fld (Reg.ZL_PORT_CTL n.val) Reg.ZL_PORT_CTL_FENCE) :
    ∃ t, exec (.portEnable via n v) s = .next t ∧ t.portEn n.val = true ∧ s.Trains t n.val (s.port n.val).signal := by
  refine ⟨settle s ((s.putCtlRetrain via n.val v).startTraining n.val), ?_, ?_, ?_⟩
  · rw [exec_portEnable hm hv, writePortCtl_of_fence_same s via n v hf, if_neg (by simp [hen]), if_pos (by simp [hen, hv]), done_eq]
  · rw [settle_portEn, State.portEn, flag_eq_true, fld_congr _ (startTraining_reg_other _ (portCtl_ne_portStat _ _)),
      putCtlRetrain_en, hv]
  · have h := (startTraining_trains (s.putCtlRetrain via n.val v) n.val).congr
      (fun q hq => putCtlRetrain_reg_of_lt s via n.val v hq)
    rw [putCtlRetrain_signal] at h
    exact h.settle s

theorem portDisable_down {via : Via} {n : Fin 50} {v : Word} {s : State}
    (hm : s.mayWrite via (Reg.ZL_PORT_CTL n.val).off = true) (hen : s.portEn n.val = true)
    (hv : newFld Reg.ZL_PORT_CTL_EN v = 0)
    (hf : newFld Reg.ZL_PORT_CTL_FENCE v = s.fld (Reg.ZL_PORT_CTL n.val) Reg.ZL_PORT_CTL_FENCE) :
    ∃ t, exec (.portDisable via n v) s = .next t ∧ t.portEn n.val = false ∧ t.PortAt n.val 0 1 ∧
      (t.port n.val).replay = [] := by
  let u := (s.putCtlRetrain via n.val v).portGoes n.val 0 1
  refine ⟨settle s u.laserSettle, ?_, ?_, ?_, ?_⟩
  · rw [exec_portDisable hm hv, writePortCtl_of_fence_same s via n v hf, if_pos (by simp [hen, hv]), done_eq]
  · rw [settle_portEn, State.portEn, flag_eq_false, fld_congr _ (laserSettle_reg u (portCtl_ge _)),
      fld_congr _ (portGoes_reg_other _ 0 1 (portCtl_ne_portStat _ _)), putCtlRetrain_en, hv]
    decide
  · exact ((portGoes_portAt _ _ (by decide) (by decide)).congr (laserSettle_reg u (portStat_ge _))).settle s
  · obtain ⟨x, hx⟩ := portGoes_port_same (s.putCtlRetrain via n.val v) n.val 0 1
    rw [settle_port, laserSettle_port, hx]

/-! ### RETRAIN (R420) -/

/-- The word that RETRAIN = 1 is written with. -/
def State.retrainWord (s : State) (n : Nat) : Word := BitVec.ofNat 64 (Reg.ZL_PORT_CTL_RETRAIN.put (s.reg (Reg.ZL_PORT_CTL n)) 1)

theorem toNat_retrainWord (s : State) (n : Nat) :
    (s.retrainWord n).toNat = Reg.ZL_PORT_CTL_RETRAIN.put (s.reg (Reg.ZL_PORT_CTL n)) 1 := by
  rw [State.retrainWord, BitVec.toNat_ofNat]
  exact Nat.mod_eq_of_lt (putBits_lt (by decide) (by decide) (reg_lt s _))

theorem newFld_retrainWord (s : State) (n : Nat) {f : Fld} (h : Reg.ZL_PORT_CTL_RETRAIN.Apart f) :
    newFld f (s.retrainWord n) = s.fld (Reg.ZL_PORT_CTL n) f := by
  rw [newFld, toNat_retrainWord, Fld.get_put_of_apart (by decide) h, State.fld]

theorem newFld_retrainWord_retrain (s : State) (n : Nat) : newFld Reg.ZL_PORT_CTL_RETRAIN (s.retrainWord n) = 1 := by
  rw [newFld, toNat_retrainWord, Fld.get_put_of_lt (by decide) _ (by decide)]

theorem exec_retrain {via : Via} {n : Fin 50} {s : State} (hm : s.mayWrite via (Reg.ZL_PORT_CTL n.val).off = true) :
    exec (.retrain via n) s = done s (s.writePortCtl via n.val (s.retrainWord n.val)) := congrArg (done s) (if_pos hm)

theorem retrain_enters {via : Via} {n : Fin 50} {s : State} (hm : s.mayWrite via (Reg.ZL_PORT_CTL n.val).off = true)
    (hup : s.portState n.val = 3) :
    ∃ t, exec (.retrain via n) s = .next t ∧ t.portState n.val = 4 ∧ (t.port n.val).fast = true ∧
      t.fld (Reg.ZL_PORT_ERR n.val) Reg.ZL_PORT_ERR_RETRAINS =
        (s.fld (Reg.ZL_PORT_ERR n.val) Reg.ZL_PORT_ERR_RETRAINS + 1) % 2 ^ 16 := by
  have hen : newFld Reg.ZL_PORT_CTL_EN (s.retrainWord n.val) = 1 ↔ s.portEn n.val = true := by
    rw [newFld_retrainWord s n.val (by decide), State.portEn, flag_eq_true]
  have hwrite : s.writePortCtl via n.val (s.retrainWord n.val) =
      (s.putCtl via n.val (s.retrainWord n.val)).enterRetrain n.val := by
    rw [writePortCtl_of_fence_same s via n _ (newFld_retrainWord s n.val (by decide)), if_neg (by tauto), if_neg (by tauto),
      State.putCtlRetrain, if_pos ⟨newFld_retrainWord_retrain s n.val, (putCtl_portState ..).trans hup⟩]
  refine ⟨settle s ((s.putCtl via n.val (s.retrainWord n.val)).enterRetrain n.val), ?_, ?_, ?_, ?_⟩
  · rw [exec_retrain hm, hwrite, done_eq]
  · rw [settle_portState, enterRetrain_state]
  · obtain ⟨x, hx⟩ := enterRetrain_port (s.putCtl via n.val (s.retrainWord n.val)) n.val
    rw [settle_port, hx]
  · rw [settle_fld, enterRetrain_count, fld_congr _ (putCtl_reg_other s via _ (portCtl_ne_portErr _ _).symm)]

/-! ### FENCE (R435) -/

/-- Two names of one offset read the same word, or each its reset value. -/
theorem reg_of_off_eq (s : State) {q r : RegId} (h : q.off = r.off) :
    s.reg q = s.reg r ∨ (s.reg q = q.rst % 2 ^ 64 ∧ s.reg r = r.rst % 2 ^ 64) := by
  simp only [State.reg, SMap.get, h]
  cases SMap.find s.regs r.off with
  | none => exact .inr ⟨BitVec.toNat_ofNat .., BitVec.toNat_ofNat ..⟩
  | some w => exact .inl rfl

/-- A write of the control register keeps the bits outside its fields. -/
theorem putCtl_get_of_apart (s : State) (via : Via) (n : Fin 50) (v : Word) {g : Fld}
    (hg : ∀ f ∈ [Reg.ZL_PORT_CTL_EN, Reg.ZL_PORT_CTL_FENCE, Reg.ZL_PORT_CTL_RETRAIN], f.Apart g) :
    (s.putCtl via n.val v).fld (Reg.ZL_PORT_CTL n.val) g = s.fld (Reg.ZL_PORT_CTL n.val) g := by
  have hl := (layoutOk_fieldsAt ((Reg.ZL_PORT_CTL n.val).off % 2 ^ 40)).filter fun f => !([] : List Fld).contains f
  rw [State.putCtl, State.writePlain, State.fld, reg_setReg_lt s _ (writeFields_lt hl _ false _ (reg_lt s _)),
    get_writeFields_of_apart hl (fun f hf => hg f (fieldsAt_portCtl n ▸ (List.mem_filter.1 hf).1)), State.fld]

theorem putCtl_portUp (s : State) (via : Via) (n : Nat) (v : Word) (m : Nat) : (s.putCtl via n v).portUp m = s.portUp m := by
  rw [State.portUp, State.portUp, portState_congr (putCtl_reg_other s via v (portCtl_ne_portStat n m).symm)]

theorem putCtl_hallOpen (s : State) (via : Via) (n : Fin 50) (v : Word) : (s.putCtl via n.val v).hallOpen = s.hallOpen := by
  have hctl : (s.putCtl via n.val v).reg Reg.GLB_PART_CTL = s.reg Reg.GLB_PART_CTL :=
    putCtl_reg_other s via v (ne_portCtl_of_lt (by decide) n.val)
  have hpwr : (s.putCtl via n.val v).reg Reg.PWR_STAT = s.reg Reg.PWR_STAT :=
    putCtl_reg_other s via v (by simp only [Reg.PWR_STAT, Reg.ZL_PORT_CTL]; omega)
  rw [State.hallOpen, State.hallOpen, flag_congr _ hctl, flag_congr _ hpwr]
  rfl

/-- The state's maps take any offset: the route of a rack number from 448 on lies where a port's control register does. FENCE
written there opens no uplink and closes none: VALID is the bit of EN, and the bits of UPLINKS no field of the port's. -/
theorem putCtl_uplinks_of_off_eq (s : State) (via : Via) (n : Fin 50) (v : Word) {r : Nat}
    (he : newFld Reg.ZL_PORT_CTL_EN v = s.fld (Reg.ZL_PORT_CTL n.val) Reg.ZL_PORT_CTL_EN)
    (hf : newFld Reg.ZL_PORT_CTL_FENCE v = 1) (hoff : (Reg.ZL_HALL_ROUTE r).off = (Reg.ZL_PORT_CTL n.val).off) :
    (s.putCtl via n.val v).uplinks r = s.uplinks r := by
  have hvalid : ∀ w, Reg.ZL_HALL_ROUTE_VALID.get w = Reg.ZL_PORT_CTL_EN.get w := fun _ => rfl
  have hen : Reg.ZL_PORT_CTL_EN.get ((s.putCtl via n.val v).reg (Reg.ZL_PORT_CTL n.val)) =
      Reg.ZL_PORT_CTL_EN.get (s.reg (Reg.ZL_PORT_CTL n.val)) := (putCtl_en s via n v).trans he
  have hup : Reg.ZL_HALL_ROUTE_UPLINKS.get ((s.putCtl via n.val v).reg (Reg.ZL_PORT_CTL n.val)) =
      Reg.ZL_HALL_ROUTE_UPLINKS.get (s.reg (Reg.ZL_PORT_CTL n.val)) := putCtl_get_of_apart s via n v (by decide)
  have hnew : (s.putCtl via n.val v).reg (Reg.ZL_HALL_ROUTE r) = (s.putCtl via n.val v).reg (Reg.ZL_PORT_CTL n.val) := by
    refine (reg_of_off_eq _ hoff).resolve_right fun h => ?_
    have hfence := (putCtl_fence s via n v).trans hf
    rw [State.fld, h.2] at hfence
    exact absurd (show Reg.ZL_PORT_CTL_FENCE.get (1 % 2 ^ 64) = 1 from hfence) (by decide)
  rcases reg_of_off_eq s hoff with hold | ⟨hzero, hone⟩
  · simp only [State.uplinks, putCtl_hallOpen, State.flag, State.fld, hnew, hold, hvalid, hen, hup, putCtl_portUp]
  · have hdark : (s.putCtl via n.val v).fld (Reg.ZL_HALL_ROUTE r) Reg.ZL_HALL_ROUTE_UPLINKS = 0 := by
      rw [State.fld, hnew, hup, hone]
      exact show Reg.ZL_HALL_ROUTE_UPLINKS.get (1 % 2 ^ 64) = 0 by decide
    have hclosed : s.flag (Reg.ZL_HALL_ROUTE r) Reg.ZL_HALL_ROUTE_VALID = false := by
      rw [flag_eq_false, State.fld, hzero]
      exact show Reg.ZL_HALL_ROUTE_VALID.get (0 % 2 ^ 64) ≠ 1 by decide
    simp [State.uplinks, hdark, hclosed, bit]

theorem putCtl_uplinks (s : State) (via : Via) (n : Fin 50) (v : Word)
    (he : newFld Reg.ZL_PORT_CTL_EN v = s.fld (Reg.ZL_PORT_CTL n.val) Reg.ZL_PORT_CTL_EN)
    (hf : newFld Reg.ZL_PORT_CTL_FENCE v = 1) : (s.putCtl via n.val v).uplinks = s.uplinks := by
  funext r
  by_cases hoff : (Reg.ZL_HALL_ROUTE r).off = (Reg.ZL_PORT_CTL n.val).off
  · exact putCtl_uplinks_of_off_eq s via n v he hf hoff
  · have hroute := putCtl_reg_other s via (n := n.val) v hoff
    simp only [State.uplinks, putCtl_hallOpen, flag_congr _ hroute, fld_congr _ hroute, putCtl_portUp]

theorem exec_portFence {via : Via} {n : Fin 50} {v : Word} {s : State} (hm : s.mayWrite via (Reg.ZL_PORT_CTL n.val).off = true)
    (hv : newFld Reg.ZL_PORT_CTL_FENCE v ≠ s.fld (Reg.ZL_PORT_CTL n.val) Reg.ZL_PORT_CTL_FENCE) :
    exec (.portFence via n v) s = done s (s.writePortCtl via n.val v) := congrArg (done s) (if_pos ⟨hm, hv⟩)

/-- A port that was UP is FENCED. -/
def State.fenced (s : State) (n : Nat) : State := ((s.setPortState n 5).clearCredits n).requeue

theorem fenced_portState (s : State) (n : Nat) : (s.fenced n).portState n = 5 := by
  rw [State.fenced, portState_congr (requeue_reg _ _), portState_congr (clearCredits_reg ..),
    portState_setPortState s n (by decide)]

theorem fencePort_up {s : State} {n : Nat} (h : s.portState n = 3) : s.fencePort n = if 45 ≤ n ∧ n ≤ 48 then
    (s.fenced n).closeHall fun r => !(s.uplinks r).isEmpty && ((s.fenced n).uplinks r).isEmpty else s.fenced n := by
  rw [State.fencePort, if_neg (by simp [h])]
  rfl

theorem portFence_rises {via : Via} {n : Fin 50} {v : Word} {s : State} (hm : s.mayWrite via (Reg.ZL_PORT_CTL n.val).off = true)
    (he : newFld Reg.ZL_PORT_CTL_EN v = s.fld (Reg.ZL_PORT_CTL n.val) Reg.ZL_PORT_CTL_EN)
    (hr : newFld Reg.ZL_PORT_CTL_RETRAIN v = 0) (hf : newFld Reg.ZL_PORT_CTL_FENCE v = 1)
    (hold : s.fld (Reg.ZL_PORT_CTL n.val) Reg.ZL_PORT_CTL_FENCE = 0) (hup : s.portState n.val = 3) :
    ∃ u : State, u.portState n.val = 5 ∧ exec (.portFence via n v) s = .next (settle s (if 45 ≤ n.val ∧ n.val ≤ 48 then
      u.closeHall fun r => !(s.uplinks r).isEmpty && (u.uplinks r).isEmpty else u)) := by
  refine ⟨(s.putCtl via n.val v).fenced n.val, fenced_portState _ _, ?_⟩
  rw [exec_portFence hm (by rw [hf, hold]; decide), writePortCtl_of_en_same s via n v he hr, if_pos (by simp [hf, hold]),
    fencePort_up ((putCtl_portState ..).trans hup), putCtl_uplinks s via n v he hf, done_eq]

theorem sendCounts_credit (s : State) (n : Nat) : (s.sendCounts n).out.credit = s.out.credit ++ [(n, (s.port n).given)] := rfl

theorem sendCounts_reg (s : State) (n : Nat) (q : RegId) : (s.sendCounts n).reg q = s.reg q := rfl

theorem setPortState_out (s : State) (n st : Nat) : (s.setPortState n st).out = s.out := setFld_out ..

theorem putCtl_out (s : State) (via : Via) (n : Nat) (v : Word) : (s.putCtl via n v).out = s.out := setReg_out ..

theorem portFence_falls {via : Via} {n : Fin 50} {v : Word} {s : State} (hm : s.mayWrite via (Reg.ZL_PORT_CTL n.val).off = true)
    (he : newFld Reg.ZL_PORT_CTL_EN v = s.fld (Reg.ZL_PORT_CTL n.val) Reg.ZL_PORT_CTL_EN)
    (hr : newFld Reg.ZL_PORT_CTL_RETRAIN v = 0) (hf : newFld Reg.ZL_PORT_CTL_FENCE v = 0)
    (hold : s.fld (Reg.ZL_PORT_CTL n.val) Reg.ZL_PORT_CTL_FENCE = 1) (hst : s.portState n.val = 5) :
    ∃ t, exec (.portFence via n v) s = .next t ∧ t.portState n.val = 3 ∧
      t.out.credit = s.out.credit ++ [(n.val, (s.port n.val).given)] := by
  refine ⟨settle s (((s.putCtl via n.val v).setPortState n.val 3).sendCounts n.val).requeue, ?_, ?_, ?_⟩
  · rw [exec_portFence hm (by rw [hf, hold]; decide), writePortCtl_of_en_same s via n v he hr, if_neg (by simp [hf]),
      if_pos (by simp [hf, hold]), State.unfencePort, if_neg (by simp [putCtl_portState, hst]), done_eq]
  · rw [settle_portState, portState_congr (requeue_reg _ _), portState_congr (sendCounts_reg ..),
      portState_setPortState _ _ (by decide)]
  · rw [settle_out, (requeue_onlyTx _).out_eq, sendCounts_credit, setPortState_port, putCtl_port, setPortState_out, putCtl_out]

/-! ## Signal and the retry (R417, R422, R546) -/

/-- Signal at a port, as it is now seen. -/
def State.setSignal (s : State) (n : Nat) (b : Bool) : State := s.setPort n { s.port n with signal := b }

theorem setSignal_signal (s : State) (n : Nat) (b : Bool) : ((s.setSignal n b).port n).signal = b := by
  rw [State.setSignal, port_setPort_same]

theorem signalDetect_trains {n : Fin 50} {s : State} (hst : s.portState n.val = 0) (hc : s.portCause n.val = 2)
    (hen : s.portEn n.val = true) (hid : (s.port n.val).badId = false) :
    ∃ t, exec (.signalDetect n) s = .next t ∧ (t.port n.val).signal = true ∧ s.Trains t n.val true := by
  have hexec : exec (.signalDetect n) s = done s ((s.setSignal n.val true).startTraining n.val) :=
    congrArg (done s) (if_pos ⟨hst, hc, hen, by simp [hid]⟩)
  refine ⟨_, hexec, ?_, ?_⟩
  · rw [settle_port, startTraining_signal, setSignal_signal]
  · have h := (startTraining_trains (s.setSignal n.val true) n.val).congr (s := s) fun q _ => setPort_reg ..
    rw [setSignal_signal] at h
    exact h.settle s

theorem signalLoss_down {n : Fin 50} {s : State} (h0 : s.portState n.val ≠ 0) (h6 : s.portState n.val ≠ 6) :
    ∃ t, exec (.signalLoss n) s = .next t ∧ (t.port n.val).signal = false ∧ t.PortAt n.val 0 2 := by
  let u := (s.setSignal n.val false).portGoes n.val 0 2
  have hexec : exec (.signalLoss n) s = done s u.laserSettle := congrArg (done s) (if_neg (by simp [h0, h6]))
  refine ⟨_, hexec, ?_, ?_⟩
  · rw [settle_port, laserSettle_port, portGoes_signal, setSignal_signal]
  · exact ((portGoes_portAt _ _ (by decide) (by decide)).congr (laserSettle_reg u (portStat_ge _))).settle s

theorem marginRetry_trains {n : Fin 50} {s : State} (hst : s.portState n.val = 0) (hc : s.portCause n.val = 4)
    (hen : s.portEn n.val = true) (htime : (s.port n.val).since + 10 ^ 9 ≤ s.tick) :
    ∃ t, exec (.marginRetry n) s = .next t ∧ s.Trains t n.val (s.port n.val).signal := by
  have hexec : exec (.marginRetry n) s = done s (s.startTraining n.val) :=
    congrArg (done s) (if_pos ⟨hst, hc, hen, htime⟩)
  exact ⟨_, hexec, (startTraining_trains s n.val).settle s⟩

/-! ## The identity exchange (R414, R415) -/

theorem recordFar_onlyReg (s : State) (n : Nat) (far : FarIdent) : s.OnlyReg (s.recordFar n far) (Reg.ZL_PORT_STAT n) := by
  unfold State.recordFar
  exact (((setFld_onlyReg ..).trans (setFld_onlyReg ..)).trans (setFld_onlyReg ..)).trans (setFld_onlyReg ..)

theorem recordFar_tick (s : State) (n : Nat) (far : FarIdent) : (s.recordFar n far).tick = s.tick := by
  obtain ⟨w, hw⟩ := (recordFar_onlyReg s n far).1
  rw [hw]

/-- Whether a far identity is the expected one shows in the fabric's settings. -/
theorem farOk_congr {s t : State} (hregs : ∀ q : RegId, q.off < 0xb01000 → t.reg q = s.reg q) (n : Fin 50) (far : FarIdent) :
    t.farOk n.val far = s.farOk n.val far := by
  have hident := hregs Reg.ZL_IDENT (by decide)
  have hrack : t.rack = s.rack := fld_congr _ hident
  have hmodule : t.module = s.module := fld_congr _ hident
  have hexp := hregs (Reg.ZL_HALL_EXP (n.val - 45)) (by simp only [Reg.ZL_HALL_EXP]; omega)
  cases far with
  | peer | accel => rw [State.farOk, hrack, hmodule, State.farOk]
  | hall => simp only [State.farOk, flag_congr _ hexp, fld_congr _ hexp]
  | service => rfl

theorem recordFar_farOk (s : State) (n : Fin 50) (far : FarIdent) :
    (s.recordFar n.val far).farOk n.val far = s.farOk n.val far :=
  farOk_congr (fun q hq => (recordFar_onlyReg s n.val far).2 q (ne_portStat_of_lt hq n.val)) n far

/-- The expected identity: the port is in its check from now on. -/
def State.beginCheck (s : State) (n temp : Nat) : State :=
  let t := s.setFld (Reg.ZL_PORT_STAT n) Reg.ZL_PORT_STAT_TTRAIN temp
  (t.setPort n { t.port n with since := t.tick }).setPortState n 2

theorem exec_identityExchange {n : Fin 50} {s : State} (h : s.portState n.val = 1 ∨ s.portState n.val = 4) (far : FarIdent)
    (temp : BitVec 8) : exec (.identityExchange n far temp) s = done s
      (if s.farOk n.val far then (s.recordFar n.val far).beginCheck n.val temp.toNat
      else (((s.recordFar n.val far).portGoes n.val 0 3).setPort n.val
        { ((s.recordFar n.val far).portGoes n.val 0 3).port n.val with badId := true }).event .portWiring
          { object := obj 9 n.val, cause := farWord far }) := by
  rw [← recordFar_farOk]
  exact congrArg (done s) (if_neg (by omega))

theorem beginCheck_ttrain (s : State) (n : Nat) (temp : BitVec 8) :
    (s.beginCheck n temp.toNat).fld (Reg.ZL_PORT_STAT n) Reg.ZL_PORT_STAT_TTRAIN = temp.toNat := by
  rw [State.beginCheck, State.setPortState, fld_setFld_field _ _ _ (by decide) (by decide) (by decide), setPort_fld,
    fld_setFld_same _ _ _ (by decide) (by decide)]
  exact Nat.mod_eq_of_lt temp.isLt

theorem beginCheck_since (s : State) (n temp : Nat) : ((s.beginCheck n temp).port n).since = s.tick := by
  rw [State.beginCheck, setPortState_port, port_setPort_same, setFld_tick]

theorem identityExchange_answers {n : Fin 50} {s : State} (h : s.portState n.val = 1 ∨ s.portState n.val = 4) (far : FarIdent)
    (temp : BitVec 8) : ∃ t, exec (.identityExchange n far temp) s = .next t ∧
      (s.farOk n.val far = true → t.portState n.val = 2 ∧ (t.port n.val).since = s.tick ∧
        t.fld (Reg.ZL_PORT_STAT n.val) Reg.ZL_PORT_STAT_TTRAIN = temp.toNat) ∧
      (s.farOk n.val far = false → t.PortAt n.val 0 3 ∧ (t.port n.val).badId = true) := by
  refine ⟨_, exec_identityExchange h far temp, fun hok => ?_, fun hbad => ?_⟩
  · rw [if_pos hok]
    refine ⟨?_, ?_, ?_⟩
    · rw [settle_portState, State.beginCheck, portState_setPortState _ _ (by decide)]
    · rw [settle_port, beginCheck_since, recordFar_tick]
    · rw [settle_fld, beginCheck_ttrain]
  · rw [if_neg (by simp [hbad])]
    have hgoes := portGoes_portAt (s.recordFar n.val far) n.val (st := 0) (cause := 3) (by decide) (by decide)
    refine ⟨((hgoes.congr (setPort_reg ..)).congr ((event_onlyNotes ..).reg_eq _)).settle s, ?_⟩
    rw [settle_port, (event_onlyNotes ..).port_eq, port_setPort_same]

/-! ## The load-margin check (R417, R435) -/

theorem emit_regs (s : State) (n : Nat) (f : Flit) : (s.emit n f).regs = s.regs := rfl

/-- Bringing the link up touches no register. -/
theorem linkUp_reg (s : State) (n : Nat) (q : RegId) : (s.linkUp n).reg q = s.reg q := by
  have hregs : (s.linkUp n).regs = s.regs := by
    unfold State.linkUp
    dsimp only
    split
    · exact List.foldlRecOn (motive := fun t : State => t.regs = s.regs) _ _ rfl fun t ht f _ => (emit_regs t n _).trans ht
    · rfl
  simp only [State.reg, hregs]

theorem checkPassed_reg (s : State) (n : Nat) {q : RegId} (h : 0xb01000 ≤ q.off) : (s.checkPassed n).reg q =
    ((s.setPortState n (if s.flag (Reg.ZL_PORT_CTL n) Reg.ZL_PORT_CTL_FENCE then 5 else 3)).setPortCause n 0).reg q := by
  rw [State.checkPassed, requeue_reg, laserSettle_reg _ h, linkUp_reg]

theorem checkPassed_portAt (s : State) (n : Nat) :
    (s.checkPassed n).PortAt n (if s.flag (Reg.ZL_PORT_CTL n) Reg.ZL_PORT_CTL_FENCE then 5 else 3) 0 :=
  (portAt_setState_setCause s n (by split <;> decide) (by decide)).congr (checkPassed_reg s n (portStat_ge n))

/-- A field of a port's status beside STATE and CAUSE. -/
theorem fld_setState_setCause_of_apart (s : State) (n st cause : Nat) {g : Fld} (hst : Reg.ZL_PORT_STAT_STATE.Apart g)
    (hc : Reg.ZL_PORT_STAT_CAUSE.Apart g) : ((s.setPortState n st).setPortCause n cause).fld (Reg.ZL_PORT_STAT n) g =
      s.fld (Reg.ZL_PORT_STAT n) g := by
  rw [State.setPortCause, fld_setFld_field _ _ _ (by decide) (by decide) hc, State.setPortState,
    fld_setFld_field _ _ _ (by decide) (by decide) hst]

/-- A failed check: scored, and the port is DOWN. -/
def State.checkFailed (s : State) (n : Nat) : State :=
  (((s.score (obj 9 n) .marginFail).portGoes n 0 (if (s.port n).laser then 6 else 4))).laserSettle

theorem checkFailed_portAt (s : State) (n : Nat) : (s.checkFailed n).PortAt n 0 (if (s.port n).laser then 6 else 4) :=
  (portGoes_portAt _ n (by decide) (by split <;> decide)).congr (laserSettle_reg _ (portStat_ge n))

theorem portGoes_fld_of_apart (s : State) (n st cause : Nat) {g : Fld} (hst : Reg.ZL_PORT_STAT_STATE.Apart g)
    (hc : Reg.ZL_PORT_STAT_CAUSE.Apart g) : (s.portGoes n st cause).fld (Reg.ZL_PORT_STAT n) g = s.fld (Reg.ZL_PORT_STAT n) g :=
  (fld_congr g (portGoes_reg s n st cause _)).trans (fld_setState_setCause_of_apart s n st cause hst hc)

/-- What a check records. -/
def State.recordMargin (s : State) (n worst : Nat) : State := s.setFld (Reg.ZL_PORT_STAT n) Reg.ZL_PORT_STAT_MARGIN worst

theorem recordMargin_margin (s : State) (n : Nat) (worst : BitVec 8) :
    (s.recordMargin n worst.toNat).fld (Reg.ZL_PORT_STAT n) Reg.ZL_PORT_STAT_MARGIN = worst.toNat :=
  (fld_setFld_same _ _ _ (by decide) (by decide)).trans (Nat.mod_eq_of_lt worst.isLt)

theorem recordMargin_ceTh (s : State) (n worst : Nat) : (s.recordMargin n worst).ceTh = s.ceTh := by
  rw [State.ceTh, State.ceTh, State.recordMargin, fld_setFld_other _ _ _ _ (ne_portStat_of_lt (by decide) n)]

theorem recordMargin_port (s : State) (n worst m : Nat) : (s.recordMargin n worst).port m = s.port m := setFld_port ..

theorem exec_loadMarginCheck {n : Fin 50} {s : State} (hst : s.portState n.val = 2)
    (htime : (s.port n.val).since + s.lmTicks ≤ s.tick) (worst : BitVec 8) (uncorr farPass : Bool) :
    exec (.loadMarginCheck n worst uncorr farPass) s = done s
      (if uncorr = false ∧ worst.toNat ≤ s.ceTh ∧ farPass = true then (s.recordMargin n.val worst.toNat).checkPassed n.val
      else (s.recordMargin n.val worst.toNat).checkFailed n.val) := by
  have hcond : (!uncorr && decide (worst.toNat ≤ (s.recordMargin n.val worst.toNat).ceTh) && farPass) = true ↔
      uncorr = false ∧ worst.toNat ≤ s.ceTh ∧ farPass = true := by
    simp [recordMargin_ceTh, and_assoc]
  have hexec : exec (.loadMarginCheck n worst uncorr farPass) s = done s
      (if (!uncorr && decide (worst.toNat ≤ (s.recordMargin n.val worst.toNat).ceTh) && farPass) = true then
        (s.recordMargin n.val worst.toNat).checkPassed n.val
      else (s.recordMargin n.val worst.toNat).checkFailed n.val) := congrArg (done s) (if_neg (by omega))
  rw [hexec]
  simp only [hcond]

theorem loadMarginCheck_answers {n : Fin 50} {s : State} (hst : s.portState n.val = 2)
    (htime : (s.port n.val).since + s.lmTicks ≤ s.tick) (worst : BitVec 8) (uncorr farPass : Bool) :
    let pass := uncorr = false ∧ worst.toNat ≤ s.ceTh ∧ farPass = true
    ∃ t, exec (.loadMarginCheck n worst uncorr farPass) s = .next t ∧
      t.fld (Reg.ZL_PORT_STAT n.val) Reg.ZL_PORT_STAT_MARGIN = worst.toNat ∧
      (pass → t.PortAt n.val (if s.flag (Reg.ZL_PORT_CTL n.val) Reg.ZL_PORT_CTL_FENCE then 5 else 3) 0) ∧
      (¬ pass → t.PortAt n.val 0 (if (s.port n.val).laser then 6 else 4)) := by
  intro pass
  have hmargin := recordMargin_margin s n.val worst
  refine ⟨_, exec_loadMarginCheck hst htime worst uncorr farPass, ?_, fun hpass => ?_, fun hfail => ?_⟩
  · refine Eq.trans ?_ hmargin
    rw [settle_fld]
    split
    · rw [fld_congr _ (checkPassed_reg _ n.val (portStat_ge n.val)),
        fld_setState_setCause_of_apart _ _ _ _ (by decide) (by decide)]
    · rw [State.checkFailed, fld_congr _ (laserSettle_reg _ (portStat_ge n.val)),
        portGoes_fld_of_apart _ _ _ _ (by decide) (by decide), fld_congr _ ((score_onlyNotes ..).reg_eq _)]
  · rw [if_pos hpass, ← flag_congr _ (show (s.recordMargin n.val worst.toNat).reg (Reg.ZL_PORT_CTL n.val) = _ from
      reg_setFld_other s _ _ (portCtl_ne_portStat _ _))]
    exact (checkPassed_portAt _ n.val).settle s
  · rw [if_neg hfail, ← recordMargin_port s n.val worst.toNat n.val]
    exact (checkFailed_portAt (s.recordMargin n.val worst.toNat) n.val).settle s

/-! ## Retraining by the link itself (R418, R419) -/

/-- What a retrain's cause adds to the port's counts and score. -/
def State.tally (s : State) (n : Nat) : RetrainCause → State
  | .watch => s.bump (Reg.ZL_PORT_ERR n) Reg.ZL_PORT_ERR_HIGH_CW (max 1 (s.fld Reg.ZL_LM_CFG Reg.ZL_LM_CFG_WATCH_MAX))
  | .uncorrectable => (s.bump (Reg.ZL_PORT_ERR n) Reg.ZL_PORT_ERR_UNCORR 1).score (obj 9 n) .uncorrectable
  | .temperature => s

theorem tally_reg_other (s : State) {n : Nat} (why : RetrainCause) {q : RegId} (h : q.off ≠ (Reg.ZL_PORT_ERR n).off) :
    (s.tally n why).reg q = s.reg q := by
  cases why with
  | watch => exact reg_setFld_other s _ _ h
  | uncorrectable => exact ((score_onlyNotes ..).reg_eq q).trans (reg_setFld_other s _ _ h)
  | temperature => rfl

theorem tally_port (s : State) (n : Nat) (why : RetrainCause) (m : Nat) : (s.tally n why).port m = s.port m := by
  cases why with
  | watch => exact bump_port ..
  | uncorrectable => exact ((score_onlyNotes ..).port_eq m).trans (bump_port ..)
  | temperature => rfl

theorem tally_tick (s : State) (n : Nat) (why : RetrainCause) : (s.tally n why).tick = s.tick := by
  cases why with
  | watch => exact bump_tick ..
  | uncorrectable => exact (score_onlyNotes ..).tick_eq.trans (bump_tick ..)
  | temperature => rfl

theorem exec_retrainTrigger {n : Fin 50} {s : State} (hup : s.portState n.val = 3) (why : RetrainCause) :
    exec (.retrainTrigger n why) s = done s ((s.tally n.val why).retrainCounted n.val) := by
  cases why with
  | watch | uncorrectable | temperature => exact congrArg (done s) (if_neg (by simp [hup]))

/-- The entries to RETRAIN that count in the window, with the one now (R419). -/
def State.retrainsIn (s : State) (n : Nat) : List Nat :=
  ((s.port n).retrains.filter fun t => s.tick < t + s.fld Reg.ZL_LM_CFG Reg.ZL_LM_CFG_RETRAIN_WIN * 10 ^ 9) ++ [s.tick]

/-- The retrain begun, with its entry noted. -/
def State.retrainNoted (s : State) (n : Nat) : State :=
  (s.setPort n { s.port n with retrains := s.retrainsIn n }).enterRetrain n

theorem retrainNoted_reg_of_lt (s : State) (n : Nat) {q : RegId} (h : q.off < 0xb01000) : (s.retrainNoted n).reg q = s.reg q :=
  (enterRetrain_reg_other _ (ne_portStat_of_lt h n) (ne_portErr_of_lt h n)).trans (setPort_reg ..)

theorem retrainCounted_eq (s : State) (n : Nat) : s.retrainCounted n =
    if s.fld Reg.ZL_LM_CFG Reg.ZL_LM_CFG_RETRAIN_MAX < (s.retrainsIn n).length then
      ((s.retrainNoted n).portGoes n 6 5).event .portFailed { object := obj 9 n, cause := 5 }
    else s.retrainNoted n := by
  rw [← fld_congr _ (retrainNoted_reg_of_lt s n (q := Reg.ZL_LM_CFG) (by decide))]
  rfl

theorem retrainTrigger_answers {n : Fin 50} {s : State} (hup : s.portState n.val = 3) (why : RetrainCause) :
    let win := s.fld Reg.ZL_LM_CFG Reg.ZL_LM_CFG_RETRAIN_WIN * 10 ^ 9
    let count := ((s.port n.val).retrains.filter fun t => s.tick < t + win).length + 1
    ∃ t, exec (.retrainTrigger n why) s = .next t ∧
      (count ≤ s.fld Reg.ZL_LM_CFG Reg.ZL_LM_CFG_RETRAIN_MAX → t.portState n.val = 4) ∧
      (s.fld Reg.ZL_LM_CFG Reg.ZL_LM_CFG_RETRAIN_MAX < count → t.PortAt n.val 6 5) := by
  intro win count
  let u := s.tally n.val why
  have hcfg : u.reg Reg.ZL_LM_CFG = s.reg Reg.ZL_LM_CFG := tally_reg_other s why (ne_portErr_of_lt (by decide) n.val)
  have hcount : (u.retrainsIn n.val).length = count := by
    rw [State.retrainsIn, fld_congr _ hcfg, tally_port, tally_tick, List.length_append, List.length_singleton]
  refine ⟨_, (exec_retrainTrigger hup why).trans (congrArg (done s) (retrainCounted_eq u n.val)), fun hle => ?_, fun hlt => ?_⟩
  · rw [if_neg (by rw [hcount, fld_congr _ hcfg]; exact Nat.not_lt.2 hle), settle_portState]
    exact enterRetrain_state _ n.val
  · rw [if_pos (by rw [hcount, fld_congr _ hcfg]; exact hlt)]
    exact ((portGoes_portAt (u.retrainNoted n.val) n.val (by decide) (by decide)).congr ((event_onlyNotes ..).reg_eq _)).settle s

/-! ## The identity set (R14) -/

theorem foldl_startTraining_reg_of_notMem (l : List Nat) (s : State) {q : RegId} (h : ∀ n ∈ l, q.off ≠ (Reg.ZL_PORT_STAT n).off) :
    (l.foldl State.startTraining s).reg q = s.reg q := by
  induction l generalizing s with
  | nil => rfl
  | cons m l ih =>
    obtain ⟨hm, hl⟩ := List.forall_mem_cons.1 h
    rw [List.foldl_cons, ih _ hl, startTraining_reg_other s hm]

/-- Ports trained one after another: each that has its identity, light and signal is in training afterwards. -/
theorem foldl_startTraining_portAt {l : List Nat} (hnd : l.Nodup) {s : State} {n : Nat} (hn : n ∈ l) (hk : s.Known n)
    (hl : s.lit n = true) (hs : (s.port n).signal = true) : (l.foldl State.startTraining s).PortAt n 1 0 := by
  induction l generalizing s with
  | nil => cases hn
  | cons m l ih =>
    obtain ⟨hm, hnd⟩ := List.nodup_cons.1 hnd
    rw [List.foldl_cons]
    by_cases hmn : n = m
    · subst hmn
      have htrain : (s.startTraining n).PortAt n 1 0 := (startTraining_trains s n).2.2.2 hk hl hs
      exact htrain.congr (foldl_startTraining_reg_of_notMem l _ fun k hkl => portStat_ne_portStat fun h => hm (h ▸ hkl))
    · have hregs : ∀ q : RegId, q.off < 0xb01000 → (s.startTraining m).reg q = s.reg q :=
        fun q hq => startTraining_reg_other s (ne_portStat_of_lt hq m)
      refine ih hnd ((List.mem_cons.1 hn).resolve_left hmn) ?_ ?_ ?_
      · exact hk.imp_right fun h => (flag_congr _ (hregs _ (by decide))).trans h
      · rw [lit_congr (fun c hc => hregs _ (lsr_lt hc)), hl]
      · rw [startTraining_signal, hs]

/-- The identity as it is written. -/
def State.putIdent (s : State) (v : Word) : State := s.writePlain true Reg.ZL_IDENT [] v.toNat

/-- The ports that wait for the identity (R14). -/
def State.awaitIdent (s : State) : List Nat :=
  (List.range 49).filter fun n => s.portState n = 0 && s.portCause n = 7 && s.portEn n

theorem fieldsAt_ident : fieldsAt (Reg.ZL_IDENT.off % 2 ^ 40) = [Reg.ZL_IDENT_RACK, Reg.ZL_IDENT_MODULE, Reg.ZL_IDENT_SET] := by
  decide +kernel

theorem putIdent_fld (s : State) (v : Word) {f : Fld} (hf : f ∈ [Reg.ZL_IDENT_RACK, Reg.ZL_IDENT_MODULE, Reg.ZL_IDENT_SET]) :
    (s.putIdent v).fld Reg.ZL_IDENT f = newFld f v := by
  have hacc : ∀ f ∈ [Reg.ZL_IDENT_RACK, Reg.ZL_IDENT_MODULE, Reg.ZL_IDENT_SET], f.acc = .srw := by decide
  rw [State.putIdent, fld_writePlain_of_mem s true (by rw [fieldsAt_ident]; exact hf), Fld.written, hacc f hf, newFld]
  rfl

theorem putIdent_port (s : State) (v : Word) (n : Nat) : (s.putIdent v).port n = s.port n := setReg_port ..

theorem putIdent_reg_other (s : State) (v : Word) {q : RegId} (h : q.off ≠ Reg.ZL_IDENT.off) : (s.putIdent v).reg q = s.reg q :=
  reg_writePlain_other s _ _ _ h

theorem exec_identSet {via : Via} {v : Word} {s : State} (hm : s.mayWrite via Reg.ZL_IDENT.off = true)
    (hsec : s.secureVia via = true) (hold : s.flag Reg.ZL_IDENT Reg.ZL_IDENT_SET = false) (hv : newFld Reg.ZL_IDENT_SET v = 1) :
    exec (.identSet via v) s = done s ((s.putIdent v).awaitIdent.foldl State.startTraining (s.putIdent v)) := by
  have hset : (s.putIdent v).flag Reg.ZL_IDENT Reg.ZL_IDENT_SET = true := flag_eq_true.2 ((putIdent_fld s v (by simp)).trans hv)
  have hwrite : s.writeIdent via v = if (s.putIdent v).flag Reg.ZL_IDENT Reg.ZL_IDENT_SET then
      (s.putIdent v).awaitIdent.foldl State.startTraining (s.putIdent v) else s.putIdent v := if_neg (by simp [hold, hsec])
  rw [if_pos hset] at hwrite
  exact congrArg (done s) ((if_pos ⟨hm, hv⟩).trans hwrite)

theorem identSet_answers {via : Via} {v : Word} {s : State} (hm : s.mayWrite via Reg.ZL_IDENT.off = true)
    (hsec : s.secureVia via = true) (hold : s.flag Reg.ZL_IDENT Reg.ZL_IDENT_SET = false) (hv : newFld Reg.ZL_IDENT_SET v = 1) :
    ∃ t, exec (.identSet via v) s = .next t ∧ t.module = newFld Reg.ZL_IDENT_MODULE v ∧ t.rack = newFld Reg.ZL_IDENT_RACK v ∧
      t.flag Reg.ZL_IDENT Reg.ZL_IDENT_SET = true ∧
      ∀ n, n < 49 → s.portState n = 0 → s.portCause n = 7 → s.portEn n = true → s.lit n = true →
        (s.port n).signal = true → t.PortAt n 1 0 := by
  let u := (s.putIdent v).awaitIdent.foldl State.startTraining (s.putIdent v)
  have hident : u.reg Reg.ZL_IDENT = (s.putIdent v).reg Reg.ZL_IDENT :=
    foldl_startTraining_reg_of_notMem _ _ fun n _ => ne_portStat_of_lt (by decide) n
  have hfld : ∀ f ∈ [Reg.ZL_IDENT_RACK, Reg.ZL_IDENT_MODULE, Reg.ZL_IDENT_SET], u.fld Reg.ZL_IDENT f = newFld f v :=
    fun f hf => (fld_congr f hident).trans (putIdent_fld s v hf)
  have hsettle : ∀ f ∈ [Reg.ZL_IDENT_RACK, Reg.ZL_IDENT_MODULE, Reg.ZL_IDENT_SET],
      (settle s u).fld Reg.ZL_IDENT f = newFld f v := fun f hf => (settle_fld s u _ f).trans (hfld f hf)
  refine ⟨settle s u, (exec_identSet hm hsec hold hv).trans (done_eq s u), hsettle _ (by simp), hsettle _ (by simp),
    flag_eq_true.2 ((hsettle _ (by simp)).trans hv), fun n hn hst hc hen hl hs => ?_⟩
  have hport : ∀ q : RegId, 0xb01000 ≤ q.off → (s.putIdent v).reg q = s.reg q := fun q hq =>
    putIdent_reg_other s v (by simp only [Reg.ZL_IDENT]; omega)
  refine State.PortAt.settle (foldl_startTraining_portAt (List.nodup_range.filter _) (List.mem_filter.2 ⟨List.mem_range.2 hn, ?_⟩)
    (.inr (flag_eq_true.2 ((putIdent_fld s v (by simp)).trans hv))) ?_ (by rw [putIdent_port, hs])) s
  · simp only [portState_congr (hport _ (portStat_ge n)), hst, State.portCause, fld_congr _ (hport _ (portStat_ge n)),
      State.portEn, flag_congr _ (hport _ (portCtl_ge n)), decide_true, Bool.true_and, Bool.and_eq_true, decide_eq_true_eq]
    exact ⟨hc, hen⟩
  · rw [lit_congr (fun c _ => putIdent_reg_other s v (by simp only [Reg.ZL_LSR, Reg.ZL_IDENT]; omega)), hl]

/-! ## The obligation -/

/-- Settles O55: each command sets the port's STATE and CAUSE by one of four ways (training, DOWN, the check, a retrain), and
what it does beside leaves them alone. -/
theorem portStates : Obligations.PortStates := by
  refine ⟨fun via n v s hm => ⟨fun hen hv hf => portEnable_trains hm hen hv hf, fun hen hv hf => portDisable_down hm hen hv hf,
    fun hup => retrain_enters hm hup, fun he hr => ⟨fun hf hold hup => portFence_rises hm he hr hf hold hup,
      fun hf hold hst => portFence_falls hm he hr hf hold hst⟩⟩,
    fun n s => ⟨signalDetect_trains, signalLoss_down, marginRetry_trains⟩,
    fun n far temp s h => identityExchange_answers h far temp,
    fun n worst uncorr farPass s hst htime => loadMarginCheck_answers hst htime worst uncorr farPass,
    fun n why s hup => retrainTrigger_answers hup why,
    fun via v s hm hsec hold hv => identSet_answers hm hsec hold hv⟩

end Sys2Proof.Machine
end

section
/-! O60, its long parts: the containment of the module (R504, R505) and the reset of a head (R467). -/

namespace Sys2Proof.Machine

/-! ## Which registers are apart -/

theorem qState_ne_qState {q k : Nat} (h : q ≠ k) : (Reg.Q_STATE q).off ≠ (Reg.Q_STATE k).off := by
  simp only [Reg.Q_STATE]; omega

theorem qState_ne_headCnt (q h : Nat) : (Reg.Q_STATE q).off ≠ (Reg.HEAD_CNT h).off := by
  simp only [Reg.Q_STATE, Reg.HEAD_CNT]; omega

theorem ne_qState_of_lt {r : RegId} (h : r.off < 0x200000) (q : Nat) : r.off ≠ (Reg.Q_STATE q).off := by
  simp only [Reg.Q_STATE]; omega

/-! ## Answers to messages and hosts leave the queues alone -/

theorem sendTo_onlyTx (s : State) (rack dst : Nat) (m : Msg) : s.OnlyTx (s.sendTo rack dst m).1 := by
  unfold State.sendTo
  split
  · exact sendPeer_onlyTx ..
  · have hpick := pickUplink_onlyTx s rack
    split
    · next heq =>
      rw [heq] at hpick
      exact hpick.trans (enqueue_onlyTx ..)
    · next heq =>
      rw [heq] at hpick
      exact hpick

theorem sendAcc_onlyTx (s : State) (p : Nat) (m : Msg) : s.OnlyTx (s.sendAcc p m) := by
  unfold State.sendAcc
  split
  · exact enqueue_onlyTx ..
  · dsimp only
    split
    · exact enqueue_onlyTx ..
    · exact enqueue_onlyTx ..

theorem respond_onlyTx (s : State) (m : Msg) (body : Body) (demoted : Bool) : s.OnlyTx (s.respond m body demoted) := by
  unfold State.respond
  dsimp only
  split
  · exact sendTo_onlyTx ..
  · split
    · exact sendAcc_onlyTx ..
    · exact sendPeer_onlyTx ..

theorem respondVia_onlyTx (s : State) (p : Nat) (m : Msg) (body : Body) (demoted : Bool) :
    s.OnlyTx (s.respondVia p m body demoted) := by
  unfold State.respondVia
  dsimp only
  split
  · exact enqueue_onlyTx ..
  · exact respond_onlyTx ..

theorem refuseHost_reg (s : State) (h hd line : Nat) (op : HostOp) {r : RegId} (hr : r.off ≠ (Reg.HEAD_CNT hd).off) :
    (s.refuseHost h hd line op).reg r = s.reg r := by
  have hregs : (s.refuseHost h hd line op).regs = (s.bump (Reg.HEAD_CNT hd) Reg.HEAD_CNT_REFUSED 1).regs := by
    cases op <;> rfl
  rw [State.reg, hregs]
  exact reg_setFld_other s _ _ hr

/-! ## Containment of the module (R504, R505) -/

/-- A queue is STOPPED with cause 5. -/
def State.QueueHalted (s : State) (q : Nat) : Prop :=
  s.qState q = 3 ∧ s.fld (Reg.Q_STATE q) Reg.Q_STATE_STOP_CAUSE = 5

theorem State.QueueHalted.congr {s t : State} {q : Nat} (hs : s.QueueHalted q)
    (h : t.reg (Reg.Q_STATE q) = s.reg (Reg.Q_STATE q)) : t.QueueHalted q :=
  ⟨(fld_congr _ h).trans hs.1, (fld_congr _ h).trans hs.2⟩

/-- One queue is stopped without a record. -/
def State.haltQueue (s : State) (q : Nat) : State :=
  let t := s.setQueue q { (s.queue q) with noRecords := true, due := [], fetched := [], fetching := false }
  (t.setFld (Reg.Q_STATE q) Reg.Q_STATE_STATE 3).setFld (Reg.Q_STATE q) Reg.Q_STATE_STOP_CAUSE 5

theorem haltQueue_halted (s : State) (q : Nat) : (s.haltQueue q).QueueHalted q := by
  constructor
  · rw [State.qState, State.haltQueue, fld_setFld_field _ _ _ (by decide) (by decide) (by decide),
      fld_setFld_same _ _ _ (by decide) (by decide)]
    decide
  · rw [State.haltQueue, fld_setFld_same _ _ _ (by decide) (by decide)]
    decide

theorem State.QueueHalted.haltQueue {s : State} {q : Nat} (h : s.QueueHalted q) (k : Nat) : (s.haltQueue k).QueueHalted q := by
  by_cases hk : q = k
  · exact hk ▸ haltQueue_halted s q
  · refine h.congr ?_
    rw [State.haltQueue, reg_setFld_other _ _ _ (qState_ne_qState hk), reg_setFld_other _ _ _ (qState_ne_qState hk),
      setQueue_reg]

/-- Queues stopped one after another. -/
theorem foldl_haltQueue_halted {l : List Nat} {q : Nat} (hq : q ∈ l) (s : State) :
    (l.foldl State.haltQueue s).QueueHalted q := by
  induction l generalizing s with
  | nil => cases hq
  | cons k l ih =>
    by_cases hql : q ∈ l
    · exact ih hql _
    · obtain rfl := (List.mem_cons.1 hq).resolve_right hql
      exact List.foldlRecOn (motive := fun t : State => t.QueueHalted q) l _ (haltQueue_halted s q) fun t ht j _ => ht.haltQueue j

/-- What a task asks of the fabric is refused. -/
def State.refuseTask (s : State) (t : Nat × Task) : State :=
  match t.2.kind with
  | .msg p m =>
    if p = selfPort then s
    else s.respondVia p m (.refuse (match m.body with | .subreq _ => .aborted | _ => .fenced)) false
  | _ => s

/-- What a host waits for is refused. -/
def State.refuseWaiting (s : State) (r : LineReq) : State :=
  match r.who with
  | .host h hd op => s.refuseHost h hd r.line op
  | _ => s

theorem refuseTask_reg (s : State) (t : Nat × Task) (r : RegId) : (s.refuseTask t).reg r = s.reg r := by
  unfold State.refuseTask
  split
  · split
    · rfl
    · exact (respondVia_onlyTx ..).reg_eq r
  · rfl

theorem refuseWaiting_reg (s : State) (x : LineReq) (q : Nat) :
    (s.refuseWaiting x).reg (Reg.Q_STATE q) = s.reg (Reg.Q_STATE q) := by
  unfold State.refuseWaiting
  split
  · exact refuseHost_reg s _ _ _ _ (qState_ne_headCnt q _)
  · rfl

/-- The queues stopped, and what waits at ports and heads answered. -/
def State.haltWork (s : State) : State :=
  let t := s.enabledQueues.foldl State.haltQueue s
  let u := t.tasks.foldl State.refuseTask t
  u.waitq.foldl State.refuseWaiting u

theorem haltWork_reg (s : State) (q : Nat) :
    s.haltWork.reg (Reg.Q_STATE q) = (s.enabledQueues.foldl State.haltQueue s).reg (Reg.Q_STATE q) := by
  unfold State.haltWork
  dsimp only
  refine List.foldlRecOn (motive := fun t : State => t.reg (Reg.Q_STATE q) = _) _ _ ?_
    fun t ht x _ => (refuseWaiting_reg t x q).trans ht
  exact List.foldlRecOn (motive := fun t : State => t.reg (Reg.Q_STATE q) = _) _ _ rfl
    fun t ht x _ => (refuseTask_reg t x _).trans ht

theorem haltModule_regs (s : State) : s.haltModule.regs = s.haltWork.regs := rfl

theorem haltModule_tasks (s : State) : s.haltModule.tasks = [] := rfl

theorem haltModule_contained (s : State) : s.haltModule.ras.moduleContained = true := rfl

theorem mem_of_find {α : Type} {m : SMap α} {k : Nat} {v : α} (h : SMap.find m k = some v) : (k, v) ∈ m := by
  induction m with
  | nil => cases h
  | cons e t ih =>
    obtain ⟨j, w⟩ := e
    simp only [SMap.find] at h
    split at h
    · next hj =>
      rw [← hj, Option.some.inj h]
      exact List.mem_cons_self
    · exact List.mem_cons_of_mem _ (ih h)

/-- A queue whose state differs from reset is listed. -/
theorem mem_enabledQueues {s : State} {q : Nat} (hq : q < 4096) (h : s.qState q ≠ 0) : q ∈ s.enabledQueues := by
  cases hfind : SMap.find s.regs (Reg.Q_STATE q).off with
  | none =>
    refine absurd ?_ h
    rw [State.qState, State.fld, State.reg, SMap.get, hfind]
    exact show Reg.Q_STATE_STATE.get 0 = 0 by decide
  | some w =>
    have hoff : (Reg.Q_STATE 0).off ≤ (Reg.Q_STATE q).off ∧ ((Reg.Q_STATE q).off - (Reg.Q_STATE 0).off) % 64 = 0 ∧
        ((Reg.Q_STATE q).off - (Reg.Q_STATE 0).off) / 64 = q := by
      simp only [Reg.Q_STATE]; omega
    obtain ⟨hle, hmod, hdiv⟩ := hoff
    refine List.mem_filter.2 ⟨List.mem_filterMap.2 ⟨_, mem_of_find hfind, ?_⟩, by simpa using h⟩
    simp [hle, hmod, hdiv, hq]

theorem haltModule_halted {s : State} {q : Nat} (hq : q < 4096) (h : s.qState q ≠ 0) : s.haltModule.QueueHalted q := by
  refine (foldl_haltQueue_halted (mem_enabledQueues hq h) s).congr ?_
  rw [State.reg, haltModule_regs]
  exact haltWork_reg s q

/-- Containment at module scope halts the module, up to what its rings of records then write. -/
theorem containModule_halted {s : State} (h : s.ras.moduleContained = false) (extra nest : Nat) :
    ∃ u : State, s.containModule extra nest = u.pumpRings ∧ s.Halted u := by
  have heq : s.containModule extra nest = (s.haltModule.eventAdvise .containFatal
      { object := obj 0x20 0, cause := Status.aborted.code, scope := 7, nest := nest, extra := extra }
      Status.aborted.code).pumpRings := by
    rw [State.containModule, if_neg (by simp [h])]
  have hnotes := eventAdvise_onlyNotes s.haltModule .containFatal
    { object := obj 0x20 0, cause := Status.aborted.code, scope := 7, nest := nest, extra := extra } Status.aborted.code
  have hcontained := hnotes.moduleContained_eq.trans (haltModule_contained s)
  refine ⟨_, heq, hcontained, ?_, hnotes.tasks_eq.trans (haltModule_tasks s), fun q hq hen => ?_⟩
  · simp [State.live, hcontained]
  · exact (haltModule_halted hq hen).congr (hnotes.reg_eq _)

/-! ## Reset of a head (R467) -/

/-- Heads and the registers below the queues' are as they were. -/
def State.KeepsHeads (s t : State) : Prop := t.heads = s.heads ∧ ∀ r : RegId, r.off < 0x200000 → t.reg r = s.reg r

theorem State.KeepsHeads.refl (s : State) : s.KeepsHeads s := ⟨rfl, fun _ _ => rfl⟩

theorem State.KeepsHeads.trans {s t u : State} (h : s.KeepsHeads t) (h' : t.KeepsHeads u) : s.KeepsHeads u :=
  ⟨h'.1.trans h.1, fun r hr => (h'.2 r hr).trans (h.2 r hr)⟩

theorem setFld_qState_keepsHeads (s : State) (q : Nat) (f : Fld) (v : Nat) : s.KeepsHeads (s.setFld (Reg.Q_STATE q) f v) :=
  ⟨setFld_heads .., fun _ hr => reg_setFld_other s f v (ne_qState_of_lt hr q)⟩

theorem setQueue_keepsHeads (s : State) (q : Nat) (x : QueueState) : s.KeepsHeads (s.setQueue q x) := ⟨rfl, fun _ _ => rfl⟩

theorem stopQueue_keepsHeads (s : State) (q cause status : Nat) : s.KeepsHeads (s.stopQueue q cause status) := by
  unfold State.stopQueue
  dsimp only
  split
  · exact .refl s
  · exact ((setFld_qState_keepsHeads ..).trans (setFld_qState_keepsHeads ..)).trans (setFld_qState_keepsHeads ..)

theorem cqFailed_keepsHeads (s : State) (q : Nat) : s.KeepsHeads (s.cqFailed q) :=
  (setQueue_keepsHeads s q _).trans (stopQueue_keepsHeads ..)

theorem stopRings_keepsHeads (s : State) (h : Nat) : s.KeepsHeads (s.stopRings h) := by
  unfold State.stopRings
  refine List.foldlRecOn (motive := s.KeepsHeads) _ _ (.refl s) fun t ht q _ => ht.trans ?_
  have hsq : ∀ (c : Prop) [Decidable c], t.KeepsHeads (if c then t.stopQueue q 2 0 else t) := fun c _ => by
    split
    · exact stopQueue_keepsHeads ..
    · exact .refl t
  dsimp only
  split
  · exact (hsq _).trans (cqFailed_keepsHeads ..)
  · exact hsq _

theorem deliver_keepsHeads (s : State) (id : Nat) (a : Ans) : s.KeepsHeads (s.deliver id a) := by
  obtain ⟨m, hm⟩ := deliver_onlyTasks s id a
  rw [hm]
  exact ⟨rfl, fun _ _ => rfl⟩

theorem slotArrived_keepsHeads (s : State) (q : Nat) (a : Ans) : s.KeepsHeads (s.slotArrived q a) := by
  have hset : ∀ x : QueueState, s.KeepsHeads { s with queues := SMap.set s.queues q x {} } := setQueue_keepsHeads s q
  unfold State.slotArrived
  dsimp only
  split
  · exact hset _
  · split
    · exact ((hset _).trans (setFld_qState_keepsHeads ..)).trans (setFld_qState_keepsHeads ..)
    · exact (hset _).trans (setFld_qState_keepsHeads ..)

theorem dmaAnswer_keepsHeads (s : State) (id : Nat) (a : Ans) : s.KeepsHeads (s.dmaAnswer id a) := by
  have hdel : s.KeepsHeads { s with dmas := SMap.del s.dmas id } := ⟨rfl, fun _ _ => rfl⟩
  unfold State.dmaAnswer
  split
  · exact .refl s
  · dsimp only
    split
    · exact hdel.trans (deliver_keepsHeads ..)
    · exact hdel.trans (slotArrived_keepsHeads ..)
    · exact hdel

/-- What of a head is reset: its own part, and the word that shows it. -/
theorem resetHead_shape (s : State) (h : Fin 4) : ∃ x : Head, (s.resetHead h).heads = SMap.set s.heads h.val x {} ∧
    (s.resetHead h).regs = SMap.set s.regs (Reg.HEAD_STAT h.val).off (BitVec.ofNat 64 (Reg.HEAD_STAT_IN_RESET.put 0 1))
      (BitVec.ofNat 64 (Reg.HEAD_STAT h.val).rst) ∧ x.bme = false :=
  ⟨_, rfl, rfl, rfl⟩

theorem resetHead_reg (s : State) (h : Fin 4) (r : RegId) :
    (s.resetHead h).reg r = (s.setReg (Reg.HEAD_STAT h.val) (Reg.HEAD_STAT_IN_RESET.put 0 1)).reg r := by
  obtain ⟨x, -, hregs, -⟩ := resetHead_shape s h
  rw [State.reg, hregs, State.reg, State.setReg]

theorem resetHead_stat (s : State) (h : Fin 4) : (s.resetHead h).reg (Reg.HEAD_STAT h.val) = 2 ^ 12 := by
  rw [resetHead_reg, reg_setReg_lt _ _ (by decide)]
  decide

theorem resetHead_bme (s : State) (h : Fin 4) : ((s.resetHead h).head h.val).bme = false := by
  obtain ⟨x, hheads, -, hx⟩ := resetHead_shape s h
  rw [State.head, hheads, SMap.get_set_same, hx]

theorem resetHead_reg_other (s : State) (h : Fin 4) {r : RegId} (hr : r.off ≠ (Reg.HEAD_STAT h.val).off) :
    (s.resetHead h).reg r = s.reg r := by
  rw [resetHead_reg, reg_setReg_other _ _ hr]

/-- The head is in reset and its tasks' notes of it name none. -/
def State.headCut (s : State) (h : Fin 4) : State :=
  { s.resetHead h with tasks := (s.resetHead h).tasks.mapv fun (_ : Nat) (t : Task) =>
      { t with heads := t.heads.map fun (x : Nat × Nat) => if x.1 = h.val then (9, x.2) else x } }

theorem reg_withTasks (s : State) (m : SMap Task) (r : RegId) : ({ s with tasks := m } : State).reg r = s.reg r := rfl

theorem headCut_reg (s : State) (h : Fin 4) (r : RegId) : (s.headCut h).reg r = (s.resetHead h).reg r := by
  rw [State.headCut, reg_withTasks]

theorem headCut_heads (s : State) (h : Fin 4) : (s.headCut h).heads = (s.resetHead h).heads := by
  rw [State.headCut]

/-- What was sent through the head is lost: hosts behind it are down, rings there stop, reads end. -/
def State.headLost (s : State) (h : Fin 4) : State :=
  let t := ((s.headCut h).hostsBehind h.val).foldl (fun s n => s.declareDown n 3) (s.headCut h)
  let u := t.stopRings h.val
  ((u.dmas.filter fun d => decide (d.2.head = h.val)).map (·.1)).foldl (fun s i => s.dmaAnswer i { st := .tierErr }) u

theorem headReset_eq {s : State} {h : Fin 4} (hs : s.headStat h.val Reg.HEAD_STAT_IN_RESET = 0) :
    s.headReset h = (s.headLost h).go := if_neg (by simp [hs])

theorem headCut_hostsBehind (s : State) (h : Fin 4) : (s.headCut h).hostsBehind h.val = s.hostsBehind h.val := by
  have hreg : ∀ n, (s.headCut h).reg (Reg.HOME_HOST n) = s.reg (Reg.HOME_HOST n) := fun n =>
    (headCut_reg s h _).trans (resetHead_reg_other s h (by simp only [Reg.HOME_HOST, Reg.HEAD_STAT]; omega))
  unfold State.hostsBehind
  refine List.filter_congr fun n _ => ?_
  rw [flag_congr _ (hreg n), State.hostHead, fld_congr _ (hreg n), State.hostHead]

theorem headLost_keepsHeads {s : State} {h : Fin 4} (hnone : s.hostsBehind h.val = []) :
    (s.headCut h).KeepsHeads (s.headLost h) := by
  unfold State.headLost
  rw [headCut_hostsBehind, hnone]
  exact List.foldlRecOn (motive := (s.headCut h).KeepsHeads) _ _ (stopRings_keepsHeads ..) fun t ht i _ =>
    ht.trans (dmaAnswer_keepsHeads ..)

theorem headLost_shown {s : State} {h : Fin 4} (hnone : s.hostsBehind h.val = []) :
    (s.headLost h).reg (Reg.HEAD_STAT h.val) = 2 ^ 12 ∧ ((s.headLost h).head h.val).bme = false := by
  obtain ⟨hheads, hreg⟩ := headLost_keepsHeads hnone
  constructor
  · rw [hreg _ (by simp only [Reg.HEAD_STAT]; omega), headCut_reg, resetHead_stat]
  · rw [State.head, hheads, headCut_heads]
    exact resetHead_bme s h

end Sys2Proof.Machine
end

section
/-! O60: pins and references (R31, R32, R467, R550 to R552), and the demands of power and temperature (R543, R553 to R555). -/

namespace Sys2Proof.Machine

/-! ## References and pins (R31, R467, R550 to R552) -/

/-- A command of a quiet state that writes one field of a register and changes the power state beside it. -/
theorem done_setFld_pwr {s : State} (hs : s.Quiet) (r : RegId) (f : Fld) (v : Nat) (p : PwrState) :
    done s { s.setFld r f v with pwr := p } = .next { s with regs := (s.setFld r f v).regs, pwr := p } :=
  done_of_quiet hs rfl rfl rfl rfl rfl

theorem flag_setFld_one (s : State) (r : RegId) {f : Fld} (hf : f.lo ≤ f.hi) (hw : f.hi < 64) :
    (s.setFld r f 1).flag r f = true := by
  rw [flag_eq_true, fld_setFld_same _ _ _ hf hw]
  exact Nat.mod_eq_of_lt (Nat.one_lt_two_pow (by omega))

theorem flag_setFld_zero (s : State) (r : RegId) {f : Fld} (hf : f.lo ≤ f.hi) (hw : f.hi < 64) :
    (s.setFld r f 0).flag r f = false := by
  rw [flag_eq_false, fld_setFld_same _ _ _ hf hw, Nat.zero_mod]
  decide

theorem fabricReferenceLoss_holds {s : State} (hs : s.Quiet) (hrun : s.running = true) (hnone : s.pwr.refLostAt = none) :
    ∃ w, exec .fabricReferenceLoss s = .next { s with regs := w, pwr := { s.pwr with refLostAt := some s.tick } } ∧
      s.OnlyReg { s with regs := w } Reg.PWR_STAT ∧
      ({ s with regs := w } : State).flag Reg.PWR_STAT Reg.PWR_STAT_REF_HOLD = true := by
  have hexec : exec .fabricReferenceLoss s =
      done s { s.setFld Reg.PWR_STAT Reg.PWR_STAT_REF_HOLD 1 with pwr := { s.pwr with refLostAt := some s.tick } } :=
    congrArg (done s) (if_pos ⟨hrun, hnone⟩)
  exact ⟨_, hexec.trans (done_setFld_pwr hs ..), setFld_onlyReg .., flag_setFld_one s _ (by decide) (by decide)⟩

theorem fabricReferenceReturn_releases {s : State} (hs : s.Quiet) :
    ∃ w, exec .fabricReferenceReturn s = .next { s with regs := w, pwr := { s.pwr with refLostAt := none } } ∧
      s.OnlyReg { s with regs := w } Reg.PWR_STAT ∧
      ({ s with regs := w } : State).flag Reg.PWR_STAT Reg.PWR_STAT_REF_HOLD = false :=
  ⟨_, done_setFld_pwr hs .., setFld_onlyReg .., flag_setFld_zero s _ (by decide) (by decide)⟩

theorem refHoldTimeout_halts {s : State} {t0 : Nat} (hlost : s.pwr.refLostAt = some t0) (htime : t0 + 10 ^ 8 ≤ s.tick)
    (hfree : s.ras.moduleContained = false) :
    ∃ u : State, exec .refHoldTimeout s = .next (settle s u.pumpRings) ∧ s.Halted u := by
  have hexec : exec .refHoldTimeout s = done s (s.containModule 2 0) := by
    change done s (match s.pwr.refLostAt with
      | some t => if t + us 100000 ≤ s.tick ∧ ¬ s.ras.moduleContained then s.containModule 2 0 else s
      | none => s) = _
    rw [hlost]
    exact congrArg (done s) (if_pos ⟨htime, by simp [hfree]⟩)
  obtain ⟨u, hu, hhalted⟩ := containModule_halted hfree 2 0
  exact ⟨u, by rw [hexec, hu, done_eq], hhalted⟩

theorem thermalTrip_halts {s : State} (hrun : s.running = true) (hpower : s.power ≠ 5)
    (hfree : s.ras.moduleContained = false) :
    ∃ u : State, exec .thermalTrip s = .next (settle s (u.pumpRings.setFld Reg.PWR_STAT Reg.PWR_STAT_STATE 5)) ∧ s.Halted u := by
  have hexec : exec .thermalTrip s = done s ((s.containModule 3 (if s.ras.moduleContained = true then 2 else 0)).setFld
      Reg.PWR_STAT Reg.PWR_STAT_STATE 5) := congrArg (done s) (if_pos ⟨hrun, hpower⟩)
  obtain ⟨u, hu, hhalted⟩ := containModule_halted hfree 3 (if s.ras.moduleContained = true then 2 else 0)
  exact ⟨u, by rw [hexec, hu, done_eq], hhalted⟩

theorem headReferenceLoss_resets {h : Fin 4} {s : State} (hs : s.headStat h.val Reg.HEAD_STAT_IN_RESET = 0) :
    ∃ u : State, exec (.headReferenceLoss h) s = .next (settle s (u.go.score (obj 0xB h.val) .linkDown)) ∧
      (s.hostsBehind h.val = [] → u.reg (Reg.HEAD_STAT h.val) = 2 ^ 12 ∧ (u.head h.val).bme = false) := by
  have hexec : exec (.headReferenceLoss h) s = done s ((s.headReset h).score (obj 0xB h.val) .linkDown) :=
    congrArg (done s) (if_neg (by simp [hs]))
  exact ⟨s.headLost h, by rw [hexec, headReset_eq hs, done_eq], headLost_shown⟩

theorem fenceNAssert_closes {s : State} (hpower : s.power ≠ 0) (hopen : s.flag Reg.PWR_STAT Reg.PWR_STAT_FENCE = false) :
    ∃ u : State, exec .fenceNAssert s = .next (settle s u.go) ∧ u.flag Reg.PWR_STAT Reg.PWR_STAT_FENCE = true ∧
      u.hallOpen = false ∧ (∀ q : RegId, q.off ≠ Reg.PWR_STAT.off → u.reg q = s.reg q) ∧
      u.fab.outs = s.fab.outs.filter (fun o => o.dst / 32 = s.rack) ∧
      ∀ o ∈ s.fab.outs, o.dst / 32 ≠ s.rack → ∀ id, o.task = some id → (SMap.find s.tasks id).isSome → u.Answered id .fenced := by
  let t := s.setFld Reg.PWR_STAT Reg.PWR_STAT_FENCE 1
  have hexec : exec .fenceNAssert s = done s (t.closeHall fun _ => true) :=
    congrArg (done s) (if_neg (by simp [hpower, hopen]))
  have hrack : t.rack = s.rack := fld_setFld_other _ _ _ _ (by decide)
  obtain ⟨u, hu, hregs, -, houts, hanswered⟩ := closeHall_spec t fun _ => true
  have hreg : ∀ q, u.reg q = t.reg q := fun q => by rw [State.reg, hregs, State.reg]
  have hfence : u.flag Reg.PWR_STAT Reg.PWR_STAT_FENCE = true :=
    (flag_congr _ (hreg _)).trans (flag_setFld_one s _ (by decide) (by decide))
  refine ⟨u, by rw [hexec, hu, done_eq], hfence, by simp [State.hallOpen, hfence],
    fun q hq => (hreg q).trans (reg_setFld_other s _ _ hq), ?_, fun o ho hd id hid hsome => ?_⟩
  · rw [houts, hrack]
    exact List.filter_congr fun o _ => by simp
  · exact hanswered o ho (by rwa [hrack]) rfl id hid hsome

/-- A request of HP_REQ_N as `PWR_STAT` shows it. -/
def State.showHpReq (s : State) : State :=
  (s.setFld Reg.PWR_STAT Reg.PWR_STAT_HP_REQ 1).setFld Reg.PWR_STAT Reg.PWR_STAT_HP_SEEN 1

theorem showHpReq_onlyReg (s : State) : s.OnlyReg s.showHpReq Reg.PWR_STAT := (setFld_onlyReg ..).trans (setFld_onlyReg ..)

theorem showHpReq_req (s : State) : s.showHpReq.flag Reg.PWR_STAT Reg.PWR_STAT_HP_REQ = true := by
  rw [flag_eq_true, State.showHpReq, fld_setFld_field _ _ _ (by decide) (by decide) (by decide),
    fld_setFld_same _ _ _ (by decide) (by decide)]
  rfl

theorem showHpReq_seen (s : State) : s.showHpReq.flag Reg.PWR_STAT Reg.PWR_STAT_HP_SEEN = true :=
  flag_setFld_one _ _ (by decide) (by decide)

theorem hpReqN_shows {s : State} (hs : s.Quiet) (hpower : s.power ≠ 0) (harmed : s.pwr.hpArmed = true) :
    ∃ w, exec .hpReqN s = .next { s with regs := w, pwr := { s.pwr with hpArmed := false } } ∧
      s.OnlyReg { s with regs := w } Reg.PWR_STAT ∧
      ({ s with regs := w } : State).flag Reg.PWR_STAT Reg.PWR_STAT_HP_REQ = true ∧
      ({ s with regs := w } : State).flag Reg.PWR_STAT Reg.PWR_STAT_HP_SEEN = true := by
  have hexec : exec .hpReqN s = done s { s.showHpReq with pwr := { s.pwr with hpArmed := false } } :=
    congrArg (done s) (if_neg (by simp [hpower, harmed]))
  obtain ⟨⟨w, hw⟩, hreg⟩ := showHpReq_onlyReg s
  have hreq := showHpReq_req s
  have hseen := showHpReq_seen s
  rw [hw] at hexec hreg hreq hseen
  exact ⟨w, hexec.trans (done_of_quiet hs rfl rfl rfl rfl rfl), ⟨⟨w, rfl⟩, hreg⟩, hreq, hseen⟩

theorem hpReqNRelease_shows {s : State} (hs : s.Quiet) :
    ∃ w, exec .hpReqNRelease s = .next { s with regs := w, pwr := { s.pwr with hpArmed := true } } ∧
      s.OnlyReg { s with regs := w } Reg.PWR_STAT ∧
      ({ s with regs := w } : State).flag Reg.PWR_STAT Reg.PWR_STAT_HP_REQ = false :=
  ⟨_, done_setFld_pwr hs .., setFld_onlyReg .., flag_setFld_zero s _ (by decide) (by decide)⟩

theorem fld_bump_same (s : State) (r : RegId) {f : Fld} (hf : f.lo ≤ f.hi) (hw : f.hi < 64) (n : Nat) :
    (s.bump r f n).fld r f = (s.fld r f + n) % 2 ^ (f.hi + 1 - f.lo) := fld_setFld_same s r _ hf hw

theorem glitch_counts {s : State} (hs : s.Quiet) (hpower : s.power ≠ 0) (pin : Pin) :
    ∃ t, exec (.glitch pin) s = .next t ∧ s.OnlyReg t Reg.PWR_CNT ∧
      t.fld Reg.PWR_CNT Reg.PWR_CNT_GLITCH = (s.fld Reg.PWR_CNT Reg.PWR_CNT_GLITCH + 1) % 2 ^ 16 := by
  have hexec : exec (.glitch pin) s = done s (s.bump Reg.PWR_CNT Reg.PWR_CNT_GLITCH 1) := congrArg (done s) (if_neg hpower)
  have honly : s.OnlyReg (s.bump Reg.PWR_CNT Reg.PWR_CNT_GLITCH 1) Reg.PWR_CNT := setFld_onlyReg ..
  exact ⟨_, hexec.trans (done_of_onlyReg hs honly), honly, fld_bump_same s _ (by decide) (by decide) 1⟩

/-! ## Demands (R543, R553, R554) -/

theorem demand_high (d run : Nat) (low : Bool) : (demand d run true low).1 = min (d + 1) 8 := rfl

theorem demand_hold (d run : Nat) : (demand d run false false).1 = d := rfl

theorem demand_low (d run : Nat) : (demand d run false true).1 = if 9 ≤ run then d - 1 else d := by
  have hrun : min (run + 1) 10 = 10 ↔ 9 ≤ run := by omega
  simp only [demand, if_true, Bool.false_eq_true, if_false, hrun]
  split <;> rfl

/-- What a control interval shows of the demands and of what it measured. -/
def State.showControl (s : State) (pin tdie thbm tin : Nat) (hbm : Bool) : State :=
  (((((s.setFld Reg.PWR_STAT Reg.PWR_STAT_TDIE tdie).setFld Reg.PWR_STAT Reg.PWR_STAT_THBM thbm).setFld Reg.PWR_STAT
    Reg.PWR_STAT_TIN tin).setFld Reg.PWR_STAT Reg.PWR_STAT_PIN pin)).showDemands hbm

theorem showDemands_onlyReg (s : State) (hbm : Bool) : s.OnlyReg (s.showDemands hbm) Reg.PWR_STAT :=
  ((setFld_onlyReg ..).trans (setFld_onlyReg ..)).trans (setFld_onlyReg ..)

theorem showDemands_level (s : State) (hbm : Bool) :
    (s.showDemands hbm).fld Reg.PWR_STAT Reg.PWR_STAT_KTL_LVL = max s.pwr.lp s.pwr.lt % 16 := by
  rw [State.showDemands, fld_setFld_field _ _ _ (by decide) (by decide) (by decide),
    fld_setFld_field _ _ _ (by decide) (by decide) (by decide), fld_setFld_same _ _ _ (by decide) (by decide)]
  rfl

/-- A field of `PWR_STAT` beside those that follow the demands. -/
theorem showDemands_fld_of_apart (s : State) (hbm : Bool) {g : Fld} (hl : Reg.PWR_STAT_KTL_LVL.Apart g)
    (ht : Reg.PWR_STAT_THR_T.Apart g) (hp : Reg.PWR_STAT_THR_P.Apart g) :
    (s.showDemands hbm).fld Reg.PWR_STAT g = s.fld Reg.PWR_STAT g := by
  rw [State.showDemands, fld_setFld_field _ _ _ (by decide) (by decide) hp, fld_setFld_field _ _ _ (by decide) (by decide) ht,
    fld_setFld_field _ _ _ (by decide) (by decide) hl]

theorem showControl_onlyReg (s : State) (pin tdie thbm tin : Nat) (hbm : Bool) :
    s.OnlyReg (s.showControl pin tdie thbm tin hbm) Reg.PWR_STAT :=
  ((((setFld_onlyReg ..).trans (setFld_onlyReg ..)).trans (setFld_onlyReg ..)).trans (setFld_onlyReg ..)).trans
    (showDemands_onlyReg ..)

theorem showControl_level (s : State) (pin tdie thbm tin : Nat) (hbm : Bool) :
    (s.showControl pin tdie thbm tin hbm).fld Reg.PWR_STAT Reg.PWR_STAT_KTL_LVL = max s.pwr.lp s.pwr.lt % 16 := by
  rw [State.showControl, showDemands_level, setFld_pwr, setFld_pwr, setFld_pwr, setFld_pwr]

theorem showControl_tdie (s : State) (pin tdie thbm tin : Nat) (hbm : Bool) :
    (s.showControl pin tdie thbm tin hbm).fld Reg.PWR_STAT Reg.PWR_STAT_TDIE = tdie % 2 ^ 8 := by
  rw [State.showControl, showDemands_fld_of_apart _ _ (by decide) (by decide) (by decide),
    fld_setFld_field _ _ _ (by decide) (by decide) (by decide), fld_setFld_field _ _ _ (by decide) (by decide) (by decide),
    fld_setFld_field _ _ _ (by decide) (by decide) (by decide), fld_setFld_same _ _ _ (by decide) (by decide)]
  rfl

theorem showControl_pin (s : State) (pin tdie thbm tin : Nat) (hbm : Bool) :
    (s.showControl pin tdie thbm tin hbm).fld Reg.PWR_STAT Reg.PWR_STAT_PIN = pin % 2 ^ 16 := by
  rw [State.showControl, showDemands_fld_of_apart _ _ (by decide) (by decide) (by decide),
    fld_setFld_same _ _ _ (by decide) (by decide)]
  rfl

/-- A state that differs in its power state alone. -/
def State.withPwr (s : State) (p : PwrState) : State := { s with pwr := p }

theorem withPwr_reg (s : State) (p : PwrState) (r : RegId) : (s.withPwr p).reg r = s.reg r := rfl

theorem withPwr_tasks (s : State) (p : PwrState) : (s.withPwr p).tasks = s.tasks := rfl

theorem State.OnlyReg.tasks {s t : State} {r : RegId} (h : s.OnlyReg t r) : t.tasks = s.tasks := by
  obtain ⟨⟨w, rfl⟩, -⟩ := h
  rfl

theorem State.OnlyReg.pwr {s t : State} {r : RegId} (h : s.OnlyReg t r) : t.pwr = s.pwr := by
  obtain ⟨⟨w, rfl⟩, -⟩ := h
  rfl

/-- A control interval: the demands as R554 moves them, what it shows, and a count in `PWR_CNT` when a hot millisecond ends. -/
theorem controlTick_eq (s : State) (pin tdie thbm tin : Nat) :
    let lim := s.powerLimit tin
    let tthr := min 100 (s.fld Reg.PWR_LIMIT Reg.PWR_LIMIT_TTHR)
    ∃ (p : PwrState) (hbm turn : Bool),
      p.lp = (demand s.pwr.lp s.pwr.lowP (decide (lim < pin)) (decide (100 * pin < 95 * lim))).1 ∧
      p.lt = (demand s.pwr.lt s.pwr.lowT (decide (tthr ≤ tdie)) (decide (tdie + 5 < tthr))).1 ∧
      s.controlTick pin tdie thbm tin = if turn then
        ((s.withPwr p).showControl pin tdie thbm tin hbm).bump Reg.PWR_CNT Reg.PWR_CNT_THR_MS 1
      else (s.withPwr p).showControl pin tdie thbm tin hbm :=
  ⟨_, _, _, rfl, rfl, rfl⟩

/-- What a control interval leaves: the tasks and the other registers as they were, and the demands and measurements shown. -/
structure State.ControlShown (s t : State) (pin tdie : Nat) : Prop where
  tasks : t.tasks = s.tasks
  regs : ∀ q : RegId, q.off ≠ Reg.PWR_STAT.off → q.off ≠ Reg.PWR_CNT.off → t.reg q = s.reg q
  level : t.fld Reg.PWR_STAT Reg.PWR_STAT_KTL_LVL = max t.pwr.lp t.pwr.lt % 16
  tdie : t.fld Reg.PWR_STAT Reg.PWR_STAT_TDIE = tdie % 2 ^ 8
  pin : t.fld Reg.PWR_STAT Reg.PWR_STAT_PIN = pin % 2 ^ 16

theorem showControl_shown (s : State) (p : PwrState) (pin tdie thbm tin : Nat) (hbm : Bool) :
    s.ControlShown ((s.withPwr p).showControl pin tdie thbm tin hbm) pin tdie := by
  have honly := showControl_onlyReg (s.withPwr p) pin tdie thbm tin hbm
  refine ⟨honly.tasks.trans (withPwr_tasks s p), fun q hq _ => (honly.2 q hq).trans (withPwr_reg s p q), ?_,
    showControl_tdie .., showControl_pin ..⟩
  rw [honly.pwr]
  exact showControl_level ..

/-- A count in `PWR_CNT` beside it changes none of this. -/
theorem State.ControlShown.bump {s t : State} {pin tdie : Nat} (h : s.ControlShown t pin tdie) (f : Fld) (n : Nat) :
    s.ControlShown (t.bump Reg.PWR_CNT f n) pin tdie := by
  have honly : t.OnlyReg (t.bump Reg.PWR_CNT f n) Reg.PWR_CNT := setFld_onlyReg ..
  have hstat : (t.bump Reg.PWR_CNT f n).reg Reg.PWR_STAT = t.reg Reg.PWR_STAT := honly.2 _ (by decide)
  refine ⟨honly.tasks.trans h.tasks, fun q hq hcnt => (honly.2 q hcnt).trans (h.regs q hq hcnt), ?_,
    (fld_congr _ hstat).trans h.tdie, (fld_congr _ hstat).trans h.pin⟩
  rw [honly.pwr]
  exact (fld_congr _ hstat).trans h.level

theorem controlTick_spec (s : State) (pin tdie thbm tin : Nat) :
    let lim := s.powerLimit tin
    let tthr := min 100 (s.fld Reg.PWR_LIMIT Reg.PWR_LIMIT_TTHR)
    let t := s.controlTick pin tdie thbm tin
    s.ControlShown t pin tdie ∧
      t.pwr.lp = (demand s.pwr.lp s.pwr.lowP (decide (lim < pin)) (decide (100 * pin < 95 * lim))).1 ∧
      t.pwr.lt = (demand s.pwr.lt s.pwr.lowT (decide (tthr ≤ tdie)) (decide (tdie + 5 < tthr))).1 := by
  obtain ⟨p, hbm, turn, hlp, hlt, heq⟩ := controlTick_eq s pin tdie thbm tin
  have hpwr := (showControl_onlyReg (s.withPwr p) pin tdie thbm tin hbm).pwr
  dsimp only
  rw [heq]
  cases turn
  · rw [if_neg Bool.false_ne_true, hpwr]
    exact ⟨showControl_shown .., hlp, hlt⟩
  · rw [if_pos rfl, bump_pwr, hpwr]
    exact ⟨(showControl_shown ..).bump .., hlp, hlt⟩

/-- A demand above its limit rises (R554). -/
theorem demand_of_high {d run : Nat} {high low : Prop} [Decidable high] [Decidable low] (h : high) :
    (demand d run (decide high) (decide low)).1 = min (d + 1) 8 := by
  rw [decide_eq_true h, demand_high]

/-- A demand within the band below its limit holds (R554). -/
theorem demand_of_hold {d run : Nat} {high low : Prop} [Decidable high] [Decidable low] (h : ¬ high) (h' : ¬ low) :
    (demand d run (decide high) (decide low)).1 = d := by
  rw [decide_eq_false h, decide_eq_false h', demand_hold]

/-- A demand falls after ten low intervals (R554). -/
theorem demand_of_low {d run : Nat} {high low : Prop} [Decidable high] [Decidable low] (h : ¬ high) (h' : low) :
    (demand d run (decide high) (decide low)).1 = if 9 ≤ run then d - 1 else d := by
  rw [decide_eq_false h, decide_eq_true h', demand_low]

theorem powerControlTick_moves {s : State} (hrun : s.running = true) (htime : s.pwr.ctlAt + us 100 ≤ s.tick)
    (pin tdie thbm tin : Nat) :
    let lim := s.powerLimit tin
    let tthr := min 100 (s.fld Reg.PWR_LIMIT Reg.PWR_LIMIT_TTHR)
    ∃ t, exec (.powerControlTick pin tdie thbm tin) s = .next t ∧ s.ControlShown t pin tdie ∧
      t.pwr.lp = (demand s.pwr.lp s.pwr.lowP (decide (lim < pin)) (decide (100 * pin < 95 * lim))).1 ∧
      t.pwr.lt = (demand s.pwr.lt s.pwr.lowT (decide (tthr ≤ tdie)) (decide (tdie + 5 < tthr))).1 := by
  let s' := s.withPwr { s.pwr with ctlAt := alignDown s.tick (us 100) }
  have hexec : exec (.powerControlTick pin tdie thbm tin) s = done s (s'.controlTick pin tdie thbm tin) :=
    congrArg (done s) (if_pos (by simp [hrun, htime]))
  obtain ⟨hshown, hlp, hlt⟩ := controlTick_spec s' pin tdie thbm tin
  obtain ⟨htasks, hregs, hlevel, htdie, hpin⟩ := hshown
  exact ⟨_, hexec.trans (done_eq ..), ⟨htasks, hregs, hlevel, htdie, hpin⟩, hlp, hlt⟩

/-! ## Droops (R543) -/

theorem droop_counts {s : State} (hs : s.Quiet) (hrun : s.running = true) :
    ∃ w, exec .droop s = .next { s with regs := w, pwr := { s.pwr with droops := s.pwr.droops + 1 } } ∧
      s.OnlyReg { s with regs := w } Reg.PWR_CNT ∧
      ({ s with regs := w } : State).fld Reg.PWR_CNT Reg.PWR_CNT_DROOP = (s.fld Reg.PWR_CNT Reg.PWR_CNT_DROOP + 1) % 2 ^ 16 := by
  have hexec : exec .droop s =
      done s { s.bump Reg.PWR_CNT Reg.PWR_CNT_DROOP 1 with pwr := { s.pwr with droops := s.pwr.droops + 1 } } :=
    congrArg (done s) (if_pos hrun)
  exact ⟨_, hexec.trans (done_setFld_pwr hs ..), setFld_onlyReg .., fld_bump_same s _ (by decide) (by decide) 1⟩

/-- The power state when a millisecond ends: the count of droops starts again, and more than a thousand raise the demand. -/
def State.droopPwr (s : State) : PwrState :=
  { s.pwr with
    droops := 0, droopAt := alignDown s.tick (us 1000)
    lt := if 1000 < s.pwr.droops then min (s.pwr.lt + 1) 8 else s.pwr.lt }

theorem droopWindow_of_many {s : State} (h : 1000 < s.pwr.droops) :
    ∃ hbm, s.droopWindow = (s.withPwr s.droopPwr).showDemands hbm :=
  ⟨_, by simp only [State.droopWindow, decide_eq_true h, if_true, State.withPwr, State.droopPwr, if_pos h]; rfl⟩

theorem droopWindow_of_few {s : State} (h : ¬ 1000 < s.pwr.droops) : s.droopWindow = s.withPwr s.droopPwr := by
  simp only [State.droopWindow, decide_eq_false h, Bool.false_eq_true, if_false, State.withPwr, State.droopPwr, if_neg h]

theorem droopWindow_onlyReg (s : State) : (s.withPwr s.droopPwr).OnlyReg s.droopWindow Reg.PWR_STAT := by
  by_cases h : 1000 < s.pwr.droops
  · obtain ⟨hbm, heq⟩ := droopWindow_of_many h
    rw [heq]
    exact showDemands_onlyReg ..
  · rw [droopWindow_of_few h]
    exact ⟨⟨_, rfl⟩, fun _ _ => rfl⟩

theorem droopWindow_raises {s : State} (htime : s.pwr.droopAt + us 1000 ≤ s.tick) :
    ∃ t, exec .droopWindow s = .next t ∧ t.pwr.droops = 0 ∧
      t.pwr.lt = (if 1000 < s.pwr.droops then min (s.pwr.lt + 1) 8 else s.pwr.lt) ∧ t.tasks = s.tasks ∧
      ∀ q : RegId, q.off ≠ Reg.PWR_STAT.off → t.reg q = s.reg q := by
  have hexec : exec .droopWindow s = done s s.droopWindow := congrArg (done s) (if_pos htime)
  have honly := droopWindow_onlyReg s
  have hpwr : (settle s s.droopWindow).pwr = s.droopPwr := honly.pwr
  refine ⟨_, hexec.trans (done_eq ..), by rw [hpwr, State.droopPwr], by rw [hpwr, State.droopPwr], ?_, fun q hq => ?_⟩
  · rw [settle_tasks, honly.tasks, withPwr_tasks]
  · rw [settle_reg, honly.2 q hq, withPwr_reg]

theorem fenceNRelease_opens (s : State) :
    ∃ u : State, exec .fenceNRelease s = .next (settle s u.go) ∧ s.OnlyReg u Reg.PWR_STAT ∧
      u.flag Reg.PWR_STAT Reg.PWR_STAT_FENCE = false :=
  ⟨s.setFld Reg.PWR_STAT Reg.PWR_STAT_FENCE 0, rfl, setFld_onlyReg .., flag_setFld_zero s _ (by decide) (by decide)⟩

/-- Settles O60: one lemma for each pin and each demand. -/
theorem pinsAndDemands : Obligations.PinsAndDemands := by
  unfold Obligations.PinsAndDemands
  refine ⟨fun s => fabricReferenceLoss_holds, fun s => fabricReferenceReturn_releases, fun s t0 => refHoldTimeout_halts,
    fun s => thermalTrip_halts, fun h s => headReferenceLoss_resets, fun s => fenceNAssert_closes, fenceNRelease_opens,
    fun s hs => ⟨hpReqN_shows hs, hpReqNRelease_shows hs, glitch_counts hs⟩, fun pin tdie thbm tin s hrun htime => ?_,
    fun s => ⟨droop_counts, droopWindow_raises⟩⟩
  obtain ⟨t, hexec, ⟨htasks, hregs, hlevel, htdie, hpin⟩, hlp, hlt⟩ := powerControlTick_moves hrun htime pin tdie thbm tin
  exact ⟨t, hexec, htasks, hregs, fun hhigh => hlp.trans (demand_of_high hhigh),
    fun hle hband => hlp.trans (demand_of_hold (by omega) (by omega)),
    fun hlow => hlp.trans (demand_of_low (by omega) hlow), fun hhigh => hlt.trans (demand_of_high hhigh),
    fun hle hband => hlt.trans (demand_of_hold (by omega) (by omega)),
    fun hlow => hlt.trans (demand_of_low (by omega) hlow), hlevel, htdie, hpin⟩

end Sys2Proof.Machine
end

section
/-! O31: the answers to a fault's token (R67 to R69). -/

namespace Sys2Proof.Machine

/-! ## Answers to several tasks -/

theorem foldl_deliver_onlyTasks (l : List Nat) (a : Ans) (s : State) :
    ∃ m, l.foldl (fun t id => t.deliver id a) s = { s with tasks := m } := by
  induction l generalizing s with
  | nil => exact ⟨s.tasks, rfl⟩
  | cons id l ih =>
    obtain ⟨m, hm⟩ := deliver_onlyTasks s id a
    rw [List.foldl_cons, hm]
    exact ih _

/-! ## A token retired -/

/-- A token taken out with the record that waits for it; its tasks have no answer yet. -/
def State.takeTok (s : State) (k : FaultTok) : State :=
  { s with
    xlt := { s.xlt with toks := s.xlt.toks.filter fun x => x.tok ≠ k.tok }
    ringq := s.ringq.filter fun r => !(r.ring = 0 && r.tok = k.tok) }

theorem retire_eq (s : State) (k : FaultTok) (a : Ans) :
    s.retire k a = k.joined.foldl (fun t id => t.deliver id a) (s.takeTok k) := rfl

theorem retire_onlyTasks (s : State) (k : FaultTok) (a : Ans) : ∃ m, s.retire k a = { s.takeTok k with tasks := m } :=
  foldl_deliver_onlyTasks k.joined a (s.takeTok k)

theorem retire_regs (s : State) (k : FaultTok) (a : Ans) : (s.retire k a).regs = s.regs := by
  obtain ⟨m, hm⟩ := retire_onlyTasks s k a
  rw [hm, State.takeTok]

theorem retire_xlt (s : State) (k : FaultTok) (a : Ans) :
    (s.retire k a).xlt = { s.xlt with toks := s.xlt.toks.filter fun x => x.tok ≠ k.tok } := by
  obtain ⟨m, hm⟩ := retire_onlyTasks s k a
  rw [hm, State.takeTok]

theorem retire_ringq (s : State) (k : FaultTok) (a : Ans) :
    (s.retire k a).ringq = s.ringq.filter fun r => !(r.ring = 0 && r.tok = k.tok) := by
  obtain ⟨m, hm⟩ := retire_onlyTasks s k a
  rw [hm, State.takeTok]

theorem findTok_retire (s : State) (k : FaultTok) (a : Ans) : (s.retire k a).findTok k.tok = none := by
  rw [State.findTok, retire_xlt, List.find?_eq_none]
  intro x hx
  simpa using (List.mem_filter.1 hx).2

/-- No record that waits for the fault ring is of a retired token. -/
theorem ringq_retire_ne {s : State} {k : FaultTok} {a : Ans} {r : RingRec} (hr : r ∈ (s.retire k a).ringq) :
    ¬ (r.ring = 0 ∧ r.tok = k.tok) := by
  rintro ⟨hring, htok⟩
  rw [retire_ringq] at hr
  simpa [hring, htok] using (List.mem_filter.1 hr).2

theorem find_tasks_retire {s : State} {k : FaultTok} {id : Nat} {t : Task} (hk : k.joined = [id])
    (h : SMap.find s.tasks id = some t) (a : Ans) :
    SMap.find (s.retire k a).tasks id = some { t with log := t.log ++ [a], wait := .ready, moved := s.tick } := by
  rw [retire_eq, hk, List.foldl_cons, List.foldl_nil, deliver_of_find (s := s.takeTok k) h]
  exact SMap.find_put_same ..

theorem tok_of_findTok {s : State} {n : Nat} {k : FaultTok} (h : s.findTok n = some k) : k.tok = n := by
  simpa using List.find?_some h

/-- A token of a number is gone with its waiting record, no register changed, and the access that joined it has its answer. -/
def State.TokGone (s u : State) (n : Nat) (k : FaultTok) (a : Ans) : Prop :=
  u.findTok n = none ∧ (∀ r ∈ u.ringq, ¬ (r.ring = 0 ∧ r.tok = n)) ∧ u.regs = s.regs ∧
  ∀ id t, k.joined = [id] → SMap.find s.tasks id = some t →
    SMap.find u.tasks id = some { t with log := t.log ++ [a], wait := .ready, moved := s.tick }

theorem retire_tokGone (s : State) {n : Nat} {k : FaultTok} (hn : k.tok = n) (a : Ans) : s.TokGone (s.retire k a) n k a := by
  subst hn
  exact ⟨findTok_retire s k a, fun _ => ringq_retire_ne, retire_regs s k a, fun _ _ hk ht => find_tasks_retire hk ht a⟩

/-! ## Translations dropped (R57, R67) -/

/-- No entry of an engine's TLB overlaps a range that has been dropped. -/
theorem overlaps_tlbDrop {s : State} {ctx lo len e : Nat} {l : List TlbEnt}
    (h : SMap.find (s.tlbDrop ctx lo len).xlt.l1 e = some l) {x : TlbEnt} (hx : x ∈ l) : x.overlaps ctx lo len = false := by
  obtain ⟨y, -, hy⟩ := List.mem_map.1 (List.mem_filter.1 (mem_of_find h)).1
  rw [← (Prod.mk.inj hy).2] at hx
  simpa using (List.mem_filter.1 hx).2

/-! ## A write of `XLT_FAULT_RESP` -/

/-- The word that names a token and an action. -/
def respWord (tok : BitVec 32) (action : Nat) : Word := BitVec.ofNat 64 (tok.toNat + 2 ^ 32 * action)

theorem newFld_respWord_token (tok : BitVec 32) (n : Nat) :
    newFld Reg.XLT_FAULT_RESP_TOKEN (respWord tok n) = tok.toNat := by
  have hlt := tok.isLt
  simp only [newFld, respWord, Fld.get, bits, Reg.XLT_FAULT_RESP_TOKEN, BitVec.toNat_ofNat]
  omega

theorem newFld_respWord_action (tok : BitVec 32) {n : Nat} (h : n < 4) :
    newFld Reg.XLT_FAULT_RESP_ACTION (respWord tok n) = n := by
  have hlt := tok.isLt
  simp only [newFld, respWord, Fld.get, bits, Reg.XLT_FAULT_RESP_ACTION, BitVec.toNat_ofNat]
  omega

/-- The page's translations are dropped and its token retired (R67). -/
def State.replayTok (s : State) (k : FaultTok) : State := (s.tlbDrop k.ctx (alignDown k.va 4096) 4096).retire k {}

/-- A token retired with the status of its kind (R68). -/
def State.abortTok (s : State) (k : FaultTok) : State := s.retire k { st := faultStatus k.kind .fault }

theorem faultResponse_replay {s : State} {tok : BitVec 32} {k : FaultTok} (h : s.findTok tok.toNat = some k) :
    s.faultResponse (respWord tok 1) = (s.replayTok k).go := by
  simp only [State.faultResponse, newFld_respWord_action tok (show 1 < 4 by decide), newFld_respWord_token, h]
  rfl

theorem faultResponse_abort {s : State} {tok : BitVec 32} {k : FaultTok} (h : s.findTok tok.toNat = some k) :
    s.faultResponse (respWord tok 2) = (s.abortTok k).go := by
  simp only [State.faultResponse, newFld_respWord_action tok (show 2 < 4 by decide), newFld_respWord_token, h]
  rfl

/-- A response that names no outstanding token sets BADRESP (R69). -/
theorem faultResponse_badresp {s : State} {tok : BitVec 32} (h : s.findTok tok.toNat = none) {n : Nat} (hn : n = 1 ∨ n = 2) :
    s.faultResponse (respWord tok n) = s.setFld Reg.XLT_FQ_CFG Reg.XLT_FQ_CFG_BADRESP 1 := by
  have hn4 : n < 4 := by omega
  simp only [State.faultResponse, newFld_respWord_action tok hn4, newFld_respWord_token, h]
  exact if_neg (by omega)

theorem replayTok_tokGone (s : State) {n : Nat} {k : FaultTok} (hn : k.tok = n) : s.TokGone (s.replayTok k) n k {} :=
  retire_tokGone (s.tlbDrop k.ctx (alignDown k.va 4096) 4096) hn {}

theorem abortTok_tokGone (s : State) {n : Nat} {k : FaultTok} (hn : k.tok = n) :
    s.TokGone (s.abortTok k) n k { st := faultStatus k.kind .fault } :=
  retire_tokGone s hn _

theorem overlaps_replayTok {s : State} {k : FaultTok} {e : Nat} {l : List TlbEnt}
    (h : SMap.find (s.replayTok k).xlt.l1 e = some l) {x : TlbEnt} (hx : x ∈ l) :
    x.overlaps k.ctx (alignDown k.va 4096) 4096 = false := by
  rw [State.replayTok, retire_xlt] at h
  exact overlaps_tlbDrop h hx

/-! ## The commands -/

theorem exec_faultReplay {via : Via} {s : State} (hm : s.mayWrite via Reg.XLT_FAULT_RESP.off = true) (tok : BitVec 32) :
    exec (.faultReplay via tok) s = done s (s.faultResponse (respWord tok 1)) := congrArg (done s) (if_pos hm)

theorem exec_faultAbort {via : Via} {s : State} (hm : s.mayWrite via Reg.XLT_FAULT_RESP.off = true) (tok : BitVec 32) :
    exec (.faultAbort via tok) s = done s (s.faultResponse (respWord tok 2)) := congrArg (done s) (if_pos hm)

theorem exec_faultResponseTimeout {tok : BitVec 32} {s : State} {k : FaultTok} (hk : s.findTok tok.toNat = some k)
    (htmo : s.fld Reg.XLT_FQ_CFG Reg.XLT_FQ_CFG_TMO ≠ 0)
    (hdue : k.since + us (s.fld Reg.XLT_FQ_CFG Reg.XLT_FQ_CFG_TMO) ≤ s.tick) :
    exec (.faultResponseTimeout tok) s = done s (s.retire k { st := .timeout }).go := by
  refine congrArg (done s) ?_
  simp only [hk]
  exact if_pos ⟨htmo, hdue⟩

/-- Settles O31: replay and abort are one write of `XLT_FAULT_RESP`, and they and the timeout retire the token they find. -/
theorem faultTokensRetire : Obligations.FaultTokensRetire := by
  intro tok s gone
  refine ⟨fun via hm => ⟨fun k hk => ?_, fun hnone hs => ?_⟩, fun k hk htmo hdue => ?_⟩
  · have htok := tok_of_findTok hk
    refine ⟨⟨s.replayTok k, ?_, replayTok_tokGone s htok, fun e l h x hx => overlaps_replayTok h hx⟩,
      s.abortTok k, ?_, abortTok_tokGone s htok⟩
    · rw [exec_faultReplay hm, faultResponse_replay hk, done_eq]
    · rw [exec_faultAbort hm, faultResponse_abort hk, done_eq]
  · have honly := setFld_onlyReg s Reg.XLT_FQ_CFG Reg.XLT_FQ_CFG_BADRESP 1
    refine ⟨_, ?_, ?_, honly, flag_setFld_one s _ (by decide) (by decide)⟩
    · rw [exec_faultReplay hm, faultResponse_badresp hnone (.inl rfl), done_of_onlyReg hs honly]
    · rw [exec_faultAbort hm, faultResponse_badresp hnone (.inr rfl), done_of_onlyReg hs honly]
  · refine ⟨s.retire k { st := .timeout }, ?_, retire_tokGone s (tok_of_findTok hk) _⟩
    rw [exec_faultResponseTimeout hk htmo (by rw [us]; omega), done_eq]

end Sys2Proof.Machine
end

section
/-! O32: the rings of fault, poison and advisory records (R63, R64, R71, R219, R524). -/

namespace Sys2Proof.Machine

/-! ## The registers of a ring -/

theorem ringPtrs_ne_ringBase (k : Nat) : (ringPtrs k).off ≠ (ringBase k).off := by
  unfold ringPtrs ringBase
  split_ifs <;> decide

theorem ringCfg_ne_ringBase (k : Nat) : (ringCfg k).off ≠ (ringBase k).off := by
  unfold ringCfg ringBase
  split_ifs <;> decide

theorem ringPtrs_ne_ringCfg (k : Nat) : (ringPtrs k).off ≠ (ringCfg k).off := by
  unfold ringPtrs ringCfg
  split_ifs <;> decide

theorem ringEn_mem_fieldsAt (k : Nat) : Reg.XLT_FQ_BASE_EN ∈ fieldsAt ((ringBase k).off % 2 ^ 40) := by
  unfold ringBase
  split_ifs <;> decide +kernel

@[simp] theorem settle_ringPhase (s t : State) (k : Nat) : (settle s t).ringPhase k = t.ringPhase k := rfl

/-! ## A ring is enabled -/

/-- A write of a ring's BASE gives EN the value written. -/
theorem flag_writePlain_ringEn (s : State) (sec : Bool) (k : Nat) (v : Word) :
    (s.writePlain sec (ringBase k) [] v.toNat).flag (ringBase k) Reg.XLT_FQ_BASE_EN =
      decide (newFld Reg.XLT_FQ_BASE_EN v = 1) := by
  rw [State.flag, fld_writePlain_of_mem s sec (ringEn_mem_fieldsAt k)]
  rfl

theorem writeRingBase_enable {s : State} {via : Via} {k : Nat} {v : Word} (hv : newFld Reg.XLT_FQ_BASE_EN v = 1)
    (hwas : s.flag (ringBase k) Reg.XLT_FQ_BASE_EN = false) :
    s.writeRingBase via k v = (s.writePlain (s.secureVia via) (ringBase k) [] v.toNat).ringRestart k := by
  simp [State.writeRingBase, flag_writePlain_ringEn, hv, hwas]

/-- A restart writes TAIL, and LOST of the two logs. -/
theorem ringRestart_regs (s : State) (k : Nat) : (s.ringRestart k).regs =
    let t := s.setFld (ringPtrs k) Reg.XLT_FQ_PTRS_TAIL (s.fld (ringPtrs k) Reg.XLT_FQ_PTRS_HEAD)
    if k = 0 then t.regs else (t.setFld (ringCfg k) Reg.HOME_PLOG_CFG_LOST 0).regs := by
  simp only [State.ringRestart]
  split_ifs <;> rfl

theorem reg_ringRestart (s : State) (k : Nat) {r : RegId} (hr : r.off ≠ (ringCfg k).off) : (s.ringRestart k).reg r =
    (s.setFld (ringPtrs k) Reg.XLT_FQ_PTRS_TAIL (s.fld (ringPtrs k) Reg.XLT_FQ_PTRS_HEAD)).reg r := by
  rw [State.reg, ringRestart_regs]
  dsimp only
  split_ifs
  · rfl
  · exact reg_setFld_other _ _ _ hr

theorem ringRestart_tail (s : State) (k : Nat) :
    (s.ringRestart k).fld (ringPtrs k) Reg.XLT_FQ_PTRS_TAIL = s.fld (ringPtrs k) Reg.XLT_FQ_PTRS_HEAD := by
  rw [fld_congr _ (reg_ringRestart s k (ringPtrs_ne_ringCfg k)), fld_setFld_same _ _ _ (by decide) (by decide)]
  exact Nat.mod_eq_of_lt (fld_lt s _ Reg.XLT_FQ_PTRS_HEAD)

theorem ringRestart_head (s : State) (k : Nat) :
    (s.ringRestart k).fld (ringPtrs k) Reg.XLT_FQ_PTRS_HEAD = s.fld (ringPtrs k) Reg.XLT_FQ_PTRS_HEAD := by
  rw [fld_congr _ (reg_ringRestart s k (ringPtrs_ne_ringCfg k)),
    fld_setFld_field _ _ _ (by decide) (by decide) (by decide)]

theorem ringRestart_lost (s : State) {k : Nat} (hk : k ≠ 0) :
    (s.ringRestart k).fld (ringCfg k) Reg.HOME_PLOG_CFG_LOST = 0 := by
  rw [State.fld, State.reg, ringRestart_regs]
  dsimp only
  rw [if_neg hk]
  exact (fld_setFld_same _ (ringCfg k) 0 (by decide) (by decide)).trans (Nat.zero_mod _)

theorem ringRestart_phase (s : State) (k : Nat) : (s.ringRestart k).ringPhase k = true := by
  simp only [State.ringRestart, State.ringPhase]
  split_ifs <;> rfl

theorem reg_ringRestart_other (s : State) (k : Nat) {r : RegId} (hp : r.off ≠ (ringPtrs k).off)
    (hc : r.off ≠ (ringCfg k).off) : (s.ringRestart k).reg r = s.reg r :=
  (reg_ringRestart s k hc).trans (reg_setFld_other _ _ _ hp)

/-- A ring enabled by a write of its BASE starts again: TAIL is HEAD, the phase is 1, and LOST of the two logs is 0. -/
theorem writeRingBase_restarts {s : State} {via : Via} {k : Nat} {v : Word} (hv : newFld Reg.XLT_FQ_BASE_EN v = 1)
    (hwas : s.flag (ringBase k) Reg.XLT_FQ_BASE_EN = false) :
    let u := s.writeRingBase via k v
    u.flag (ringBase k) Reg.XLT_FQ_BASE_EN = true ∧
      u.fld (ringPtrs k) Reg.XLT_FQ_PTRS_TAIL = s.fld (ringPtrs k) Reg.XLT_FQ_PTRS_HEAD ∧
      u.fld (ringPtrs k) Reg.XLT_FQ_PTRS_HEAD = s.fld (ringPtrs k) Reg.XLT_FQ_PTRS_HEAD ∧
      u.ringPhase k = true ∧ (k ≠ 0 → u.fld (ringCfg k) Reg.HOME_PLOG_CFG_LOST = 0) ∧
      ∀ r : RegId, r.off ≠ (ringBase k).off → r.off ≠ (ringPtrs k).off → r.off ≠ (ringCfg k).off → u.reg r = s.reg r := by
  have hother : ∀ r : RegId, r.off ≠ (ringBase k).off →
      (s.writePlain (s.secureVia via) (ringBase k) [] v.toNat).reg r = s.reg r := fun r => reg_writePlain_other s _ [] _
  have hen := flag_writePlain_ringEn s (s.secureVia via) k v
  rw [writeRingBase_enable hv hwas]
  generalize s.writePlain (s.secureVia via) (ringBase k) [] v.toNat = t at hother hen
  have hptrs := hother _ (ringPtrs_ne_ringBase k)
  have hbase := reg_ringRestart_other t k (ringPtrs_ne_ringBase k).symm (ringCfg_ne_ringBase k).symm
  exact ⟨(flag_congr _ hbase).trans (hen.trans (decide_eq_true hv)), (ringRestart_tail t k).trans (fld_congr _ hptrs),
    (ringRestart_head t k).trans (fld_congr _ hptrs), ringRestart_phase t k, ringRestart_lost t,
    fun r hb hp hc => (reg_ringRestart_other t k hp hc).trans (hother r hb)⟩

/-- The commands that enable a ring write its BASE. -/
theorem exec_ringEnable {via : Via} {v : Word} {s : State} (hv : newFld Reg.XLT_FQ_BASE_EN v = 1) :
    ∀ c ∈ ([(.faultRingEnable, 0), (.poisonLogEnable, 1), (.advisoryRingEnable, 2)] : List ((Via → Word → Instr) × Nat)),
      s.mayWrite via (ringBase c.2).off = true → exec (c.1 via v) s = done s (s.writeRingBase via c.2 v) := by
  simp only [List.forall_mem_cons, List.not_mem_nil, false_implies, implies_true, and_true]
  exact ⟨fun hm => congrArg (done s) (if_pos ⟨hm, hv⟩), fun hm => congrArg (done s) (if_pos ⟨hm, hv⟩),
    fun hm => congrArg (done s) (if_pos ⟨hm, hv⟩)⟩

/-! ## The fault ring is disabled (R71) -/

theorem writeRingBase_disable {s : State} {via : Via} {v : Word} (hv : newFld Reg.XLT_FQ_BASE_EN v = 0) :
    s.writeRingBase via 0 v = (s.writePlain (s.secureVia via) (ringBase 0) [] v.toNat).retireAll := by
  simp [State.writeRingBase, flag_writePlain_ringEn, hv]

theorem writePlain_xlt (s : State) (sec : Bool) (r : RegId) (hold : List Fld) (v : Nat) :
    (s.writePlain sec r hold v).xlt = s.xlt := setReg_xlt ..

theorem foldl_abortTok_regs (l : List FaultTok) (s : State) : (l.foldl State.abortTok s).regs = s.regs := by
  induction l generalizing s with
  | nil => rfl
  | cons k l ih => rw [List.foldl_cons, ih, State.abortTok, retire_regs]

/-- A token left after the tokens of a list have been retired stood before, and none of the list has its number. -/
theorem mem_toks_foldl_abortTok {l : List FaultTok} {s : State} {x : FaultTok}
    (hx : x ∈ (l.foldl State.abortTok s).xlt.toks) : x ∈ s.xlt.toks ∧ ∀ k ∈ l, x.tok ≠ k.tok := by
  induction l generalizing s with
  | nil => exact ⟨hx, List.forall_mem_nil _⟩
  | cons k l ih =>
    obtain ⟨hmem, hl⟩ := ih hx
    rw [State.abortTok, retire_xlt] at hmem
    obtain ⟨hmem, hne⟩ := List.mem_filter.1 hmem
    exact ⟨hmem, List.forall_mem_cons.2 ⟨of_decide_eq_true hne, hl⟩⟩

/-- No record that waits for the fault ring is of a token of a list that has been retired. -/
theorem ringq_foldl_abortTok {l : List FaultTok} {s : State} {r : RingRec} (hr : r ∈ (l.foldl State.abortTok s).ringq) :
    r ∈ s.ringq ∧ ∀ k ∈ l, ¬ (r.ring = 0 ∧ r.tok = k.tok) := by
  induction l generalizing s with
  | nil => exact ⟨hr, List.forall_mem_nil _⟩
  | cons k l ih =>
    obtain ⟨hmem, hl⟩ := ih hr
    refine ⟨?_, List.forall_mem_cons.2 ⟨ringq_retire_ne hmem, hl⟩⟩
    rw [State.abortTok, retire_ringq] at hmem
    exact (List.mem_filter.1 hmem).1

theorem exec_faultRingDisable {via : Via} {v : Word} {s : State} (hv : newFld Reg.XLT_FQ_BASE_EN v = 0)
    (hm : s.mayWrite via Reg.XLT_FQ_BASE.off = true) :
    exec (.faultRingDisable via v) s = done s (s.writeRingBase via 0 v) := congrArg (done s) (if_pos ⟨hm, hv⟩)

/-- All tokens retired, up to the work that goes on: none is left, and no record of one waits. -/
theorem retireAll_spec (s : State) : ∃ u : State, s.retireAll = u.go ∧ u.regs = s.regs ∧ u.xlt.toks = [] ∧
    ∀ r ∈ u.ringq, ∀ k ∈ s.xlt.toks, ¬ (r.ring = 0 ∧ r.tok = k.tok) := by
  refine ⟨s.xlt.toks.foldl State.abortTok s, rfl, foldl_abortTok_regs .., ?_, fun r hr => (ringq_foldl_abortTok hr).2⟩
  refine List.eq_nil_iff_forall_not_mem.2 fun x hx => ?_
  obtain ⟨hmem, hne⟩ := mem_toks_foldl_abortTok hx
  exact hne x hmem rfl

/-- Disabling the fault ring retires every token. -/
theorem faultRingDisable_retires {via : Via} {v : Word} {s : State} (hv : newFld Reg.XLT_FQ_BASE_EN v = 0)
    (hm : s.mayWrite via Reg.XLT_FQ_BASE.off = true) :
    ∃ u : State, exec (.faultRingDisable via v) s = .next (settle s u.go) ∧ u.xlt.toks = [] ∧
      u.flag Reg.XLT_FQ_BASE Reg.XLT_FQ_BASE_EN = false ∧ ∀ r ∈ u.ringq, r.ring = 0 → ∀ k ∈ s.xlt.toks, r.tok ≠ k.tok := by
  obtain ⟨u, hu, hregs, htoks, hringq⟩ := retireAll_spec (s.writePlain (s.secureVia via) (ringBase 0) [] v.toNat)
  rw [writePlain_xlt] at hringq
  refine ⟨u, ?_, htoks, ?_, fun r hr h0 k hk heq => hringq r hr k hk ⟨h0, heq⟩⟩
  · rw [exec_faultRingDisable hv hm, writeRingBase_disable hv, hu, done_eq]
  · refine (flag_congr _ ?_).trans ((flag_writePlain_ringEn s (s.secureVia via) 0 v).trans (by rw [hv]; rfl))
    rw [State.reg, hregs]
    rfl

/-! ## A record is written to host memory (R63, R64, R473) -/

theorem msix_regs (s : State) (head vec : Nat) : (s.msix head vec).regs = s.regs := by
  simp only [State.msix]
  split_ifs <;> rfl

theorem msix_hostWr (s : State) (head vec : Nat) : (s.msix head vec).out.hostWr = s.out.hostWr := by
  simp only [State.msix]
  split_ifs <;> rfl

/-- The bytes of a ring's record that go last. -/
def phaseMask (k : Nat) : Nat := rangeMask (phaseWord k).1 ((phaseWord k).2 - (phaseWord k).1)

/-- A record goes to its ring in host memory, and the token that waited for it has its record. -/
def State.sendRecord (s : State) (r : RingRec) : State :=
  ({ s with xlt := { s.xlt with
      toks := s.xlt.toks.map fun t => if r.tok ≠ 0 ∧ t.tok = r.tok then { t with written := true } else t } } : State).hostRecord
    (s.fld (ringBase r.ring) Reg.XLT_FQ_BASE_HEAD) (s.ringSlot r.ring) (2 ^ 32 - 1) (phaseMask r.ring) (s.ringBytes r)

theorem ringWrite_host {s : State} {r : RingRec} (halert : r.alert = false)
    (hhost : s.flag (ringBase r.ring) Reg.XLT_FQ_BASE_HOSTMEM = true)
    (hdma : s.canDma (s.fld (ringBase r.ring) Reg.XLT_FQ_BASE_HEAD) = true) :
    s.ringWrite r = some ((s.sendRecord r).ringDone r.ring) := by
  simp only [State.ringWrite, halert, Bool.false_eq_true, if_false]
  exact (if_pos hhost).trans (if_neg (not_not.2 hdma))

/-- The word that holds PHASE goes last. -/
theorem sendRecord_hostWr (s : State) (r : RingRec) : (s.sendRecord r).out.hostWr =
    let h := s.fld (ringBase r.ring) Reg.XLT_FQ_BASE_HEAD
    s.out.hostWr ++ [⟨h, s.ringSlot r.ring, 2 ^ 32 - 1 - phaseMask r.ring, s.ringBytes r, false, true⟩,
      ⟨h, s.ringSlot r.ring, phaseMask r.ring, s.ringBytes r, false, false⟩] := List.append_assoc ..

@[simp] theorem sendRecord_fld (s : State) (r : RingRec) (q : RegId) (f : Fld) : (s.sendRecord r).fld q f = s.fld q f := rfl

@[simp] theorem sendRecord_ringLen (s : State) (r : RingRec) (k : Nat) : (s.sendRecord r).ringLen k = s.ringLen k := by
  simp only [State.ringLen, sendRecord_fld]

/-- A ring's record is written: TAIL advances, the phase may turn, and the vector is raised. -/
theorem ringDone_eq (s : State) {k : Nat} (hk : k < 3) : ∃ b x r head vec, s.ringDone k =
    State.msix { s.setFld (ringPtrs k) Reg.XLT_FQ_PTRS_TAIL ((s.fld (ringPtrs k) Reg.XLT_FQ_PTRS_TAIL + 1) % s.ringLen k) with
      ringBusy := b, xlt := x, ras := r } head vec := by
  simp only [State.ringDone, if_pos hk]
  by_cases h0 : k = 0
  · rw [if_pos h0]
    exact ⟨_, _, _, _, _, rfl⟩
  · rw [if_neg h0]
    by_cases h1 : k = 1
    · rw [if_pos h1]
      exact ⟨_, _, _, _, _, rfl⟩
    · rw [if_neg h1]
      exact ⟨_, _, _, _, _, rfl⟩

theorem ringDone_hostWr (s : State) {k : Nat} (hk : k < 3) : (s.ringDone k).out.hostWr = s.out.hostWr := by
  obtain ⟨b, x, r, head, vec, heq⟩ := ringDone_eq s hk
  rw [heq, msix_hostWr, setFld_out]

theorem ringLen_le (s : State) (k : Nat) : s.ringLen k ≤ 2 ^ 16 :=
  Nat.pow_le_pow_right (by decide) (by omega)

theorem ringDone_tail (s : State) {k : Nat} (hk : k < 3) : (s.ringDone k).fld (ringPtrs k) Reg.XLT_FQ_PTRS_TAIL =
    (s.fld (ringPtrs k) Reg.XLT_FQ_PTRS_TAIL + 1) % s.ringLen k := by
  obtain ⟨b, x, r, head, vec, heq⟩ := ringDone_eq s hk
  have hlt : (s.fld (ringPtrs k) Reg.XLT_FQ_PTRS_TAIL + 1) % s.ringLen k < 2 ^ 16 :=
    Nat.lt_of_lt_of_le (Nat.mod_lt _ (Nat.two_pow_pos _)) (ringLen_le s k)
  rw [heq, State.fld, State.reg, msix_regs]
  exact (fld_setFld_same s _ _ (by decide) (by decide)).trans (Nat.mod_eq_of_lt hlt)

theorem withRingq_out (s : State) (q : List RingRec) : ({ s with ringq := q } : State).out = s.out := rfl

theorem withRingq_fld (s : State) (q : List RingRec) (r : RegId) (f : Fld) :
    ({ s with ringq := q } : State).fld r f = s.fld r f := rfl

/-- The only record due, in an enabled ring with room, is written and waits no longer. -/
theorem pumpRings_single {s t : State} {r : RingRec} (hq : s.ringq = [r]) (h0 : r.ring = 0)
    (hbusy : s.ringBusy.contains 0 = false) (hen : s.flag (ringBase 0) Reg.XLT_FQ_BASE_EN = true)
    (hroom : s.ringRoom 0 = true) (hw : s.ringWrite r = some t) : s.pumpRings = { t with ringq := [] } := by
  have hpump : ringPump 0 s [r] [] = { t with ringq := [] } := by
    simp only [ringPump, h0, hbusy, hen, hroom, hw, ne_eq, not_true_eq_false, Bool.false_eq_true, or_self, if_false]
  simp only [State.pumpRings, hq, List.isEmpty_cons, Bool.false_eq_true, if_false, hpump, ringPump]

theorem exec_faultRecordWaitEnd {tok : BitVec 32} {s : State} {k : FaultTok} (hk : k ∈ s.xlt.toks) (htok : k.tok = tok.toNat)
    (hw : k.written = false) : exec (.faultRecordWaitEnd tok) s = done s s.pumpRings :=
  congrArg (done s) (if_pos (List.any_eq_true.2 ⟨k, hk, by simp [htok, hw]⟩))

/-- The record of the fault ring that waits, when it may go to host memory: its bytes but the phase word, then that word; then
TAIL advances. -/
theorem pumpRings_host {s : State} {r : RingRec} (hq : s.ringq = [r]) (h0 : r.ring = 0) (halert : r.alert = false)
    (hbusy : s.ringBusy.contains 0 = false) (hen : s.flag (ringBase 0) Reg.XLT_FQ_BASE_EN = true)
    (hroom : s.ringRoom 0 = true) (hhost : s.flag (ringBase 0) Reg.XLT_FQ_BASE_HOSTMEM = true)
    (hdma : s.canDma (s.fld (ringBase 0) Reg.XLT_FQ_BASE_HEAD) = true) :
    let h := s.fld (ringBase 0) Reg.XLT_FQ_BASE_HEAD
    s.pumpRings.ringq = [] ∧
      s.pumpRings.out.hostWr = s.out.hostWr ++ [⟨h, s.ringSlot 0, 2 ^ 32 - 1 - phaseMask 0, s.ringBytes r, false, true⟩,
        ⟨h, s.ringSlot 0, phaseMask 0, s.ringBytes r, false, false⟩] ∧
      s.pumpRings.fld (ringPtrs 0) Reg.XLT_FQ_PTRS_TAIL =
        (s.fld (ringPtrs 0) Reg.XLT_FQ_PTRS_TAIL + 1) % s.ringLen 0 := by
  have hwrite := ringWrite_host (s := s) (r := r) halert (h0 ▸ hhost) (h0 ▸ hdma)
  have hwr := sendRecord_hostWr s r
  rw [h0] at hwrite hwr
  rw [pumpRings_single hq h0 hbusy hen hroom hwrite]
  refine ⟨rfl, ?_, ?_⟩
  · rw [withRingq_out, ringDone_hostWr _ (by decide), hwr]
  · rw [withRingq_fld, ringDone_tail _ (by decide), sendRecord_fld, sendRecord_ringLen]

/-- Settles O32: an enable restarts its ring, a disable of the fault ring retires its tokens, and a waiting record for host
memory is written as soon as it may be. -/
theorem recordRings : Obligations.RecordRings := by
  refine ⟨fun via v s _ hv c hc hm hwas => ?_, fun via v s hv hm => faultRingDisable_retires hv hm,
    fun tok s k r _ hk htok hwait hq h0 halert hbusy hen hroom hhost => ?_⟩
  · refine ⟨_, (exec_ringEnable hv c hc hm).trans (done_eq ..), ?_⟩
    simp only [State.flag, settle_fld, settle_reg, settle_ringPhase]
    exact writeRingBase_restarts hv hwas
  · intro h hdma
    refine ⟨_, (exec_faultRecordWaitEnd hk htok hwait).trans (done_eq ..), ?_⟩
    rw [settle_ringq, settle_out, settle_fld]
    exact pumpRings_host hq h0 halert hbusy hen hroom hhost hdma

end Sys2Proof.Machine
end

section
/-! SUPPORT. Rules about queues (04): which registers are apart from `Q_STATE_q`, what a queue holds, doorbells (R120, R121),
stopping (R145), descriptors that are to end (R135, R146), and steep-cache lines dropped (R116, R165). -/

namespace Sys2Proof.Machine

/-! ## Which registers are apart -/

/-- A register whose place among a queue's eight words is not that of `Q_STATE_q` is no `Q_STATE_q`. -/
theorem ne_qState_of_mod {r : RegId} (h : r.off % 64 ≠ 24) (q : Nat) : r.off ≠ (Reg.Q_STATE q).off := by
  simp only [Reg.Q_STATE]; omega

theorem qCfg_ne_qState (k q : Nat) : (Reg.Q_CFG k).off ≠ (Reg.Q_STATE q).off :=
  ne_qState_of_mod (by simp only [Reg.Q_CFG]; omega) q

theorem qIrq_ne_qState (k q : Nat) : (Reg.Q_IRQ k).off ≠ (Reg.Q_STATE q).off :=
  ne_qState_of_mod (by simp only [Reg.Q_IRQ]; omega) q

/-! ## What a queue holds -/

@[simp] theorem queue_setQueue_same (s : State) (q : Nat) (x : QueueState) : (s.setQueue q x).queue q = x :=
  SMap.get_set_same ..

@[simp] theorem setFld_queue (s : State) (r : RegId) (f : Fld) (v q : Nat) : (s.setFld r f v).queue q = s.queue q := by
  rw [State.queue, setFld_queues, State.queue]

@[simp] theorem settle_queue (s t : State) (q : Nat) : (settle s t).queue q = t.queue q := by
  rw [State.queue, settle_queues, State.queue]

@[simp] theorem setFld_steepOf (s : State) (r : RegId) (f : Fld) (v : Nat) (e : Eng) :
    (s.setFld r f v).steepOf e = s.steepOf e := by rw [State.steepOf, setFld_steep, State.steepOf]

theorem done_setQueue {s : State} (hs : s.Quiet) (q : Nat) (x : QueueState) :
    done s (s.setQueue q x) = .next (s.setQueue q x) := done_of_quiet hs rfl rfl rfl rfl rfl

/-! ## Doorbells -/

theorem takeDoorbell_of_lt {s : State} {q v : Nat} {cq : Bool} (h : v % 2 ^ 16 < if cq then s.cqLen q else s.sqLen q) :
    s.takeDoorbell q cq v = (s.setQueue q (if cq then { s.queue q with cqHead := v % 2 ^ 16 }
      else { s.queue q with dbTail := v % 2 ^ 16 }), true) := by
  rw [State.takeDoorbell, if_neg (Nat.not_le.2 h)]
  cases cq <;> rfl

theorem takeDoorbell_of_ge {s : State} {q v : Nat} {cq : Bool} (h : (if cq then s.cqLen q else s.sqLen q) ≤ v % 2 ^ 16) :
    s.takeDoorbell q cq v = (s.setFld (Reg.Q_STATE q) Reg.Q_STATE_DB_RANGE 1, false) := by
  rw [State.takeDoorbell, if_pos h]

/-! ## Stopping (R145) -/

theorem stopQueue_onlyReg (s : State) (q cause status : Nat) : s.OnlyReg (s.stopQueue q cause status) (Reg.Q_STATE q) := by
  unfold State.stopQueue
  dsimp only
  split
  · exact ⟨⟨_, rfl⟩, fun _ _ => rfl⟩
  · exact ((setFld_onlyReg ..).trans (setFld_onlyReg ..)).trans (setFld_onlyReg ..)

/-- A RUNNING queue stops with a cause and a status. -/
theorem stopQueue_running {s : State} {q : Nat} (h : s.qState q = 1) {cause status : Nat} (hc : cause < 16) (hst : status < 256) :
    (s.stopQueue q cause status).qState q = 2 ∧
    (s.stopQueue q cause status).fld (Reg.Q_STATE q) Reg.Q_STATE_STOP_CAUSE = cause ∧
    (s.stopQueue q cause status).fld (Reg.Q_STATE q) Reg.Q_STATE_STOP_STATUS = status := by
  have hstop : s.stopQueue q cause status = ((s.setFld (Reg.Q_STATE q) Reg.Q_STATE_STATE 2).setFld (Reg.Q_STATE q)
      Reg.Q_STATE_STOP_CAUSE cause).setFld (Reg.Q_STATE q) Reg.Q_STATE_STOP_STATUS status := if_neg (not_not.2 h)
  simp (disch := decide) only [hstop, State.qState, fld_setFld_same, fld_setFld_field]
  exact ⟨rfl, Nat.mod_eq_of_lt hc, Nat.mod_eq_of_lt hst⟩

/-! ## Tasks that are to end (R135, R146) -/

theorem killTask_onlyTasks (s : State) (id : Nat) (st : Status) : ∃ m, s.killTask id st = { s with tasks := m } := by
  unfold State.killTask
  repeat' split
  all_goals exact ⟨_, rfl⟩

theorem foldl_killTask_onlyTasks (l : List (Nat × Task)) (st : Status) (s : State) :
    ∃ m, l.foldl (fun x d => x.killTask d.1 st) s = { s with tasks := m } := by
  refine List.foldlRecOn (motive := fun t : State => ∃ m, t = { s with tasks := m }) _ _ ⟨s.tasks, rfl⟩ fun t ht d _ => ?_
  obtain ⟨m, rfl⟩ := ht
  exact killTask_onlyTasks ..

/-- A task that is under way and is to end by nothing else yet. -/
theorem killTask_of_find {s : State} {id : Nat} {t : Task} (h : SMap.find s.tasks id = some t) (hfin : t.fin = none)
    (hend : t.ending = none) (hkill : t.kill = none) (st : Status) :
    s.killTask id st = s.setTask id { t with kill := some st } := by
  simp [State.killTask, h, hfin, hend, hkill]

/-! ## Steep-cache lines dropped (R116, R165) -/

/-- No line of an engine's steep cache passes a test. -/
def State.NoSteep (s : State) (p : SteepLine → Bool) (e : Eng) : Prop := ∀ x ∈ s.steepOf e, p x = false

/-- One engine's steep cache without the lines that pass a test. -/
def State.dropSteep (s : State) (p : SteepLine → Bool) (e : Eng) : State :=
  s.setSteep e ((s.steepOf e).filter fun x => !p x)

theorem steepOf_setSteep_same (s : State) (e : Eng) (l : List SteepLine) : (s.setSteep e l).steepOf e = l :=
  SMap.get_set_same ..

theorem dropSteep_noSteep (s : State) (p : SteepLine → Bool) (e : Eng) : (s.dropSteep p e).NoSteep p e := by
  intro x hx
  rw [State.dropSteep, steepOf_setSteep_same] at hx
  simpa using (List.mem_filter.1 hx).2

theorem State.NoSteep.dropSteep {s : State} {p : SteepLine → Bool} {e : Eng} (h : s.NoSteep p e) (k : Eng) :
    (s.dropSteep p k).NoSteep p e := by
  by_cases hk : e.key = k.key
  · have hsame : (s.dropSteep p k).steepOf e = (s.dropSteep p k).steepOf k := by rw [State.steepOf, State.steepOf, hk]
    rw [State.NoSteep, hsame]
    exact dropSteep_noSteep s p k
  · have hother : (s.dropSteep p k).steepOf e = s.steepOf e := SMap.get_set_other _ _ _ _ hk
    rwa [State.NoSteep, hother]

theorem foldl_dropSteep_noSteep {l : List Eng} {e : Eng} (he : e ∈ l) (p : SteepLine → Bool) (s : State) :
    (l.foldl (fun s k => s.dropSteep p k) s).NoSteep p e := by
  induction l generalizing s with
  | nil => cases he
  | cons k l ih =>
    by_cases hel : e ∈ l
    · exact ih hel _
    · obtain rfl := (List.mem_cons.1 he).resolve_right hel
      exact List.foldlRecOn (motive := fun t : State => t.NoSteep p e) l _ (dropSteep_noSteep s p e) fun t ht j _ => ht.dropSteep j

theorem mem_steepEngines {e : Eng} (h : engHasSteep e = true) : e ∈ engines .newt ++ engines .kettle := by
  obtain ⟨k, i⟩ := e
  have hmem : (⟨k, i⟩ : Eng) ∈ engines k := List.mem_map_of_mem (List.mem_finRange i)
  have hk : k = .newt ∨ k = .kettle := by simpa [engHasSteep] using h
  rcases hk with rfl | rfl
  · exact List.mem_append_left _ hmem
  · exact List.mem_append_right _ hmem

/-- After a discard no engine's steep cache holds a line that it names. -/
theorem discardSteep_noSteep (s : State) (p : SteepLine → Bool) {e : Eng} (he : engHasSteep e = true) :
    (s.discardSteep fun _ => p).NoSteep p e :=
  foldl_dropSteep_noSteep (mem_steepEngines he) p s

theorem discardSteep_onlySteep (s : State) (p : Eng → SteepLine → Bool) : ∃ m, s.discardSteep p = { s with steep := m } := by
  unfold State.discardSteep
  refine List.foldlRecOn (motive := fun t : State => ∃ m, t = { s with steep := m }) _ _ ⟨s.steep, rfl⟩ fun t ht e _ => ?_
  obtain ⟨m, rfl⟩ := ht
  exact ⟨_, rfl⟩

theorem discardSteep_queue (s : State) (p : Eng → SteepLine → Bool) (q : Nat) : (s.discardSteep p).queue q = s.queue q := by
  obtain ⟨m, hm⟩ := discardSteep_onlySteep s p
  rw [hm, State.queue, State.queue]

/-- A line that is not of a queue's own, though under its tag, is of a subrequest. -/
theorem sub_of_noSteep {s : State} {q : Nat} {e : Eng} (h : s.NoSteep (ofQueue q) e) :
    ∀ x ∈ s.steepOf e, x.tag = q → x.sub = true := by
  intro x hx htag
  simpa [ofQueue, htag] using h x hx

end Sys2Proof.Machine
end

section
/-! O14: doorbells through BAR2 (R120 to R122). -/

namespace Sys2Proof.Machine

theorem bar2Doorbell_refused {s : State} {h : Fin 4} {q : Nat} (hs : s.served (.head h) = true) (hr : s.refusesBar2 h q = true)
    (cq : Bool) (v : Word) : s.bar2Doorbell h q cq v = s.dropDoorbell q := by
  simp [State.bar2Doorbell, hs, hr]

theorem bar2Doorbell_taken {s : State} {h : Fin 4} {q : Nat} (hs : s.served (.head h) = true) (hr : s.refusesBar2 h q = false)
    (cq : Bool) (v : Word) : s.bar2Doorbell h q cq v = (s.takeDoorbell q cq v.toNat).1 := by
  simp [State.bar2Doorbell, hs, hr]

/-- Setting a flag of a register is all that a command does. -/
theorem done_setFld_flag {s : State} (hs : s.Quiet) (r : RegId) {f : Fld} (hf : f.lo ≤ f.hi) (hw : f.hi < 64) :
    ∃ t, done s (s.setFld r f 1) = .next t ∧ s.OnlyReg t r ∧ t.fld r f = 1 :=
  ⟨_, done_of_onlyReg hs (setFld_onlyReg ..), setFld_onlyReg .., by
    rw [fld_setFld_same s r 1 hf hw]
    exact Nat.mod_eq_of_lt (Nat.one_lt_two_pow (by omega))⟩

theorem bar2Doorbell_outOfRange {s : State} {h : Fin 4} {q : Nat} {v : Word} {cq : Bool} (hq : s.Quiet)
    (hs : s.served (.head h) = true) (hr : s.refusesBar2 h q = false)
    (hx : (if cq then s.cqLen q else s.sqLen q) ≤ v.toNat % 2 ^ 16) :
    ∃ t, done s (s.bar2Doorbell h q cq v) = .next t ∧ s.OnlyReg t (Reg.Q_STATE q) ∧
      t.fld (Reg.Q_STATE q) Reg.Q_STATE_DB_RANGE = 1 := by
  rw [bar2Doorbell_taken hs hr, takeDoorbell_of_ge hx]
  exact done_setFld_flag hq _ (by decide) (by decide)

theorem bar2Doorbell_inRange {s : State} {h : Fin 4} {q : Nat} {v : Word} {cq : Bool} (hq : s.Quiet)
    (hs : s.served (.head h) = true) (hr : s.refusesBar2 h q = false)
    (hx : v.toNat % 2 ^ 16 < if cq then s.cqLen q else s.sqLen q) :
    done s (s.bar2Doorbell h q cq v) = .next (s.setQueue q (if cq then { s.queue q with cqHead := v.toNat % 2 ^ 16 }
      else { s.queue q with dbTail := v.toNat % 2 ^ 16 })) := by
  rw [bar2Doorbell_taken hs hr, takeDoorbell_of_lt hx]
  exact done_setQueue hq q _

/-- Settles O14: one rule for a refused doorbell, one for each side of the ring's length, for both rings. -/
theorem queueDoorbells : Obligations.QueueDoorbells := by
  intro h q v s hq hs
  refine ⟨fun hr => ?_, fun hr => ⟨fun hx => ?_, fun hx => ?_, fun hx => ?_, fun hx => ?_⟩⟩
  · obtain ⟨t, ht, honly, hdrop⟩ := done_setFld_flag hq (Reg.Q_STATE q.val) (f := Reg.Q_STATE_DB_DROP) (by decide) (by decide)
    have heq : ∀ cq, done s (s.bar2Doorbell h q.val cq v) = .next t := fun cq => by
      rw [bar2Doorbell_refused hs hr, State.dropDoorbell, ht]
    exact ⟨t, heq false, heq true, honly, hdrop⟩
  · exact bar2Doorbell_inRange (cq := false) hq hs hr hx
  · exact bar2Doorbell_inRange (cq := true) hq hs hr hx
  · exact bar2Doorbell_outOfRange (cq := false) hq hs hr hx
  · exact bar2Doorbell_outOfRange (cq := true) hq hs hr hx

end Sys2Proof.Machine
end

section
/-! O15: a queue is enabled (R115) and disabled (R116). -/

namespace Sys2Proof.Machine

/-! ## Enabling -/

theorem exec_queueEnable {via : Via} {q : Fin 4096} {v : Word} {s : State} (hm : s.mayWrite via (Reg.Q_CFG q.val).off = true)
    (hv : Reg.Q_CFG_EN.get v.toNat = 1) : exec (.queueEnable via q v) s = done s (s.writeQCfg via q.val v) :=
  congrArg (done s) (if_pos ⟨hm, hv⟩)

theorem writeQCfg_enable {s : State} {via : Via} {q : Nat} {v : Word} (h : s.qState q = 0) (hv : Reg.Q_CFG_EN.get v.toNat = 1) :
    s.writeQCfg via q v = (s.writePlain (s.secureVia via) (Reg.Q_CFG q) [Reg.Q_CFG_EN] v.toNat).enableQueue q := by
  rw [State.writeQCfg, if_pos h, if_pos (show newFld Reg.Q_CFG_EN v = 1 from hv)]

/-- An enabled queue runs from the start of its rings. -/
def State.QueueRuns (t : State) (q : Nat) : Prop :=
  t.queue q = {} ∧ t.flag (Reg.Q_CFG q) Reg.Q_CFG_EN = true ∧ t.qState q = 1 ∧
  t.fld (Reg.Q_STATE q) Reg.Q_STATE_SQ_HEAD = 0 ∧ t.fld (Reg.Q_STATE q) Reg.Q_STATE_CQ_TAIL = 0 ∧
  t.fld (Reg.Q_STATE q) Reg.Q_STATE_STOP_CAUSE = 0 ∧ t.fld (Reg.Q_STATE q) Reg.Q_STATE_STOP_STATUS = 0

/-- A queue that was not permitted to be enabled. -/
def State.QueueRefused (t : State) (q : Nat) : Prop :=
  t.qState q = 0 ∧ t.fld (Reg.Q_STATE q) Reg.Q_STATE_STOP_CAUSE = 6

theorem State.QueueRuns.settle {u : State} {q : Nat} (h : u.QueueRuns q) (s : State) : (settle s u).QueueRuns q := h

theorem State.QueueRefused.settle {u : State} {q : Nat} (h : u.QueueRefused q) (s : State) : (settle s u).QueueRefused q := h

theorem enableQueue_runs {s : State} {q : Nat} (h : s.mayEnable q = true) : (s.enableQueue q).QueueRuns q := by
  simp only [State.QueueRuns, State.enableQueue, h, if_true, State.flag, State.qState]
  simp (disch := decide) only [setFld_queue, queue_setQueue_same, fld_setFld_other _ _ _ _ (qCfg_ne_qState q q), setQueue_fld,
    fld_setFld_same, fld_setFld_field]
  decide

theorem enableQueue_refused {s : State} {q : Nat} (h : s.mayEnable q = false) (hs : s.qState q = 0) :
    (s.enableQueue q).QueueRefused q := by
  simp only [State.QueueRefused, State.enableQueue, h, Bool.false_eq_true, if_false, State.qState]
  simp (disch := decide) only [fld_setFld_same, fld_setFld_field]
  exact ⟨hs, rfl⟩

/-! ## Disabling -/

theorem exec_queueDisable {via : Via} {q : Fin 4096} {v : Word} {s : State} (hm : s.mayWrite via (Reg.Q_CFG q.val).off = true)
    (hv : Reg.Q_CFG_EN.get v.toNat = 0) : exec (.queueDisable via q v) s = done s (s.writeQCfg via q.val v) :=
  congrArg (done s) (if_pos ⟨hm, hv⟩)

theorem writeQCfg_disable {s : State} {via : Via} {q : Nat} {v : Word} (h : s.qState q = 3) (hv : Reg.Q_CFG_EN.get v.toNat = 0) :
    s.writeQCfg via q v = s.disableQueue q := by
  rw [State.writeQCfg, if_neg (by simp [h]), if_pos ⟨show newFld Reg.Q_CFG_EN v = 0 from hv, h⟩]

/-- A queue that is DISABLED holds nothing fetched and shows no flag. -/
def State.QueueCleared (t : State) (q : Nat) : Prop :=
  t.queue q = {} ∧ t.flag (Reg.Q_CFG q) Reg.Q_CFG_EN = false ∧ t.qState q = 0 ∧
  t.fld (Reg.Q_STATE q) Reg.Q_STATE_DB_DROP = 0 ∧ t.fld (Reg.Q_STATE q) Reg.Q_STATE_DB_RANGE = 0 ∧
  t.fld (Reg.Q_STATE q) Reg.Q_STATE_CQ_STALL = 0

theorem State.QueueCleared.congr {s t : State} {q : Nat} (h : s.QueueCleared q) (hq : t.queue q = s.queue q)
    (hr : ∀ r, t.reg r = s.reg r) : t.QueueCleared q := by
  obtain ⟨hqueue, hen, hstate, hdrop, hrange, hstall⟩ := h
  exact ⟨hq.trans hqueue, (flag_congr _ (hr _)).trans hen, (fld_congr _ (hr _)).trans hstate,
    (fld_congr _ (hr _)).trans hdrop, (fld_congr _ (hr _)).trans hrange, (fld_congr _ (hr _)).trans hstall⟩

/-- The words of a queue that is made DISABLED, before its steep-cache lines go. -/
def State.clearQueue (s : State) (q : Nat) : State :=
  (((((s.setFld (Reg.Q_CFG q) Reg.Q_CFG_EN 0).setQueue q {}).setFld (Reg.Q_STATE q) Reg.Q_STATE_STATE 0).setFld (Reg.Q_STATE q)
    Reg.Q_STATE_DB_DROP 0).setFld (Reg.Q_STATE q) Reg.Q_STATE_DB_RANGE 0).setFld (Reg.Q_STATE q) Reg.Q_STATE_CQ_STALL 0

theorem clearQueue_cleared (s : State) (q : Nat) : (s.clearQueue q).QueueCleared q := by
  simp only [State.QueueCleared, State.clearQueue, State.flag, State.qState]
  simp (disch := decide) only [setFld_queue, queue_setQueue_same, fld_setFld_other _ _ _ _ (qCfg_ne_qState q q), setQueue_fld,
    fld_setFld_same, fld_setFld_field]
  decide

/-- The steep-cache lines that pass a test are dropped, and the marks of engines that may have been overtaken (R165) replaced. -/
def State.withoutLines (s : State) (p : SteepLine → Bool) (x : SMap Nat) : State := { s.discardSteep fun _ => p with mixed := x }

theorem withoutLines_eq (s : State) (p : SteepLine → Bool) (x : SMap Nat) :
    ∃ m, s.withoutLines p x = { s with steep := m, mixed := x } := by
  obtain ⟨m, hm⟩ := discardSteep_onlySteep s fun _ => p
  exact ⟨m, by rw [State.withoutLines, hm]⟩

theorem withoutLines_queue (s : State) (p : SteepLine → Bool) (x : SMap Nat) (q : Nat) :
    (s.withoutLines p x).queue q = s.queue q := by
  obtain ⟨m, hm⟩ := withoutLines_eq s p x
  rw [hm, State.queue, State.queue]

theorem withoutLines_reg (s : State) (p : SteepLine → Bool) (x : SMap Nat) (r : RegId) :
    (s.withoutLines p x).reg r = s.reg r := by
  obtain ⟨m, hm⟩ := withoutLines_eq s p x
  rw [hm, State.reg, State.reg]

theorem withoutLines_noSteep (s : State) (p : SteepLine → Bool) (x : SMap Nat) {e : Eng} (he : engHasSteep e = true) :
    (s.withoutLines p x).NoSteep p e := by
  obtain ⟨m, hm⟩ := discardSteep_onlySteep s fun _ => p
  have hdrop := discardSteep_noSteep s p he
  rw [hm] at hdrop
  rw [State.withoutLines, hm]
  exact hdrop

/-- A DISABLED queue without steep-cache lines of its own. -/
def State.QueueDisabled (t : State) (q : Nat) : Prop :=
  t.QueueCleared q ∧ ∀ e : Eng, engHasSteep e = true → t.NoSteep (ofQueue q) e

theorem State.QueueDisabled.settle {u : State} {q : Nat} (h : u.QueueDisabled q) (s : State) : (settle s u).QueueDisabled q := h

theorem disableQueue_eq (s : State) (q : Nat) :
    s.disableQueue q = (s.clearQueue q).withoutLines (ofQueue q) (SMap.del (s.clearQueue q).mixed q) := rfl

theorem disableQueue_disabled (s : State) (q : Nat) : (s.disableQueue q).QueueDisabled q := by
  rw [disableQueue_eq]
  exact ⟨(clearQueue_cleared s q).congr (withoutLines_queue ..) fun r => withoutLines_reg _ _ _ r,
    fun e he => withoutLines_noSteep _ _ _ he⟩

/-- Settles O15: a write of EN enables or disables the queue, and each leaves the words that `QueueRuns`, `QueueRefused` and
`QueueDisabled` name. -/
theorem queueEnableAndDisable : Obligations.QueueEnableAndDisable := by
  refine ⟨fun via q v s hm hs hv => ?_, fun via q v s hm hs hv => ?_⟩
  · refine ⟨_, (exec_queueEnable hm hv).trans (done_eq ..), ?_⟩
    rw [writeQCfg_enable hs hv]
    split
    · next hmay => exact (enableQueue_runs hmay).settle s
    · next hmay =>
      have hplain := fld_congr Reg.Q_STATE_STATE (reg_writePlain_other s (s.secureVia via) (r := Reg.Q_CFG q.val)
        [Reg.Q_CFG_EN] v.toNat (qCfg_ne_qState q.val q.val).symm)
      exact (enableQueue_refused (Bool.eq_false_of_not_eq_true hmay) (hplain.trans hs)).settle s
  · refine ⟨_, (exec_queueDisable hm hv).trans (done_eq ..), ?_⟩
    rw [writeQCfg_disable hs hv]
    obtain ⟨⟨hqueue, hen, hstate, hdrop, hrange, hstall⟩, hsteep⟩ := (disableQueue_disabled s q.val).settle s
    exact ⟨hqueue, hen, hstate, hdrop, hrange, hstall, fun e he => sub_of_noSteep (hsteep e he)⟩

end Sys2Proof.Machine
end

section
/-! O16: a queue is aborted (R146), resumed (R148) and STOPPED (R147). -/

namespace Sys2Proof.Machine

/-! ## ABORT (R146, R148) -/

theorem exec_abort {via : Via} {q : Fin 4096} {s : State} (hm : s.mayWrite via (Reg.Q_CTL q.val).off = true) :
    exec (.abort via q) s = done s (s.abortQueue q.val) :=
  congrArg (done s) ((if_pos hm).trans (show s.writeQCtl q.val 1 = s.abortQueue q.val by
    rw [State.writeQCtl, if_neg (by decide), if_pos (by decide)]))

theorem descsOf_congr {s t : State} (h : t.tasks = s.tasks) (q : Nat) : t.descsOf q = s.descsOf q := by
  rw [State.descsOf, h, State.descsOf]

theorem abortQueue_running {s : State} {q : Nat} (h : s.qState q = 1) : s.abortQueue q =
    ((s.descsOf q).foldl (fun x d => x.killTask d.1 .aborted) (s.stopQueue q 4 0)).go := by
  rw [State.abortQueue, if_pos h, State.killQueue, descsOf_congr (stopQueue_onlyReg ..).tasks]

theorem foldl_killTask_reg (l : List (Nat × Task)) (st : Status) (s : State) (r : RegId) :
    (l.foldl (fun x d => x.killTask d.1 st) s).reg r = s.reg r := by
  obtain ⟨m, hm⟩ := foldl_killTask_onlyTasks l st s
  rw [hm, reg_withTasks]

/-! ## RESUME (R148) -/

theorem exec_resume {via : Via} {q : Fin 4096} {s : State} (hm : s.mayWrite via (Reg.Q_CTL q.val).off = true) :
    exec (.resume via q) s = done s (s.resumeQueue q.val) :=
  congrArg (done s) ((if_pos hm).trans (show s.writeQCtl q.val 2 = s.resumeQueue q.val by
    rw [State.writeQCtl, if_pos (by decide), if_neg (by decide)]))

theorem resumeQueue_stopped {s : State} {q : Nat} (h : s.qState q = 3) : s.resumeQueue q =
    ((s.setFld (Reg.Q_STATE q) Reg.Q_STATE_STOP_CAUSE 0).setFld (Reg.Q_STATE q) Reg.Q_STATE_STOP_STATUS 0).setFld
      (Reg.Q_STATE q) Reg.Q_STATE_STATE 1 := if_pos h

theorem resumeQueue_onlyReg {s : State} {q : Nat} (h : s.qState q = 3) : s.OnlyReg (s.resumeQueue q) (Reg.Q_STATE q) := by
  rw [resumeQueue_stopped h]
  exact ((setFld_onlyReg ..).trans (setFld_onlyReg ..)).trans (setFld_onlyReg ..)

theorem resumeQueue_runs {s : State} {q : Nat} (h : s.qState q = 3) :
    (s.resumeQueue q).qState q = 1 ∧ (s.resumeQueue q).fld (Reg.Q_STATE q) Reg.Q_STATE_STOP_CAUSE = 0 ∧
    (s.resumeQueue q).fld (Reg.Q_STATE q) Reg.Q_STATE_STOP_STATUS = 0 ∧
    (s.resumeQueue q).fld (Reg.Q_STATE q) Reg.Q_STATE_SQ_HEAD = s.fld (Reg.Q_STATE q) Reg.Q_STATE_SQ_HEAD := by
  simp (disch := decide) only [resumeQueue_stopped h, State.qState, fld_setFld_same, fld_setFld_field]
  decide

/-! ## QUEUE_STOPPED (R147) -/

/-- The steep-cache lines that a queue loses as it becomes STOPPED: its own, after containment. -/
def State.stopSteep (s : State) (q : Nat) : State :=
  if s.fld (Reg.Q_STATE q) Reg.Q_STATE_STOP_CAUSE = 5 then s.discardSteep fun _ => ofQueue q else s

/-- A queue with nothing left to end has lost the steep-cache lines that it loses, and all else is as it was. -/
def State.Drained (s u : State) (q : Nat) : Prop :=
  (∃ x y, u = { s with queues := x, steep := y }) ∧ u.queue q = s.queue q ∧
  (s.fld (Reg.Q_STATE q) Reg.Q_STATE_STOP_CAUSE ≠ 5 → u.steep = s.steep) ∧
  (s.fld (Reg.Q_STATE q) Reg.Q_STATE_STOP_CAUSE = 5 → ∀ e : Eng, engHasSteep e = true → u.NoSteep (ofQueue q) e)

theorem stopSteep_drained (s : State) (q : Nat) : s.Drained ((s.setQueue q (s.queue q)).stopSteep q) q := by
  have hqueue : (s.setQueue q (s.queue q)).queue q = s.queue q := queue_setQueue_same ..
  by_cases h : s.fld (Reg.Q_STATE q) Reg.Q_STATE_STOP_CAUSE = 5
  · rw [State.stopSteep, if_pos (by rwa [setQueue_fld])]
    obtain ⟨m, hm⟩ := discardSteep_onlySteep (s.setQueue q (s.queue q)) fun _ => ofQueue q
    exact ⟨⟨_, m, hm⟩, (discardSteep_queue ..).trans hqueue, fun hne => absurd h hne,
      fun _ e he => discardSteep_noSteep _ _ he⟩
  · rw [State.stopSteep, if_neg (by rwa [setQueue_fld])]
    exact ⟨⟨_, _, rfl⟩, hqueue, fun _ => rfl, fun h5 => absurd h5 h⟩

/-- A queue with nothing started, fetched or due, and without an interrupt, only changes STATE and loses those lines. -/
theorem finishStop_drained {s : State} {q : Nat} (hstate : s.qState q = 2) (hdescs : s.descsOf q = [])
    (hfetching : (s.queue q).fetching = false) (hfetched : (s.queue q).fetched = []) (hdue : (s.queue q).due = [])
    (hirq : s.flag (Reg.Q_IRQ q) Reg.Q_IRQ_EN = false) :
    ∃ u, s.Drained u q ∧ s.finishStop q = u.setFld (Reg.Q_STATE q) Reg.Q_STATE_STATE 3 := by
  have hguard : ¬ (s.qState q ≠ 2 ∨ s.descsOf q ≠ [] ∨ (s.queue q).fetching = true) := by simp [hstate, hdescs, hfetching]
  have hqueue : { s.queue q with fetched := [], due := [] } = s.queue q := by rw [← hfetched, ← hdue]
  have hdrained := stopSteep_drained s q
  refine ⟨_, hdrained, ?_⟩
  simp only [State.finishStop, if_neg hguard, hfetched, hdue, List.map_nil, ite_self, List.append_nil, hqueue]
  rw [← State.stopSteep]
  generalize (s.setQueue q (s.queue q)).stopSteep q = u at hdrained
  obtain ⟨⟨x, y, rfl⟩, hq, -⟩ := hdrained
  have hirq' : ¬ (({ s with queues := x, steep := y } : State).setFld (Reg.Q_STATE q) Reg.Q_STATE_STATE 3).flag (Reg.Q_IRQ q)
      Reg.Q_IRQ_EN = true := by
    rw [flag_congr _ (reg_setFld_other _ _ _ (qIrq_ne_qState q q)), Bool.not_eq_true]
    exact hirq
  rw [if_pos (by rw [hq, hdue]), if_neg fun h => hirq' h.1]

/-- What an ABORT leaves of a RUNNING queue (R146). -/
theorem abort_stops {via : Via} {q : Fin 4096} {s : State} (hm : s.mayWrite via (Reg.Q_CTL q.val).off = true)
    (hs : s.qState q.val = 1) : ∃ u : State, exec (.abort via q) s = .next (settle s u.go) ∧
      u = ((s.descsOf q.val).foldl (fun x d => x.killTask d.1 .aborted) (s.stopQueue q.val 4 0)) ∧
      u.qState q.val = 2 ∧ u.fld (Reg.Q_STATE q.val) Reg.Q_STATE_STOP_CAUSE = 4 := by
  obtain ⟨hstate, hcause, -⟩ := stopQueue_running hs (cause := 4) (status := 0) (by decide) (by decide)
  refine ⟨_, ?_, rfl, (fld_congr _ (foldl_killTask_reg ..)).trans hstate, (fld_congr _ (foldl_killTask_reg ..)).trans hcause⟩
  rw [exec_abort hm, abortQueue_running hs, done_eq]

theorem resume_runs {via : Via} {q : Fin 4096} {s : State} (hquiet : s.Quiet)
    (hm : s.mayWrite via (Reg.Q_CTL q.val).off = true) (hs : s.qState q.val = 3) :
    exec (.resume via q) s = .next (s.resumeQueue q.val) :=
  (exec_resume hm).trans (done_of_onlyReg hquiet (resumeQueue_onlyReg hs))

/-- Settles O16: each command is one change of the queue's words; ABORT's tasks and QUEUE_STOPPED's lines follow it. -/
theorem queueStopAndResume : Obligations.QueueStopAndResume := by
  refine ⟨fun via q s hm hs => abort_stops hm hs, fun via q s hquiet hm hs => ?_,
    fun q s hquiet hs hdescs hfetching hfetched hdue hirq => ?_⟩
  · exact ⟨_, resume_runs hquiet hm hs, resumeQueue_onlyReg hs, resumeQueue_runs hs⟩
  · obtain ⟨u, ⟨⟨x, y, rfl⟩, hqueue, hkept, hlost⟩, hfinish⟩ := finishStop_drained hs hdescs hfetching hfetched hdue hirq
    have hexec : exec (.queueStopped q) s = done s (s.finishStop q.val) := rfl
    rw [hexec, hfinish]
    refine ⟨_, done_of_quiet hquiet (setFld_pending ..) (setFld_tick ..) (setFld_fixed ..) (setFld_flash ..)
      (setFld_ras ..), ?_, (setFld_queue ..).trans hqueue, fun r hr => ?_, fun h => (setFld_steep ..).trans (hkept h),
      fun h5 e he => ?_, _, _, _, rfl⟩
    · exact (fld_setFld_same _ _ _ (by decide) (by decide)).trans (by decide)
    · exact reg_setFld_other _ _ _ hr
    · rw [setFld_steepOf]
      exact sub_of_noSteep (hlost h5 e he)

end Sys2Proof.Machine
end

section
/-! O17: a slot of a ring in host memory is not asked for while its head has as many reads outstanding as it keeps (R472). -/

namespace Sys2Proof.Machine

theorem exec_slotFetch {q : Fin 4096} {s : State} (h : s.mayFetch q.val = true) :
    exec (.slotFetch q) s = done s (s.fetchSlot q.val) := congrArg (done s) (if_pos h)

/-- A head that has no room for another read (R472) leaves the slot for later. -/
theorem fetchSlot_of_dmaFull {s : State} {q : Nat} (hhost : s.fld (Reg.Q_SQ_BASE q) Reg.Q_SQ_BASE_HOSTMEM = 1)
    (hfull : s.dmaFull (s.fld (Reg.Q_SQ_BASE q) Reg.Q_SQ_BASE_HEAD) = true) : s.fetchSlot q = s := by
  simp only [State.fetchSlot, hhost, hfull, if_true]

theorem exec_slotFetch_of_dmaFull {q : Fin 4096} {s : State} (hs : s.Quiet) (hmay : s.mayFetch q.val = true)
    (hhost : s.fld (Reg.Q_SQ_BASE q.val) Reg.Q_SQ_BASE_HOSTMEM = 1)
    (hfull : s.dmaFull (s.fld (Reg.Q_SQ_BASE q.val) Reg.Q_SQ_BASE_HEAD) = true) : exec (.slotFetch q) s = .next s := by
  rw [exec_slotFetch hmay, fetchSlot_of_dmaFull hhost hfull, done_self hs]

/-- 2 048 reads of host memory outstanding through head 0. -/
def headReads : SMap Dma := (List.range 2048).map fun i => (i, ⟨0, 64 * i, 64, .fetch 4, 0⟩)

/-- A READY module whose queue 5 runs, with one slot submitted to its ring behind head 0, whose host takes reads; all the reads that
head 0 keeps are outstanding. -/
def busyHead : State :=
  { ((((State.reset.setFld Reg.PWR_STAT Reg.PWR_STAT_STATE 1).setFld (Reg.HEAD_STAT 0) Reg.HEAD_STAT_IN_RESET 0).setFld
      (Reg.Q_STATE 5) Reg.Q_STATE_STATE 1).setFld (Reg.Q_SQ_BASE 5) Reg.Q_SQ_BASE_HOSTMEM 1).setQueue 5 { dbTail := 1 } with
    heads := [(0, { bme := true })], dmas := headReads, nextDma := 2048 }

theorem headReads_full : (headReads.filter fun d => decide (d.2.head = 0)).length = 2048 := by
  have hall : headReads.filter (fun d => decide (d.2.head = 0)) = headReads := by
    refine List.filter_eq_self.2 fun d hd => ?_
    obtain ⟨i, -, rfl⟩ := List.mem_map.1 hd
    rfl
  have hlength : headReads.length = 2048 := by simp [headReads]
  rw [hall, hlength]

theorem busyHead_dmaFull :
    busyHead.dmaFull (busyHead.fld (Reg.Q_SQ_BASE (5 : Fin 4096).val) Reg.Q_SQ_BASE_HEAD) = true := by
  have hhead : busyHead.fld (Reg.Q_SQ_BASE (5 : Fin 4096).val) Reg.Q_SQ_BASE_HEAD = 0 := by decide +kernel
  have hdmas : busyHead.dmas = headReads := by simp only [busyHead]
  rw [hhead, State.dmaFull, hdmas, headReads_full]
  decide

/-- Refutes O17: in `busyHead` queue 5 may fetch and head 0 may send requests, but has 2 048 reads outstanding (R472), so that the
slot is not asked for and the queue is not fetching. -/
theorem not_slotFetchReadsOneSlot : ¬ Obligations.SlotFetchReadsOneSlot := by
  intro h
  have hmay : busyHead.mayFetch (5 : Fin 4096).val = true := by decide +kernel
  have hhost : busyHead.fld (Reg.Q_SQ_BASE (5 : Fin 4096).val) Reg.Q_SQ_BASE_HOSTMEM = 1 := by decide +kernel
  have hdma : busyHead.canDma (busyHead.fld (Reg.Q_SQ_BASE (5 : Fin 4096).val) Reg.Q_SQ_BASE_HEAD) = true := by decide +kernel
  have hnot : (busyHead.queue (5 : Fin 4096).val).fetching ≠ true := by decide +kernel
  obtain ⟨t, ht, hfetching, -⟩ := (h 5 busyHead hmay).1 hhost hdma
  rw [exec_slotFetch_of_dmaFull (by decide) hmay hhost busyHead_dmaFull] at ht
  obtain rfl : busyHead = t := by injection ht
  exact hnot hfetching

end Sys2Proof.Machine
end

section
/-! O19: interrupt moderation (R149), MSI-X unmasking (R150) and descriptor deadlines (R135, R296). -/

namespace Sys2Proof.Machine

/-! ## MSI-X messages (R150) -/

theorem msix_queues (s : State) (head vec : Nat) : (s.msix head vec).queues = s.queues := by
  simp only [State.msix]
  split_ifs <;> rfl

theorem msix_tier (s : State) (head vec : Nat) : (s.msix head vec).tier = s.tier := by
  simp only [State.msix]
  split_ifs <;> rfl

theorem msix_tasks (s : State) (head vec : Nat) : (s.msix head vec).tasks = s.tasks := by
  simp only [State.msix]
  split_ifs <;> rfl

/-- An unmasked vector of a head that may send requests is sent. -/
theorem msix_of_unmasked {s : State} {head vec : Nat} (hreset : s.fld (Reg.HEAD_STAT head) Reg.HEAD_STAT_IN_RESET ≠ 1)
    (hun : SMap.get (s.head head).unmasked vec false = true) (hbme : (s.head head).bme = true) :
    s.msix head vec = { s with out := { s.out with msix := s.out.msix ++ [(head, vec)] } } :=
  (if_neg hreset).trans (if_pos (by rw [State.head] at hun hbme; rw [hun, hbme]; rfl))

/-- Raising a vector marks it pending at the most. -/
theorem msix_unmasked (s : State) (head vec : Nat) : ((s.msix head vec).head head).unmasked = (s.head head).unmasked := by
  simp only [State.msix]
  split_ifs
  · rfl
  · rfl
  · rw [State.head, SMap.get_set_same]
    rfl

/-! ## IRQ_TIME_EXPIRY (R149) -/

theorem exec_irqTimeExpiry {q : Fin 4096} {s : State} (hen : s.flag (Reg.Q_IRQ q.val) Reg.Q_IRQ_EN = true)
    (htime : s.fld (Reg.Q_IRQ q.val) Reg.Q_IRQ_TIME ≠ 0) (hun : 0 < (s.queue q.val).unsignalled)
    (hdue : (s.queue q.val).firstAt + 1000 * s.fld (Reg.Q_IRQ q.val) Reg.Q_IRQ_TIME ≤ s.tick) :
    exec (.irqTimeExpiry q) s = done s (s.raiseQueue q.val) := by
  rw [Nat.mul_comm] at hdue
  exact congrArg (done s) (if_pos ⟨hen, htime, hun, hdue⟩)

theorem raiseQueue_eq (s : State) (q : Nat) : s.raiseQueue q = (s.setQueue q { s.queue q with unsignalled := 0 }).msix
    (s.fld (Reg.Q_IRQ q) Reg.Q_IRQ_VEC_HEAD) (s.fld (Reg.Q_IRQ q) Reg.Q_IRQ_VECTOR) := rfl

theorem raiseQueue_regs (s : State) (q : Nat) : (s.raiseQueue q).regs = s.regs := by
  rw [raiseQueue_eq, msix_regs, setQueue_regs]

theorem raiseQueue_queue (s : State) (q : Nat) : (s.raiseQueue q).queue q = { s.queue q with unsignalled := 0 } := by
  rw [raiseQueue_eq, State.queue, msix_queues]
  exact queue_setQueue_same ..

theorem irqTimeExpiry_raises {q : Fin 4096} {s : State} (hen : s.flag (Reg.Q_IRQ q.val) Reg.Q_IRQ_EN = true)
    (htime : s.fld (Reg.Q_IRQ q.val) Reg.Q_IRQ_TIME ≠ 0) (hun : 0 < (s.queue q.val).unsignalled)
    (hdue : (s.queue q.val).firstAt + 1000 * s.fld (Reg.Q_IRQ q.val) Reg.Q_IRQ_TIME ≤ s.tick) :
    let h := s.fld (Reg.Q_IRQ q.val) Reg.Q_IRQ_VEC_HEAD
    let v := s.fld (Reg.Q_IRQ q.val) Reg.Q_IRQ_VECTOR
    ∃ t, exec (.irqTimeExpiry q) s = .next t ∧ (t.queue q.val).unsignalled = 0 ∧ t.regs = s.regs ∧
      (s.fld (Reg.HEAD_STAT h) Reg.HEAD_STAT_IN_RESET ≠ 1 → SMap.get (s.head h).unmasked v false = true →
        (s.head h).bme = true → t.out.msix = s.out.msix ++ [(h, v)]) := by
  intro h v
  refine ⟨_, (exec_irqTimeExpiry hen htime hun hdue).trans (done_eq ..), ?_, raiseQueue_regs .., fun hreset hmask hbme => ?_⟩
  · rw [settle_queue, raiseQueue_queue]
  · rw [settle_out, raiseQueue_eq, msix_of_unmasked (s := s.setQueue q.val _) hreset hmask hbme]
    rfl

/-! ## MSIX_UNMASK (R150) -/

/-- A head with a vector unmasked and no longer pending. -/
def Head.unmask (x : Head) (vec : Nat) : Head :=
  { x with unmasked := SMap.set x.unmasked vec true false, pend := SMap.del x.pend vec }

theorem exec_msixUnmask (h : Fin 4) (vec : Fin 2048) (s : State) : exec (.msixUnmask h vec) s =
    let t := s.setHead h.val ((s.head h.val).unmask vec.val)
    done s (if SMap.get (s.head h.val).pend vec.val false then t.msix h.val vec.val else t) := rfl

@[simp] theorem head_setHead_same (s : State) (h : Nat) (x : Head) : (s.setHead h x).head h = x := SMap.get_set_same ..

@[simp] theorem settle_head (s t : State) (h : Nat) : (settle s t).head h = t.head h := by
  rw [State.head, settle_heads, State.head]

theorem unmask_unmasked (x : Head) (vec : Nat) : SMap.get (x.unmask vec).unmasked vec false = true := by
  rw [Head.unmask, SMap.get_set_same]

theorem unmask_pend (x : Head) (vec : Nat) : SMap.get (x.unmask vec).pend vec false = false := by
  rw [Head.unmask, SMap.get, SMap.find_del_same]
  rfl

theorem msixUnmask_sends (h : Fin 4) (vec : Fin 2048) (s : State) :
    ∃ t, exec (.msixUnmask h vec) s = .next t ∧ t.regs = s.regs ∧
      SMap.get (t.head h.val).unmasked vec.val false = true ∧
      (SMap.get (s.head h.val).pend vec.val false = false → t.out.msix = s.out.msix) ∧
      (SMap.get (s.head h.val).pend vec.val false = true → (s.head h.val).bme = true →
        s.fld (Reg.HEAD_STAT h.val) Reg.HEAD_STAT_IN_RESET ≠ 1 →
        t.out.msix = s.out.msix ++ [(h.val, vec.val)] ∧ SMap.get (t.head h.val).pend vec.val false = false) := by
  have hun := unmask_unmasked (s.head h.val) vec.val
  have hpend := unmask_pend (s.head h.val) vec.val
  have hexec := exec_msixUnmask h vec s
  cases hp : SMap.get (s.head h.val).pend vec.val false with
  | false =>
    refine ⟨_, hexec.trans (done_eq ..), ?_, ?_, fun _ => ?_, fun h' => (nomatch h')⟩
    all_goals simp only [hp, Bool.false_eq_true, if_false]
    · rfl
    · rw [settle_head, head_setHead_same, hun]
    · rfl
  | true =>
    refine ⟨_, hexec.trans (done_eq ..), ?_, ?_, fun h' => (nomatch h'), fun _ hbme hreset => ?_⟩
    all_goals simp only [hp, if_true]
    · rw [settle_regs, msix_regs, setHead_regs]
    · rw [settle_head, msix_unmasked, head_setHead_same, hun]
    · rw [settle_out, settle_head, msix_of_unmasked (by rwa [setHead_fld]) (by rwa [head_setHead_same])
        (by rwa [head_setHead_same])]
      exact ⟨rfl, (congrArg (fun x : Head => SMap.get x.pend vec.val false) (head_setHead_same ..)).trans hpend⟩

/-! ## DEADLINE_EXPIRY (R135, R296) -/

theorem deadlineExpiry_kills {d : DescRef} {s : State} {id : Nat} {t : Task}
    (hd : s.findDesc d (fun t => t.fin.isNone) = some (id, t)) (hfind : SMap.find s.tasks id = some t) (hkill : t.kill = none)
    (hend : t.ending = none) (hdl : dDeadline t.bytes ≠ 0) (hpast : t.start + 1000 * dDeadline t.bytes ≤ s.tick)
    (hat : s.atKettle id = false) :
    exec (.deadlineExpiry d) s = .next (settle s (s.setTask id { t with kill := some .timeout }).go) := by
  have hfin : t.fin = none := by
    have hp := List.find?_some hd
    simp only [Bool.and_eq_true, Option.isNone_iff_eq_none] at hp
    exact hp.1
  rw [Nat.mul_comm] at hpast
  have hexec : exec (.deadlineExpiry d) s = done s (s.killTask id .timeout).go := by
    refine congrArg (done s) ?_
    rw [hd]
    exact if_pos ⟨hdl, by rw [hat]; rfl, hpast⟩
  rw [hexec, killTask_of_find hfind hfin hend hkill, done_eq]

theorem deadlineExpiry_at_kettle {d : DescRef} {s : State} {id : Nat} {t : Task} (hs : s.Quiet)
    (hd : s.findDesc d (fun t => t.fin.isNone) = some (id, t)) (hat : s.atKettle id = true) :
    exec (.deadlineExpiry d) s = .next s := by
  have hexec : exec (.deadlineExpiry d) s = done s s := by
    refine congrArg (done s) ?_
    rw [hd]
    exact if_neg fun h => by simp [hat] at h
  rw [hexec, done_self hs]

/-- Settles O19: one rule for each command, with the two sides of R296 for the deadline. -/
theorem interruptsAndDeadlines : Obligations.InterruptsAndDeadlines :=
  ⟨fun _ _ hen htime hun hdue => irqTimeExpiry_raises hen htime hun hdue, msixUnmask_sends,
    fun _ _ _ _ hd hfind hkill hend hdl hpast =>
      ⟨fun hat => deadlineExpiry_kills hd hfind hkill hend hdl hpast hat, fun hat hs => deadlineExpiry_at_kettle hs hd hat⟩⟩

end Sys2Proof.Machine
end

section
/-! O18: a descriptor completes (R133, R145) and its completion record is written (R137 to R139). -/

namespace Sys2Proof.Machine

/-! ## DESCRIPTOR_COMPLETE (R133, R145) -/

theorem letGo_of_free {s : State} {id : Nat} (hhold : ∀ e ∈ s.tier.pageHold, e.2 ≠ id)
    (hserving : ∀ e ∈ s.tier.serving, e.1 ≠ id) :
    ∃ e, s.letGo id = { s with eng := e } := by
  have hnone : (s.tier.pageHold.any (fun e => decide (e.2 = id)) || s.tier.serving.any fun e => decide (e.1 = id)) = false := by
    simp only [Bool.or_eq_false_iff, List.any_eq_false, decide_eq_true_eq]
    exact ⟨hhold, hserving⟩
  exact ⟨_, if_neg (by rw [hnone]; exact Bool.false_ne_true)⟩

/-- A task that holds neither a page nor a chunk leaves the tokens, sweeps and journal entries it is in. -/
theorem dropTask_of_free {s : State} {id : Nat} (hhold : ∀ e ∈ s.tier.pageHold, e.2 ≠ id)
    (hserving : ∀ e ∈ s.tier.serving, e.1 ≠ id) : ∃ x r e j, s.dropTask id =
      { s with xlt := x, ringq := r, eng := e, tasks := SMap.del s.tasks id, ras := j } := by
  obtain ⟨e, he⟩ := letGo_of_free (s := s.leaveToks id) hhold hserving
  rw [State.dropTask, he]
  exact ⟨_, _, _, _, rfl⟩

/-- The records that an ended descriptor asks for. -/
def State.dueOf (s : State) (q slot : Nat) (half : Bool) (t : Task) (f : Fin_) : List Due :=
  if (dCmpl t.bytes || f.st ≠ .ok) && !(s.queue q).noRecords then
    [⟨slot, half, dOpcode t.bytes, dTag t.bytes, dIrq t.bytes, f⟩] else []

/-- An ended descriptor's record joins those due. -/
def State.recordDue (s : State) (q slot : Nat) (half : Bool) (t : Task) (f : Fin_) : State :=
  if (dCmpl t.bytes || f.st ≠ .ok) && !(s.queue q).noRecords then
    s.setQueue q { s.queue q with due := (s.queue q).due ++ [⟨slot, half, dOpcode t.bytes, dTag t.bytes, dIrq t.bytes, f⟩] }
  else s

theorem recordDue_due (s : State) (q slot : Nat) (half : Bool) (t : Task) (f : Fin_) :
    ((s.recordDue q slot half t f).queue q).due = (s.queue q).due ++ s.dueOf q slot half t f := by
  unfold State.recordDue State.dueOf
  split
  · rw [queue_setQueue_same]
  · rw [List.append_nil]

theorem recordDue_onlyQueues (s : State) (q slot : Nat) (half : Bool) (t : Task) (f : Fin_) :
    ∃ m, s.recordDue q slot half t f = { s with queues := m } := by
  unfold State.recordDue
  split
  · exact ⟨_, rfl⟩
  · exact ⟨_, rfl⟩

/-- An error stops a queue that has STOP_ON_ERR. -/
def State.stopOnErr (s : State) (q : Nat) (f : Fin_) : State :=
  if f.st ≠ .ok && s.flag (Reg.Q_CFG q) Reg.Q_CFG_STOP_ON_ERR then s.stopQueue q 1 f.st.code else s

theorem stopOnErr_onlyReg (s : State) (q : Nat) (f : Fin_) : s.OnlyReg (s.stopOnErr q f) (Reg.Q_STATE q) := by
  unfold State.stopOnErr
  split
  · exact stopQueue_onlyReg ..
  · exact ⟨⟨_, rfl⟩, fun _ _ => rfl⟩

theorem stopOnErr_of_ok {s : State} {q : Nat} {f : Fin_}
    (h : f.st = .ok ∨ s.flag (Reg.Q_CFG q) Reg.Q_CFG_STOP_ON_ERR = false) : s.stopOnErr q f = s :=
  if_neg (by rcases h with h | h <;> simp [h])

theorem code_lt (st : Status) : st.code < 256 := by cases st <;> decide

theorem stopOnErr_stops {s : State} {q : Nat} {f : Fin_} (hst : f.st ≠ .ok)
    (hstop : s.flag (Reg.Q_CFG q) Reg.Q_CFG_STOP_ON_ERR = true) (hrun : s.qState q = 1) :
    (s.stopOnErr q f).qState q = 2 ∧ (s.stopOnErr q f).fld (Reg.Q_STATE q) Reg.Q_STATE_STOP_CAUSE = 1 ∧
      (s.stopOnErr q f).fld (Reg.Q_STATE q) Reg.Q_STATE_STOP_STATUS = f.st.code := by
  rw [State.stopOnErr, if_pos (by simp [hst, hstop])]
  exact stopQueue_running hrun (by decide) (code_lt f.st)

theorem State.OnlyReg.queue {s t : State} {r : RegId} (h : s.OnlyReg t r) (q : Nat) : t.queue q = s.queue q := by
  obtain ⟨⟨w, rfl⟩, -⟩ := h
  rw [State.queue, State.queue]

/-- A descriptor is no longer one of its queue's, and what it wrote other engines may have overtaken (R165). -/
def State.endDesc (s : State) (id q : Nat) (t : Task) : State :=
  let u := s.dropTask id
  match t.eng with
  | some e => { u with mixed := SMap.set u.mixed q (SMap.get u.mixed q 0 ||| otherSteep e) 0 }
  | none => u

theorem endDesc_of_free {s : State} {id : Nat} (hhold : ∀ e ∈ s.tier.pageHold, e.2 ≠ id)
    (hserving : ∀ e ∈ s.tier.serving, e.1 ≠ id) (q : Nat) (t : Task) : (s.endDesc id q t).queues = s.queues ∧
      (s.endDesc id q t).regs = s.regs ∧ (s.endDesc id q t).tasks = SMap.del s.tasks id := by
  obtain ⟨x, r, e, j, hdrop⟩ := dropTask_of_free hhold hserving
  unfold State.endDesc
  rw [hdrop]
  cases t.eng with
  | none => exact ⟨rfl, rfl, rfl⟩
  | some k => exact ⟨rfl, rfl, rfl⟩

/-- What a descriptor's end tells its queue. -/
def State.tellQueue (s : State) (q slot : Nat) (half : Bool) (t : Task) (f : Fin_) : State :=
  (s.recordDue q slot half t f).stopOnErr q f

theorem tellQueue_tasks (s : State) (q slot : Nat) (half : Bool) (t : Task) (f : Fin_) :
    (s.tellQueue q slot half t f).tasks = s.tasks := by
  obtain ⟨m, hm⟩ := recordDue_onlyQueues s q slot half t f
  rw [State.tellQueue, (stopOnErr_onlyReg ..).tasks, hm]

theorem tellQueue_due (s : State) (q slot : Nat) (half : Bool) (t : Task) (f : Fin_) :
    ((s.tellQueue q slot half t f).queue q).due = (s.queue q).due ++ s.dueOf q slot half t f := by
  rw [State.tellQueue, (stopOnErr_onlyReg ..).queue, recordDue_due]

theorem tellQueue_regs {s : State} {q : Nat} {f : Fin_} (h : f.st = .ok ∨ s.flag (Reg.Q_CFG q) Reg.Q_CFG_STOP_ON_ERR = false)
    (slot : Nat) (half : Bool) (t : Task) : (s.tellQueue q slot half t f).regs = s.regs := by
  obtain ⟨m, hm⟩ := recordDue_onlyQueues s q slot half t f
  rw [State.tellQueue, hm]
  exact (congrArg State.regs (stopOnErr_of_ok (s := { s with queues := m }) h)).trans rfl

theorem tellQueue_stops {s : State} {q : Nat} {f : Fin_} (hst : f.st ≠ .ok)
    (hstop : s.flag (Reg.Q_CFG q) Reg.Q_CFG_STOP_ON_ERR = true) (hrun : s.qState q = 1) (slot : Nat) (half : Bool) (t : Task) :
    (s.tellQueue q slot half t f).qState q = 2 ∧
      (s.tellQueue q slot half t f).fld (Reg.Q_STATE q) Reg.Q_STATE_STOP_CAUSE = 1 ∧
      (s.tellQueue q slot half t f).fld (Reg.Q_STATE q) Reg.Q_STATE_STOP_STATUS = f.st.code := by
  obtain ⟨m, hm⟩ := recordDue_onlyQueues s q slot half t f
  rw [State.tellQueue, hm]
  exact stopOnErr_stops hst hstop hrun

/-- A descriptor that completes leaves the running ones, its record joins those due, and an error may stop its queue. -/
theorem completeDesc_eq (s : State) (id q slot : Nat) (half : Bool) (t : Task) (f : Fin_) :
    s.completeDesc id q slot half t f = ((s.endDesc id q t).tellQueue q slot half t f).go := by
  unfold State.completeDesc State.endDesc
  cases t.eng with
  | none => rfl
  | some k => rfl

theorem exec_descriptorComplete {d : DescRef} {s : State} {id : Nat} {t : Task} {f : Fin_}
    (hd : s.findDesc d (fun t => t.fin.isSome) = some (id, t)) (hf : t.fin = some f) :
    exec (.descriptorComplete d) s = done s (s.completeDesc id d.q.val d.slot.toNat d.half t f) := by
  refine congrArg (done s) ?_
  rw [hd]
  simp only [hf]

theorem descriptorComplete_ends {d : DescRef} {s : State} {id : Nat} {t : Task} {f : Fin_}
    (hd : s.findDesc d (fun t => t.fin.isSome) = some (id, t)) (hf : t.fin = some f)
    (hhold : ∀ e ∈ s.tier.pageHold, e.2 ≠ id) (hserving : ∀ e ∈ s.tier.serving, e.1 ≠ id) :
    ∃ u : State, exec (.descriptorComplete d) s = .next (settle s u.go) ∧ SMap.find u.tasks id = none ∧
      (∀ k, k ≠ id → SMap.find u.tasks k = SMap.find s.tasks k) ∧
      (u.queue d.q.val).due = (s.queue d.q.val).due ++ s.dueOf d.q.val d.slot.toNat d.half t f ∧
      (f.st = .ok ∨ s.flag (Reg.Q_CFG d.q.val) Reg.Q_CFG_STOP_ON_ERR = false → u.regs = s.regs) ∧
      (f.st ≠ .ok → s.flag (Reg.Q_CFG d.q.val) Reg.Q_CFG_STOP_ON_ERR = true → s.qState d.q.val = 1 →
        u.qState d.q.val = 2 ∧ u.fld (Reg.Q_STATE d.q.val) Reg.Q_STATE_STOP_CAUSE = 1 ∧
        u.fld (Reg.Q_STATE d.q.val) Reg.Q_STATE_STOP_STATUS = f.st.code) := by
  have hexec := (exec_descriptorComplete hd hf).trans (done_eq ..)
  rw [completeDesc_eq] at hexec
  obtain ⟨hqueues, hregs, htasks⟩ := endDesc_of_free hhold hserving d.q.val t
  have hqueue : (s.endDesc id d.q.val t).queue d.q.val = s.queue d.q.val := by rw [State.queue, hqueues, State.queue]
  have hreg : ∀ r, (s.endDesc id d.q.val t).reg r = s.reg r := fun r => by rw [State.reg, hregs, State.reg]
  refine ⟨_, hexec, ?_, fun k hk => ?_, ?_, fun hok => ?_, fun hst hstop hrun => ?_⟩
  · rw [tellQueue_tasks, htasks, SMap.find_del_same]
  · rw [tellQueue_tasks, htasks, SMap.find_del_other _ hk]
  · rw [tellQueue_due, State.dueOf, hqueue, State.dueOf]
  · rw [tellQueue_regs (by rwa [flag_congr _ (hreg _)]), hregs]
  · exact tellQueue_stops hst ((flag_congr _ (hreg _)).trans hstop) ((fld_congr _ (hreg _)).trans hrun) ..

/-! ## COMPLETION_RECORD_WRITE (R137 to R139) -/

theorem exec_completionRecordWrite (q : Fin 4096) (s : State) :
    exec (.completionRecordWrite q) s = done s (s.writeRecord q.val) := rfl

theorem writeRecord_of_full {s : State} {q : Nat} {d : Due} {rest : List Due} (hdue : (s.queue q).due = d :: rest)
    (hbusy : s.ringBusy.contains (3 + q) = false) (hlive : s.live = true) (hroom : s.cqRoom q = false) :
    s.writeRecord q = s.setFld (Reg.Q_STATE q) Reg.Q_STATE_CQ_STALL 1 := by
  simp only [State.writeRecord, hdue, hbusy, hlive, hroom, Bool.not_true, Bool.not_false, Bool.or_self, Bool.false_eq_true,
    if_false, if_true]

/-- The record of a queue with a ring in host memory: bytes 4 to 31 first, and its first 4 bytes last. -/
def State.sendCompletion (s : State) (q : Nat) (d : Due) : State :=
  s.hostRecord (s.fld (Reg.Q_CQ_BASE q) Reg.Q_CQ_BASE_HEAD)
    (s.fld (Reg.Q_CQ_BASE q) Reg.Q_CQ_BASE_ADDR * 2 ^ 12 + 32 * s.fld (Reg.Q_STATE q) Reg.Q_STATE_CQ_TAIL) (2 ^ 32 - 1) 15
    (s.cqRecord q d)

theorem writeRecord_host {s : State} {q : Nat} {d : Due} {rest : List Due} (hdue : (s.queue q).due = d :: rest)
    (hbusy : s.ringBusy.contains (3 + q) = false) (hlive : s.live = true) (hroom : s.cqRoom q = true)
    (hhost : s.fld (Reg.Q_CQ_BASE q) Reg.Q_CQ_BASE_HOSTMEM = 1)
    (hdma : s.canDma (s.fld (Reg.Q_CQ_BASE q) Reg.Q_CQ_BASE_HEAD) = true) :
    s.writeRecord q = (s.sendCompletion q d).cqDone q := by
  simp only [State.writeRecord, hdue, hbusy, hlive, hroom, hhost, hdma, Bool.not_true, Bool.or_self, Bool.false_eq_true,
    if_false, if_true]
  rfl

/-- A completion ring's oldest record has been written: CQ_TAIL advances and the phase may turn. -/
def State.advanceTail (s : State) (q : Nat) : State :=
  let x := s.queue q
  let tail := (s.fld (Reg.Q_STATE q) Reg.Q_STATE_CQ_TAIL + 1) % s.cqLen q
  (s.setQueue q { x with due := x.due.tail, phase := if tail = 0 then !x.phase else x.phase,
                         unsignalled := x.unsignalled + 1, firstAt := if x.unsignalled = 0 then s.tick else x.firstAt }).setFld
    (Reg.Q_STATE q) Reg.Q_STATE_CQ_TAIL tail

theorem cqDone_cases (s : State) (q : Nat) : s.cqDone q = s.advanceTail q ∨ s.cqDone q = (s.advanceTail q).raiseQueue q := by
  unfold State.cqDone
  dsimp only
  refine Or.symm ?_
  apply ite_eq_or_eq

/-- The words and the rest that a written record leaves. -/
theorem advanceTail_tail (s : State) (q : Nat) : (s.advanceTail q).fld (Reg.Q_STATE q) Reg.Q_STATE_CQ_TAIL =
    (s.fld (Reg.Q_STATE q) Reg.Q_STATE_CQ_TAIL + 1) % s.cqLen q := by
  have hlen : s.cqLen q ≤ 2 ^ 16 := Nat.pow_le_pow_right (by decide) (by omega)
  have hlt : (s.fld (Reg.Q_STATE q) Reg.Q_STATE_CQ_TAIL + 1) % s.cqLen q < 2 ^ 16 :=
    Nat.lt_of_lt_of_le (Nat.mod_lt _ (Nat.two_pow_pos _)) hlen
  exact (fld_setFld_same _ _ _ (by decide) (by decide)).trans (Nat.mod_eq_of_lt hlt)

theorem advanceTail_due (s : State) (q : Nat) : ((s.advanceTail q).queue q).due = (s.queue q).due.tail := by
  rw [State.advanceTail, setFld_queue, queue_setQueue_same]

/-- What the writing of a record leaves: CQ_TAIL advanced, the record no longer due, tiers, tasks and host writes as they were. -/
theorem cqDone_spec (s : State) (q : Nat) :
    (s.cqDone q).out.hostWr = s.out.hostWr ∧ ((s.cqDone q).queue q).due = (s.queue q).due.tail ∧
    (s.cqDone q).fld (Reg.Q_STATE q) Reg.Q_STATE_CQ_TAIL = (s.fld (Reg.Q_STATE q) Reg.Q_STATE_CQ_TAIL + 1) % s.cqLen q ∧
    (s.cqDone q).tier = s.tier ∧ (s.cqDone q).tasks = s.tasks := by
  have hfrom : (s.advanceTail q).out = s.out ∧ (s.advanceTail q).tier = s.tier ∧ (s.advanceTail q).tasks = s.tasks := by
    rw [State.advanceTail, setFld_out, setFld_tier, setFld_tasks]
    exact ⟨rfl, rfl, rfl⟩
  obtain ⟨hout, htier, htasks⟩ := hfrom
  have hdue := advanceTail_due s q
  have htail := advanceTail_tail s q
  rcases cqDone_cases s q with h | h
  · rw [h, hout]
    exact ⟨rfl, hdue, htail, htier, htasks⟩
  · have hregs := raiseQueue_regs (s.advanceTail q) q
    rw [h, raiseQueue_queue, State.fld, State.reg, hregs]
    rw [raiseQueue_eq, msix_hostWr, msix_tier, msix_tasks, setQueue_out, setQueue_tier, setQueue_tasks, hout]
    exact ⟨rfl, hdue, htail, htier, htasks⟩

/-- Settles O18: an ended descriptor's effect on its queue; and the record due waits for room, or is written and counted. -/
theorem descriptorsComplete : Obligations.DescriptorsComplete := by
  refine ⟨fun d s id t f hd hf hhold hserving => descriptorComplete_ends hd hf hhold hserving,
    fun q s d rest hdue hbusy hlive => ⟨fun hroom hs => ?_, fun hroom hhost hdma => ?_⟩⟩
  · rw [exec_completionRecordWrite, writeRecord_of_full hdue hbusy hlive hroom]
    exact done_setFld_flag hs _ (by decide) (by decide)
  · refine ⟨_, (exec_completionRecordWrite q s).trans (done_eq ..), ?_⟩
    rw [writeRecord_host hdue hbusy hlive hroom hhost hdma, settle_out, settle_queue, settle_fld, settle_tier, settle_tasks]
    obtain ⟨hwr, hdue', htail, htier, htasks⟩ := cqDone_spec (s.sendCompletion q.val d) q.val
    refine ⟨hwr.trans (List.append_assoc ..), ?_, htail, htier, htasks⟩
    exact hdue'.trans (congrArg List.tail hdue)

end Sys2Proof.Machine
end

section
/-! O20: a descriptor's row takes its queue's oldest fetched descriptor and starts it (R126 to R128). -/

namespace Sys2Proof.Machine

/-- The queues' turns in a round are forgotten. -/
def State.endRound (s : State) (l : List (Nat × QueueState)) : State :=
  l.foldl (fun s (k, x) => if x.spent = 0 then s else s.setQueue k { x with spent := 0 }) s

theorem endRound_onlyQueues (l : List (Nat × QueueState)) : ∀ s : State, ∃ m, s.endRound l = { s with queues := m } := by
  induction l with
  | nil => exact fun s => ⟨s.queues, rfl⟩
  | cons e l ih =>
    intro s
    obtain ⟨m, hm⟩ := ih (if e.2.spent = 0 then s else s.setQueue e.1 { e.2 with spent := 0 })
    refine ⟨m, hm.trans ?_⟩
    split
    · rfl
    · rfl

/-- A queue's oldest fetched descriptor is taken in the queue's turn. -/
def State.takeDesc (s : State) (q : Nat) : State :=
  let u := s.endRound s.queues
  u.setQueue q { (u.queue q) with fetched := (s.queue q).fetched.tail,
                                  spent := if (s.queue q).spent < s.weight q then (s.queue q).spent + 1 else 1 }

theorem takeDesc_onlyQueues (s : State) (q : Nat) : ∃ m, s.takeDesc q = { s with queues := m } := by
  obtain ⟨m, hm⟩ := endRound_onlyQueues s.queues s
  rw [State.takeDesc, hm]
  exact ⟨_, rfl⟩

theorem takeDesc_fetched (s : State) (q : Nat) : ((s.takeDesc q).queue q).fetched = (s.queue q).fetched.tail := by
  rw [State.takeDesc, queue_setQueue_same]

/-- The task that a queue's descriptor becomes. -/
def State.descTask (s : State) (q : Nat) (d : FDesc) : Task :=
  { kind := .desc q d.slot d.half d.tad, src := .queue (Fin.ofNat 4096 q), ctx := s.fld (Reg.Q_CFG q) Reg.Q_CFG_CTX,
    bytes := d.normal, start := s.tick }

/-- A descriptor taken starts, as the checks of R128 and its placing on an engine have it. -/
def State.startTaken (s : State) (q : Nat) (d : FDesc) : State :=
  let t := s.descTask q d
  match s.descCheck q d with
  | .ok =>
    match s.placing q d.normal with
    | .error st => (s.addTask { t with fin := some { st := st } }).2
    | .ok none => (s.addTask t).2.go
    | .ok (some l) =>
      let (c, s) := s.choose l.length
      (s.addTask { t with eng := l[c]? }).2.go
  | st => (s.addTask { t with fin := some { st := st } }).2

theorem startDesc_eq (s : State) (q : Nat) (d : FDesc) : s.startDesc q d = (s.takeDesc q).startTaken q d := rfl

theorem startTaken_of_checkFails {s : State} {q : Nat} {d : FDesc} (h : s.descCheck q d ≠ .ok) :
    s.startTaken q d = (s.addTask { s.descTask q d with fin := some { st := s.descCheck q d } }).2 := by
  unfold State.startTaken
  dsimp only
  split
  case h_1 hok => exact absurd hok h
  case h_2 => rfl

theorem startTaken_of_noPlace {s : State} {q : Nat} {d : FDesc} {st : Status} (hcheck : s.descCheck q d = .ok)
    (hplace : s.placing q d.normal = .error st) :
    s.startTaken q d = (s.addTask { s.descTask q d with fin := some { st := st } }).2 := by
  simp only [State.startTaken, hcheck, hplace]

theorem startTaken_of_noEngine {s : State} {q : Nat} {d : FDesc} (hcheck : s.descCheck q d = .ok)
    (hplace : s.placing q d.normal = .ok none) : s.startTaken q d = (s.addTask (s.descTask q d)).2.go := by
  simp only [State.startTaken, hcheck, hplace]

theorem startTaken_of_engine {s : State} {q : Nat} {d : FDesc} {l : List Eng} (hcheck : s.descCheck q d = .ok)
    (hplace : s.placing q d.normal = .ok (some l)) (hl : l ≠ []) :
    ∃ e ∈ l, s.startTaken q d = ({ s with free := s.free + 1 }.addTask { s.descTask q d with eng := some e }).2.go := by
  have hlt : Config.freeNat s.free % l.length < l.length := Nat.mod_lt _ (List.length_pos_iff.mpr hl)
  refine ⟨l[Config.freeNat s.free % l.length], List.getElem_mem hlt, ?_⟩
  simp only [State.startTaken, hcheck, hplace, State.choose, List.getElem?_eq_getElem hlt]

theorem descRow_starts {s : State} {q : Nat} {p : List Byte → Bool} {d : FDesc} {rest : List FDesc}
    (hfetched : (s.queue q).fetched = d :: rest) (hp : p d.normal = true) (hel : s.eligible q = true)
    (hturn : s.inTurn q = true) : s.descRow q p = (s.takeDesc q).startTaken q d := by
  simp only [State.descRow, hfetched, hp, hel, hturn, Bool.and_self, if_true, startDesc_eq]

/-- A descriptor that waits for an engine free of containment is not eligible. -/
theorem placing_ne_nil_of_eligible {s : State} {q : Nat} {d : FDesc} {rest : List FDesc} {l : List Eng}
    (hfetched : (s.queue q).fetched = d :: rest) (hel : s.eligible q = true) (hcheck : s.descCheck q d = .ok)
    (hplace : s.placing q d.normal = .ok (some l)) : l ≠ [] := by
  rintro rfl
  simp [State.eligible, hfetched, hcheck, hplace] at hel

theorem task_addTask (s : State) (t : Task) : (s.addTask t).2.task s.nextTask = t := SMap.get_put_same ..

/-- What `DescriptorStarts` says of the state that a started descriptor leaves, whatever comes of it. -/
def State.Started (s u : State) (q : Nat) (d : FDesc) (rest : List FDesc) : Prop :=
  (u.queue q).fetched = rest ∧ u.nextTask = s.nextTask + 1 ∧ (u.task s.nextTask).kind = .desc q d.slot d.half d.tad ∧
  (u.task s.nextTask).bytes = d.normal ∧ (u.task s.nextTask).ctx = s.fld (Reg.Q_CFG q) Reg.Q_CFG_CTX ∧
  (u.task s.nextTask).start = s.tick

theorem started_of_addTask {s : State} {q : Nat} {d : FDesc} {rest : List FDesc} {m : SMap QueueState}
    (hrest : (({ s with queues := m } : State).queue q).fetched = rest) (n : Nat) (f : Option Fin_) (e : Option Eng) :
    s.Started (({ s with queues := m, free := n } : State).addTask { s.descTask q d with fin := f, eng := e }).2 q d rest := by
  have htask : (({ s with queues := m, free := n } : State).addTask { s.descTask q d with fin := f, eng := e }).2.task
      s.nextTask = { s.descTask q d with fin := f, eng := e } := task_addTask ..
  refine ⟨hrest, rfl, ?_⟩
  rw [htask]
  exact ⟨rfl, rfl, rfl, rfl⟩

/-- Where a descriptor taken goes, by what its checks and its placing answer. -/
theorem startTaken_spec {s : State} {q : Nat} {d : FDesc} {rest : List FDesc}
    (hfetched : (s.queue q).fetched = d :: rest) (hel : s.eligible q = true) :
    ∃ u : State, s.Started u q d rest ∧
      (∀ st, s.descCheck q d = st → st ≠ .ok →
        (s.takeDesc q).startTaken q d = u ∧ (u.task s.nextTask).fin = some { st := st }) ∧
      (s.descCheck q d = .ok →
        (∀ st, s.placing q d.normal = .error st →
          (s.takeDesc q).startTaken q d = u ∧ (u.task s.nextTask).fin = some { st := st }) ∧
        (∀ l, s.placing q d.normal = .ok l →
          (s.takeDesc q).startTaken q d = u.go ∧ (u.task s.nextTask).fin = none ∧
          match l with
          | none => (u.task s.nextTask).eng = none
          | some es => ∃ e ∈ es, (u.task s.nextTask).eng = some e)) := by
  obtain ⟨m, hm⟩ := takeDesc_onlyQueues s q
  have hrest : ((({ s with queues := m } : State).queue q)).fetched = rest := by
    rw [← hm, takeDesc_fetched, hfetched, List.tail_cons]
  rw [hm]
  have started := started_of_addTask (s := s) (d := d) hrest
  by_cases hcheck : s.descCheck q d = .ok
  case neg =>
    refine ⟨_, started s.free (some { st := s.descCheck q d }) none, fun st hst _ =>
      ⟨startTaken_of_checkFails (s := { s with queues := m }) hcheck, ?_⟩,
      fun h => absurd h hcheck⟩
    rw [← hst]
    exact congrArg Task.fin (task_addTask ..)
  case pos =>
    cases hplace : s.placing q d.normal with
    | error st =>
      refine ⟨_, started s.free (some { st := st }) none, fun st hst hne => absurd (hst.symm.trans hcheck) hne, fun _ =>
        ⟨fun st' h => ?_, fun l h => nomatch h⟩⟩
      cases h
      exact ⟨startTaken_of_noPlace (s := { s with queues := m }) hcheck hplace, congrArg Task.fin (task_addTask ..)⟩
    | ok l =>
      cases l with
      | none =>
        refine ⟨_, started s.free none none, fun st hst hne => absurd (hst.symm.trans hcheck) hne, fun _ =>
          ⟨fun st h => (nomatch h), fun l h => ?_⟩⟩
        cases h
        exact ⟨startTaken_of_noEngine (s := { s with queues := m }) hcheck hplace, congrArg Task.fin (task_addTask ..),
          congrArg Task.eng (task_addTask ..)⟩
      | some l =>
        obtain ⟨e, he, hstart⟩ := startTaken_of_engine (s := { s with queues := m }) hcheck hplace
          (placing_ne_nil_of_eligible hfetched hel hcheck hplace)
        refine ⟨_, started (s.free + 1) none (some e), fun st hst hne => absurd (hst.symm.trans hcheck) hne, fun _ =>
          ⟨fun st h => (nomatch h), fun l' h => ?_⟩⟩
        cases h
        exact ⟨hstart, congrArg Task.fin (task_addTask ..), e, he, congrArg Task.eng (task_addTask ..)⟩

/-- Settles O20: each row is `descRow` of its descriptors; the checks and the placing say how the descriptor taken starts. -/
theorem descriptorStarts : Obligations.DescriptorStarts := by
  intro c hc
  have hexec : ∀ (q : Fin 4096) (s : State), exec (c.1 q) s = done s (s.descRow q.val c.2) := by
    revert c
    simp only [List.forall_mem_cons, List.not_mem_nil, false_implies, implies_true, and_true]
    and_intros
    all_goals exact fun _ _ => rfl
  intro q s d rest hfetched hp hel hturn
  obtain ⟨u, ⟨hrest, hnext, hkind, hbytes, hctx, hstart⟩, hfails, hpasses⟩ := startTaken_spec hfetched hel
  have hstep : ∀ v, (s.takeDesc q.val).startTaken q.val d = v → exec (c.1 q) s = .next (settle s v) := by
    rintro v rfl
    rw [hexec, descRow_starts hfetched hp hel hturn, done_eq]
  refine ⟨u, hrest, hnext, hkind, hbytes, hctx, hstart, fun st hst hne => (hfails st hst hne).imp_left (hstep _),
    fun hok => ⟨fun st hst => ((hpasses hok).1 st hst).imp_left (hstep _),
      fun l hl => ((hpasses hok).2 l hl).imp_left (hstep _)⟩⟩

end Sys2Proof.Machine
end

section
/-! SUPPORT. A message taken from a port's buffer (R421), and the streams of stores (R430, R432). -/

namespace Sys2Proof.Machine

/-! ## What serving a message leaves of the ports, the tiers and the scratchpad -/

/-- The tiers, the scratchpad and of each port all but the messages queued on it are as they were. -/
def State.KeepsRx (s t : State) : Prop :=
  (∀ n, ∃ x, t.port n = { s.port n with tx := x }) ∧ t.tier = s.tier ∧ t.pad = s.pad

theorem State.KeepsRx.of_fields {s t : State} (hports : t.fab.ports = s.fab.ports) (htier : t.tier = s.tier)
    (hpad : t.pad = s.pad) : s.KeepsRx t :=
  ⟨fun n => ⟨(s.port n).tx, by rw [State.port, hports, State.port]⟩, htier, hpad⟩

theorem State.KeepsRx.trans {s t u : State} (h : s.KeepsRx t) (h' : t.KeepsRx u) : s.KeepsRx u := by
  obtain ⟨hs, hstier, hspad⟩ := h
  obtain ⟨ht, httier, htpad⟩ := h'
  refine ⟨fun n => ?_, httier.trans hstier, htpad.trans hspad⟩
  obtain ⟨y, hy⟩ := hs n
  obtain ⟨x, hx⟩ := ht n
  exact ⟨x, by rw [hx, hy]⟩

theorem State.OnlyTx.keepsRx {s t : State} (h : s.OnlyTx t) : s.KeepsRx t := by
  obtain ⟨⟨p, f, rfl⟩, hports⟩ := h
  exact ⟨hports, rfl, rfl⟩

/-- A message leaves its place in a port's buffer, and its credits are given back. -/
def State.freeRx (s : State) (p : Nat) (m : Msg) : State :=
  (s.setPort p { s.port p with rx := (s.port p).rx.erase m }).giveCredit p m

/-- The state with ports and effects as a message's taking leaves them. -/
def State.withPorts (s : State) (ports : SMap Port) (out : Outputs) : State :=
  { s with fab := { s.fab with ports := ports }, out := out }

theorem giveCredit_eq (s : State) (n : Nat) (m : Msg) : ∃ ports out, s.giveCredit n m = s.withPorts ports out := by
  unfold State.giveCredit
  dsimp only
  split
  · exact ⟨_, s.out, rfl⟩
  · exact ⟨_, _, rfl⟩

theorem freeRx_eq (s : State) (p : Nat) (m : Msg) : ∃ ports out, s.freeRx p m = s.withPorts ports out := by
  obtain ⟨ports, out, h⟩ := giveCredit_eq (s.setPort p { s.port p with rx := (s.port p).rx.erase m }) p m
  exact ⟨ports, out, h⟩

theorem giveCredit_port (s : State) (n : Nat) (m : Msg) : (s.giveCredit n m).port n = { s.port n with
    given := (s.port n).given.set (vcOf m) (((s.port n).given.getD (vcOf m) 0 + units m) % 2 ^ 16) } := by
  unfold State.giveCredit
  dsimp only
  split
  · exact port_setPort_same ..
  · exact port_setPort_same ..

theorem freeRx_port (s : State) (p : Nat) (m : Msg) : (s.freeRx p m).port p = { s.port p with
    rx := (s.port p).rx.erase m,
    given := (s.port p).given.set (vcOf m) (((s.port p).given.getD (vcOf m) 0 + units m) % 2 ^ 16) } := by
  rw [State.freeRx, giveCredit_port, port_setPort_same]

theorem State.KeepsRx.freedRx {s u : State} {p : Nat} {m : Msg} (h : (s.freeRx p m).KeepsRx u) : s.FreedRx u p m := by
  obtain ⟨x, hx⟩ := h.1 p
  rw [freeRx_port] at hx
  exact ⟨by rw [hx], by rw [hx]⟩

theorem receive_of_arrives {s : State} {p : Nat} {h : MsgHdr} {b : Body} (harr : s.Arrives p ⟨h, b, false⟩)
    (hrack : h.dstRack.toNat = s.rack) (hdst : h.dst.toNat = s.module) (hcls : b.cls ≠ .resp) :
    s.receive p h b = (s.freeRx p ⟨h, b, false⟩).serveMsg p ⟨h, b, false⟩ := by
  obtain ⟨hlive, hfirst, hentry⟩ := harr
  have hacts : ∀ ports out, (s.withPorts ports out).msgActs p ⟨h, b, false⟩ =
      (s.withPorts ports out).serveMsg p ⟨h, b, false⟩ := fun ports out => by
    have hlive' : (s.withPorts ports out).live = true := hlive
    have hentry' : (s.withPorts ports out).entryOk p ⟨h, b, false⟩ = true := hentry
    have hrack' : h.dstRack.toNat = (s.withPorts ports out).rack := hrack
    have hdst' : h.dst.toNat = (s.withPorts ports out).module := hdst
    simp [State.msgActs, hlive', hentry', hcls, hrack', hdst']
  obtain ⟨ports, out, hfree⟩ := freeRx_eq s p ⟨h, b, false⟩
  rw [State.receive, if_pos hfirst]
  refine Eq.trans (congrArg (fun t : State => t.msgActs p _) hfree) ?_
  rw [hacts, hfree]

/-- `MessagesServed` of one instruction and its message's body, in a state to which the message is for. -/
def State.Serves (s : State) (p : Nat) (h : MsgHdr) (c : Instr) (b : Body) (f : State → Prop) : Prop :=
  s.Arrives p ⟨h, b, false⟩ → (b.addr.isSome → s.gatewayHome p ⟨h, b, false⟩ = none) →
    ∃ u : State, exec c s = .next (settle s u.go) ∧ s.FreedRx u p ⟨h, b, false⟩ ∧ u.tier = s.tier ∧ u.pad = s.pad ∧ f u

/-- A message for this module is served in the state that its taking leaves. -/
theorem serves_of_serveMsg {s : State} {p : Nat} {h : MsgHdr} {c : Instr} {b : Body} {f : State → Prop}
    (hrack : h.dstRack.toNat = s.rack) (hdst : h.dst.toNat = s.module)
    (hexec : exec c s = done s (s.receive p h b)) (hcls : b.cls ≠ .resp)
    (hserve : (b.addr.isSome → s.gatewayHome p ⟨h, b, false⟩ = none) → ∀ ports out,
      ∃ u : State, (s.withPorts ports out).serveMsg p ⟨h, b, false⟩ = u.go ∧ (s.withPorts ports out).KeepsRx u ∧ f u) :
    s.Serves p h c b f := by
  intro harr hgw
  obtain ⟨ports, out, hfree⟩ := freeRx_eq s p ⟨h, b, false⟩
  obtain ⟨u, hu, hkeeps, hf⟩ := hserve hgw ports out
  refine ⟨u, ?_, State.KeepsRx.freedRx (hfree ▸ hkeeps), hkeeps.2.1, hkeeps.2.2, hf⟩
  rw [hexec, receive_of_arrives harr hrack hdst hcls, hfree, hu, done_eq]

/-! ## The streams of stores -/

theorem inStream_isFor (s : State) (h : MsgHdr) : (s.inStream h).isFor h = true := by
  unfold State.inStream
  cases hfind : s.fab.ins.find? fun k => k.isFor h with
  | none => simp [InStream.isFor]
  | some k => exact List.find?_some (p := fun k => InStream.isFor k h) hfind

theorem inStream_setIn {k : InStream} {h : MsgHdr} (hk : k.isFor h = true) (s : State) : (s.setIn k).inStream h = k := by
  simp [State.inStream, State.setIn, hk]

theorem setIn_keepsRx (s : State) (k : InStream) : s.KeepsRx (s.setIn k) := .of_fields rfl rfl rfl

theorem addTask_keepsRx (s : State) (t : Task) : s.KeepsRx (s.addTask t).2 := .of_fields rfl rfl rfl

/-- A stream without a held message whose turn it is does nothing. -/
theorem runStream_of_noTurn {s : State} {h : MsgHdr}
    (hheld : ∀ x ∈ (s.inStream h).held, x.2.hdr.seq.toNat ≠ (s.inStream h).expect) (n : Nat) : State.runStream h n s = s := by
  have hfind : ((s.inStream h).held.find? fun x => x.2.hdr.seq.toNat = (s.inStream h).expect) = none := by
    simpa [List.find?_eq_none] using hheld
  cases n with
  | zero => rfl
  | succ n =>
    simp only [State.runStream, hfind]
    exact ite_self _

/-- How far a message's number lies ahead of the one that its stream expects. -/
def State.ahead (s : State) (h : MsgHdr) : Nat := (h.seq.toNat + 2 ^ 24 - (s.inStream h).expect) % 2 ^ 24

/-- A stream with one more message held. -/
def InStream.hold (k : InStream) (p : Nat) (m : Msg) : InStream := { k with held := k.held ++ [(p, m)] }

theorem inStream_setIn_hold (s t : State) (p : Nat) (m : Msg) :
    (t.setIn ((s.inStream m.hdr).hold p m)).inStream m.hdr = (s.inStream m.hdr).hold p m :=
  inStream_setIn (k := (s.inStream m.hdr).hold p m) (inStream_isFor s m.hdr) t

/-- A store that is its stream's next one, or comes early, is held; the stream then goes on. -/
theorem storeArrive_held {s : State} {p : Nat} {m : Msg} (hnew : s.ahead m.hdr < 2 ^ 23)
    (hnext : s.ahead m.hdr = 0 → (s.inStream m.hdr).busy = false)
    (hheld : ∀ x ∈ (s.inStream m.hdr).held, x.2.hdr.seq ≠ m.hdr.seq) (hroom : s.ahead m.hdr ≠ 0 → s.heldEarly < 8192) :
    s.storeArrive p m = State.runStream m.hdr ((s.inStream m.hdr).held.length + 2)
      (s.setIn ((s.inStream m.hdr).hold p m)) := by
  have hbusy : ¬ ((s.ahead m.hdr = 0 ∧ (s.inStream m.hdr).busy = true) ∨
      ((s.inStream m.hdr).held.any fun x => decide (x.2.hdr.seq = m.hdr.seq)) = true) := by
    rintro (⟨h0, hb⟩ | hany)
    · exact Bool.false_ne_true ((hnext h0).symm.trans hb)
    · obtain ⟨x, hx, heq⟩ := List.any_eq_true.1 hany
      exact hheld x hx (of_decide_eq_true heq)
  have hfull : ¬ (s.ahead m.hdr ≠ 0 ∧ s.heldEarly ≥ 8192) := fun ⟨hne, hge⟩ => Nat.not_le.2 (hroom hne) hge
  unfold State.ahead at hnew hbusy hfull
  unfold State.storeArrive
  dsimp only
  rw [if_neg (Nat.not_le.2 hnew), if_neg hbusy, if_neg hfull, InStream.hold]

theorem ahead_of_next {s : State} {h : MsgHdr} (hseq : (s.inStream h).expect = h.seq.toNat) : s.ahead h = 0 := by
  rw [State.ahead, hseq, Nat.add_sub_cancel_left, Nat.mod_self]

theorem storeArrive_early {s : State} {p : Nat} {m : Msg} (hnew : s.ahead m.hdr < 2 ^ 23) (hearly : s.ahead m.hdr ≠ 0)
    (hroom : s.heldEarly < 8192) (hheld : ∀ x ∈ (s.inStream m.hdr).held, x.2.hdr.seq ≠ m.hdr.seq)
    (hturn : ∀ x ∈ (s.inStream m.hdr).held, x.2.hdr.seq.toNat ≠ (s.inStream m.hdr).expect) :
    s.storeArrive p m = s.setIn ((s.inStream m.hdr).hold p m) := by
  rw [storeArrive_held hnew (fun h0 => absurd h0 hearly) hheld fun _ => hroom]
  refine runStream_of_noTurn (fun x hx => ?_) _
  rw [inStream_setIn_hold] at hx ⊢
  rcases List.mem_append.1 hx with hx | hx
  · exact hturn x hx
  · obtain rfl := List.mem_singleton.1 hx
    exact fun heq => hearly (ahead_of_next heq.symm)

/-- Of the messages held, the one just held is the one whose turn it is. -/
theorem find_hold {k : InStream} {p : Nat} {m : Msg} (hseq : k.expect = m.hdr.seq.toNat)
    (hheld : ∀ x ∈ k.held, x.2.hdr.seq ≠ m.hdr.seq) :
    ((k.hold p m).held.find? fun x => x.2.hdr.seq.toNat = (k.hold p m).expect) = some (p, m) := by
  have hnone : (k.held.find? fun x => decide (x.2.hdr.seq.toNat = m.hdr.seq.toNat)) = none := by
    simpa [BitVec.toNat_inj] using hheld
  simp only [InStream.hold, hseq, List.find?_append, hnone, Option.none_or, List.find?_singleton, decide_true, if_true]

theorem filter_hold {k : InStream} {p : Nat} {m : Msg} (hheld : ∀ x ∈ k.held, x.2.hdr.seq ≠ m.hdr.seq) :
    { k.hold p m with held := (k.hold p m).held.filter fun x => x.2.hdr.seq ≠ m.hdr.seq } = k := by
  have hrest : ((k.hold p m).held.filter fun x => decide (x.2.hdr.seq ≠ m.hdr.seq)) = k.held := by
    rw [InStream.hold, List.filter_append, List.filter_eq_self.2 fun x hx => decide_eq_true (hheld x hx)]
    simp
  rw [hrest]
  rfl

/-- A stream begins the store whose turn it is, and goes on from one that ends at once. -/
theorem runStream_turn {s : State} {h : MsgHdr} {k r : InStream} {p : Nat} {m : Msg} (hk : s.inStream h = k)
    (hbusy : k.busy = false) (hfind : (k.held.find? fun x => x.2.hdr.seq.toNat = k.expect) = some (p, m))
    (hr : { k with held := k.held.filter fun x => x.2.hdr.seq ≠ m.hdr.seq } = r) (n : Nat) :
    State.runStream h (n + 1) s = if ((s.setIn r).beginStore p m).2
      then State.runStream h n (((s.setIn r).beginStore p m).1.setIn { r with expect := (r.expect + 1) % 2 ^ 24 })
      else ((s.setIn r).beginStore p m).1.setIn { r with busy := true } := by
  subst hk hr
  rw [State.runStream]
  refine (if_neg (by rw [hbusy]; exact Bool.false_ne_true)).trans ?_
  rw [hfind]

/-- A store whose turn on its stream has come is begun; one that ends at once lets the stream go on. -/
theorem storeArrive_turn {s : State} {p : Nat} {m : Msg} {k : InStream} (hk : s.inStream m.hdr = k)
    (hseq : k.expect = m.hdr.seq.toNat) (hbusy : k.busy = false) (hheld : ∀ x ∈ k.held, x.2.hdr.seq ≠ m.hdr.seq) :
    ∃ t : State, t = (s.setIn (k.hold p m)).setIn k ∧ s.storeArrive p m = if (t.beginStore p m).2
      then State.runStream m.hdr (k.held.length + 1)
        ((t.beginStore p m).1.setIn { k with expect := (k.expect + 1) % 2 ^ 24 })
      else (t.beginStore p m).1.setIn { k with busy := true } := by
  subst hk
  have hahead := ahead_of_next hseq
  refine ⟨_, rfl, ?_⟩
  rw [storeArrive_held (by rw [hahead]; decide) (fun _ => hbusy) hheld fun hne => absurd hahead hne]
  exact runStream_turn (inStream_setIn_hold ..) hbusy (find_hold hseq hheld) (filter_hold hheld) _

/-- A store served before is answered again and acts no more. -/
theorem storeArrive_again {s : State} {p : Nat} {m : Msg} (hold : 2 ^ 23 ≤ s.ahead m.hdr) : s.OnlyTx (s.storeArrive p m) := by
  rw [State.storeArrive]
  refine (congrArg s.OnlyTx (if_pos hold)).mpr ?_
  split
  · split
    · exact respondVia_onlyTx ..
    · split
      · exact respondVia_onlyTx ..
      · exact respondVia_onlyTx ..
  · exact respondVia_onlyTx ..

end Sys2Proof.Machine
end

section
/-! O52: messages for this module are served (R123, R429, R430, R432, R350). -/

namespace Sys2Proof.Machine

/-! ## Messages that become tasks (R429, R430) -/

/-- The task that a message becomes. -/
def State.msgTask (s : State) (p : Nat) (m : Msg) : Task :=
  { kind := .msg p m, src := s.msgSrc p m, ctx := m.hdr.ctx.toNat, start := s.tick }

/-- A message is a task of its own; the others are as they were. -/
def State.BecomesTask (s u : State) (p : Nat) (m : Msg) : Prop :=
  u.nextTask = s.nextTask + 1 ∧ SMap.find u.tasks s.nextTask = some (s.msgTask p m) ∧
  ∀ i, i ≠ s.nextTask → SMap.find u.tasks i = SMap.find s.tasks i

theorem becomesTask_addTask (s : State) (p : Nat) (m : Msg) : s.BecomesTask (s.addTask (s.msgTask p m)).2 p m :=
  ⟨rfl, SMap.find_put_same .., fun _ hi => SMap.find_put_other _ _ hi⟩

theorem State.BecomesTask.setIn {s u : State} {p : Nat} {m : Msg} (h : s.BecomesTask u p m) (k : InStream) :
    s.BecomesTask (u.setIn k) p m := h

theorem State.BecomesTask.ofSetIn {s u : State} {p : Nat} {m : Msg} {k : InStream} (h : (s.setIn k).BecomesTask u p m) :
    s.BecomesTask u p m := h

theorem serveMsg_rd {s : State} {p : Nat} {h : MsgHdr} {a : BitVec 56} {n : Nat}
    (hgw : s.gatewayHome p ⟨h, .rd a n, false⟩ = none) :
    s.serveMsg p ⟨h, .rd a n, false⟩ = (s.addTask (s.msgTask p ⟨h, .rd a n, false⟩)).2.go := by
  simp only [State.serveMsg, hgw, State.msgTask]

theorem beginStore_task {s : State} {p : Nat} {m : Msg} (hbody : m.body.addr.isSome)
    (hgw : s.gatewayHome p m = none) : s.beginStore p m = ((s.addTask (s.msgTask p m)).2, false) := by
  unfold State.beginStore
  split
  case h_1 heq => rw [heq] at hbody; cases hbody
  case h_2 => rw [hgw]; rfl

/-- A store whose turn has come becomes a task, and its stream waits for it. -/
theorem storeArrive_task {s : State} {p : Nat} {m : Msg} {k : InStream} (hk : s.inStream m.hdr = k)
    (hseq : k.expect = m.hdr.seq.toNat) (hbusy : k.busy = false) (hheld : ∀ x ∈ k.held, x.2.hdr.seq ≠ m.hdr.seq)
    (hbody : m.body.addr.isSome) (hgw : s.gatewayHome p m = none) :
    s.KeepsRx (s.storeArrive p m) ∧ s.BecomesTask (s.storeArrive p m) p m ∧
      (s.storeArrive p m).inStream m.hdr = { k with busy := true } := by
  obtain ⟨t, ht, hstore⟩ := storeArrive_turn (p := p) hk hseq hbusy hheld
  have hgw' : t.gatewayHome p m = none := by rw [ht]; exact hgw
  have hisFor : k.isFor m.hdr = true := hk ▸ inStream_isFor s m.hdr
  rw [beginStore_task hbody hgw'] at hstore
  replace hstore := hstore.trans (if_neg Bool.false_ne_true)
  rw [hstore, ht]
  refine ⟨?_, (becomesTask_addTask ..).ofSetIn.ofSetIn.setIn _, inStream_setIn (k := { k with busy := true }) hisFor _⟩
  exact ((setIn_keepsRx ..).trans (setIn_keepsRx ..)).trans ((addTask_keepsRx ..).trans (setIn_keepsRx ..))

section
variable {s : State} {p : Fin 50} {h : MsgHdr} {c : Instr} {b : Body}

/-- What a store does whose turn has come, or that comes early. -/
theorem store_serves (hrack : h.dstRack.toNat = s.rack) (hdst : h.dst.toNat = s.module)
    (hexec : exec c s = done s (s.receive p.val h b)) (hcls : b.cls ≠ .resp) (hbody : b.addr.isSome)
    (hserve : ∀ t : State, t.serveMsg p.val ⟨h, b, false⟩ = (t.storeArrive p.val ⟨h, b, false⟩).go) :
    ((s.inStream h).expect = h.seq.toNat → (s.inStream h).busy = false →
      (∀ x ∈ (s.inStream h).held, x.2.hdr.seq ≠ h.seq) → s.Serves p.val h c b fun u =>
        s.BecomesTask u p.val ⟨h, b, false⟩ ∧ u.inStream h = { s.inStream h with busy := true }) ∧
    (s.ahead h ≠ 0 → s.ahead h < 2 ^ 23 → s.heldEarly < 8192 → (∀ x ∈ (s.inStream h).held, x.2.hdr.seq ≠ h.seq) →
      (∀ x ∈ (s.inStream h).held, x.2.hdr.seq.toNat ≠ (s.inStream h).expect) → s.Serves p.val h c b fun u =>
        u.tasks = s.tasks ∧ u.inStream h = (s.inStream h).hold p.val ⟨h, b, false⟩) := by
  constructor
  · intro hseq hbusy hheld
    refine serves_of_serveMsg hrack hdst hexec hcls fun hgw ports out => ⟨_, hserve _, ?_⟩
    exact storeArrive_task (s := s.withPorts ports out) (m := ⟨h, b, false⟩) rfl hseq hbusy hheld hbody (hgw hbody)
  · intro hearly hnew hroom hheld hturn
    refine serves_of_serveMsg hrack hdst hexec hcls fun _ ports out => ⟨_, hserve _, ?_⟩
    rw [storeArrive_early (s := s.withPorts ports out) (m := ⟨h, b, false⟩) hnew hearly hroom hheld hturn]
    exact ⟨setIn_keepsRx .., rfl, inStream_setIn_hold ..⟩

/-- What a store does that was served before. -/
theorem again_serves (hrack : h.dstRack.toNat = s.rack) (hdst : h.dst.toNat = s.module)
    (hexec : exec c s = done s (s.receive p.val h b)) (hcls : b.cls ≠ .resp)
    (hserve : ∀ t : State, t.serveMsg p.val ⟨h, b, false⟩ = (t.storeArrive p.val ⟨h, b, false⟩).go)
    (hold : 2 ^ 23 ≤ s.ahead h) :
    s.Serves p.val h c b fun u => u.tasks = s.tasks ∧ u.fab.ins = s.fab.ins ∧ u.queues = s.queues := by
  refine serves_of_serveMsg hrack hdst hexec hcls fun _ ports out => ⟨_, hserve _, ?_⟩
  have honly := storeArrive_again (s := s.withPorts ports out) (p := p.val) (m := ⟨h, b, false⟩) hold
  refine ⟨honly.keepsRx, ?_⟩
  obtain ⟨⟨x, f, hx⟩, -⟩ := honly
  rw [hx]
  exact ⟨rfl, rfl, rfl⟩

end

/-! ## Doorbells over the fabric (R123) -/

/-- An accelerator may ring a queue's doorbells over the fabric. -/
def State.MayRing (s : State) (h : MsgHdr) (q : Nat) : Prop :=
  bit (s.fld Reg.GLB_PART_MEMBERS Reg.GLB_PART_MEMBERS_ACCEL) h.src.toNat = true ∧ h.srcAcc = true ∧
  s.fld (Reg.Q_CFG q) Reg.Q_CFG_FAB_DB ≠ 0 ∧ s.fld (Reg.Q_CFG q) Reg.Q_CFG_DB_POS = h.src.toNat ∧
  (s.fld (Reg.Q_CFG q) Reg.Q_CFG_WORLD = 1 → s.secureCtx h.ctx.toNat = true)

theorem fabricDoorbell_may {s : State} {h : MsgHdr} {q : Nat} (hmay : s.MayRing h q) (cq : Bool) (v : Nat) :
    (s.fabricDoorbell h q cq v).1 =
      if (s.takeDoorbell q cq v).2 then (s.takeDoorbell q cq v).1 else (s.takeDoorbell q cq v).1.dropDoorbell q := by
  obtain ⟨hmember, hacc, hset, hpos, hworld⟩ := hmay
  have hworld' : ¬ (s.fld (Reg.Q_CFG q) Reg.Q_CFG_WORLD = 1 ∧ s.secureCtx h.ctx.toNat = false) := fun ⟨h1, h2⟩ =>
    Bool.false_ne_true (h2.symm.trans (hworld h1))
  simp only [State.fabricDoorbell, hmember, hacc, hset, hpos, hworld', not_true_eq_false, ne_eq, or_self, if_false,
    Bool.not_eq_true]
  split
  · next heq => simp [heq]
  · next heq => simp [heq]

theorem fabricDoorbell_mayNot {s : State} {h : MsgHdr} {q : Nat} (hmay : ¬ s.MayRing h q) (cq : Bool) (v : Nat) :
    (s.fabricDoorbell h q cq v).1 = s.dropDoorbell q := by
  unfold State.fabricDoorbell
  dsimp only
  split
  case isTrue => rfl
  case isFalse hmember =>
    rw [if_pos]
    by_contra hset
    simp only [not_or, not_and, not_not, ne_eq] at hmember hset
    exact hmay ⟨hmember.1, hmember.2, hset.1, hset.2.1, hset.2.2⟩

/-- What a doorbell over the fabric does to its queue, and to the registers. -/
def State.Rung (s u : State) (h : MsgHdr) (q : Nat) (cq : Bool) (v : Nat) : Prop :=
  (∀ r : RegId, r.off ≠ (Reg.Q_STATE q).off → u.reg r = s.reg r) ∧
  (s.MayRing h q → v % 2 ^ 16 < (if cq then s.cqLen q else s.sqLen q) → u.regs = s.regs ∧ u.queue q =
    if cq then { s.queue q with cqHead := v % 2 ^ 16 } else { s.queue q with dbTail := v % 2 ^ 16 }) ∧
  (s.MayRing h q → (if cq then s.cqLen q else s.sqLen q) ≤ v % 2 ^ 16 → u.queues = s.queues ∧
    u.fld (Reg.Q_STATE q) Reg.Q_STATE_DB_RANGE = 1 ∧ u.fld (Reg.Q_STATE q) Reg.Q_STATE_DB_DROP = 1) ∧
  (¬ s.MayRing h q → u.queues = s.queues ∧ u.fld (Reg.Q_STATE q) Reg.Q_STATE_DB_DROP = 1)

theorem dropDoorbell_flag (s : State) (q : Nat) : (s.dropDoorbell q).fld (Reg.Q_STATE q) Reg.Q_STATE_DB_DROP = 1 :=
  (fld_setFld_same _ _ _ (by decide) (by decide)).trans (by decide)

theorem dropDoorbell_onlyReg (s : State) (q : Nat) : s.OnlyReg (s.dropDoorbell q) (Reg.Q_STATE q) := setFld_onlyReg ..

theorem rangeDoorbell_flag (s : State) (q : Nat) :
    ((s.setFld (Reg.Q_STATE q) Reg.Q_STATE_DB_RANGE 1).dropDoorbell q).fld (Reg.Q_STATE q) Reg.Q_STATE_DB_RANGE = 1 := by
  rw [State.dropDoorbell, fld_setFld_field _ _ _ (by decide) (by decide) (by decide)]
  exact (fld_setFld_same _ _ _ (by decide) (by decide)).trans (by decide)

theorem fabricDoorbell_rung (s : State) (h : MsgHdr) (q : Nat) (cq : Bool) (v : Nat) :
    (∃ w m, (s.fabricDoorbell h q cq v).1 = { s with regs := w, queues := m }) ∧
      s.Rung (s.fabricDoorbell h q cq v).1 h q cq v := by
  by_cases hmay : s.MayRing h q
  case neg =>
    rw [fabricDoorbell_mayNot hmay]
    obtain ⟨⟨w, hw⟩, hother⟩ := dropDoorbell_onlyReg s q
    refine ⟨⟨w, s.queues, hw⟩, hother, fun h => absurd h hmay, fun h => absurd h hmay, fun _ => ⟨?_, dropDoorbell_flag s q⟩⟩
    rw [hw]
  case pos =>
    rw [fabricDoorbell_may hmay]
    by_cases hlt : v % 2 ^ 16 < if cq then s.cqLen q else s.sqLen q
    case pos =>
      rw [takeDoorbell_of_lt hlt]
      exact ⟨⟨s.regs, _, rfl⟩, fun _ _ => rfl, fun _ _ => ⟨rfl, queue_setQueue_same ..⟩,
        fun _ hge => absurd hlt (Nat.not_lt.2 hge), fun h => absurd hmay h⟩
    case neg =>
      rw [takeDoorbell_of_ge (Nat.not_lt.1 hlt)]
      obtain ⟨⟨w, hw⟩, hother⟩ := (setFld_onlyReg s (Reg.Q_STATE q) Reg.Q_STATE_DB_RANGE 1).trans (dropDoorbell_onlyReg _ q)
      refine ⟨⟨w, s.queues, hw⟩, hother, fun _ h => absurd h hlt, fun _ _ => ⟨?_, rangeDoorbell_flag s q, dropDoorbell_flag _ q⟩,
        fun h => absurd hmay h⟩
      exact (congrArg State.queues hw).trans rfl

theorem State.Rung.congr {s u t : State} {h : MsgHdr} {q : Nat} {cq : Bool} {v : Nat} (hrung : s.Rung u h q cq v)
    (hregs : t.regs = u.regs) (hqueues : t.queues = u.queues) : s.Rung t h q cq v := by
  have hreg : ∀ r, t.reg r = u.reg r := fun r => by rw [State.reg, hregs, State.reg]
  have hqueue : t.queue q = u.queue q := by rw [State.queue, hqueues, State.queue]
  obtain ⟨hother, hin, hout, hdrop⟩ := hrung
  refine ⟨fun r hr => (hreg r).trans (hother r hr), ?_, ?_, ?_⟩
  · rwa [hregs, hqueue]
  · rwa [hqueues, fld_congr _ (hreg _), fld_congr _ (hreg _)]
  · rwa [hqueues, fld_congr _ (hreg _)]

theorem State.OnlyTx.kept {s t : State} (h : s.OnlyTx t) :
    t.regs = s.regs ∧ t.tasks = s.tasks ∧ t.queues = s.queues ∧ t.fab.ins = s.fab.ins := by
  obtain ⟨⟨_, _, rfl⟩, -⟩ := h
  exact ⟨rfl, rfl, rfl, rfl⟩

theorem beginStore_doorbell (s : State) (p : Nat) (h : MsgHdr) (q : BitVec 12) (cq : Bool) (v : Word) :
    s.beginStore p ⟨h, .doorbell q cq v, false⟩ = ((s.fabricDoorbell h q.toNat cq v.toNat).1.respondVia p
      ⟨h, .doorbell q cq v, false⟩ (s.fabricDoorbell h q.toNat cq v.toNat).2 false, true) := rfl

/-- A doorbell whose turn has come rings, is answered, and its stream goes on. -/
theorem storeArrive_doorbell {s : State} {p : Nat} {h : MsgHdr} {q : BitVec 12} {cq : Bool} {v : Word} {k : InStream}
    (hk : s.inStream h = k) (hseq : k.expect = h.seq.toNat) (hbusy : k.busy = false) (hheld : k.held = []) :
    ∃ u : State, s.storeArrive p ⟨h, .doorbell q cq v, false⟩ = u ∧ s.KeepsRx u ∧ u.tasks = s.tasks ∧
      u.inStream h = { k with expect := (k.expect + 1) % 2 ^ 24 } ∧ s.Rung u h q.toNat cq v.toNat := by
  obtain ⟨t, ht, hstore⟩ := storeArrive_turn (p := p) (m := ⟨h, .doorbell q cq v, false⟩) hk hseq hbusy (by
    rw [hheld]
    exact fun x hx => absurd hx List.not_mem_nil)
  obtain ⟨⟨w, y, hw⟩, hrung⟩ := fabricDoorbell_rung t h q.toNat cq v.toNat
  have hrung' : s.Rung (t.fabricDoorbell h q.toNat cq v.toNat).1 h q.toNat cq v.toNat := by
    rw [ht] at hrung ⊢
    exact hrung
  have honly := respondVia_onlyTx (t.fabricDoorbell h q.toNat cq v.toNat).1 p ⟨h, .doorbell q cq v, false⟩
    (t.fabricDoorbell h q.toNat cq v.toNat).2 false
  have hin : ∀ x : State, (x.setIn { k with expect := (k.expect + 1) % 2 ^ 24 }).inStream h =
      { k with expect := (k.expect + 1) % 2 ^ 24 } := fun x =>
    inStream_setIn (k := { k with expect := (k.expect + 1) % 2 ^ 24 }) (hk ▸ inStream_isFor s h) x
  rw [beginStore_doorbell] at hstore
  replace hstore := hstore.trans (if_pos rfl)
  refine ⟨_, hstore.trans (runStream_of_noTurn ?_ _), ?_, ?_, hin _, ?_⟩
  · rw [hin]
    exact fun x hx => absurd (hheld ▸ hx) List.not_mem_nil
  · have hkeeps : s.KeepsRx (t.fabricDoorbell h q.toNat cq v.toNat).1 := by
      rw [hw, ht]
      exact .of_fields rfl rfl rfl
    exact (hkeeps.trans honly.keepsRx).trans (setIn_keepsRx ..)
  · exact honly.kept.2.1.trans (by rw [hw, ht]; rfl)
  · exact hrung'.congr honly.kept.1 honly.kept.2.2.1

/-! ## STREAM_RESET (R432) -/

theorem serveMsg_streamReset (s : State) (p : Nat) (h : MsgHdr) (first : BitVec 24) :
    s.serveMsg p ⟨h, .streamReset first, false⟩ = (s.resetArrive p ⟨h, .streamReset first, false⟩ first.toNat).go :=
  congrArg (fun n => (s.resetArrive p ⟨h, .streamReset first, false⟩ n).go) (Nat.mod_eq_of_lt first.isLt)

theorem resetArrive_eq {s : State} {m : Msg} {k : InStream} (hk : s.inStream m.hdr = k) (hheld : k.held = []) (p first : Nat) :
    s.resetArrive p m first = State.runStream m.hdr 1 ((s.setIn { k with expect := first }).respondVia p
      { m with hdr := { m.hdr with seq := BitVec.ofNat 24 (first + 2 ^ 24 - 1) } } .ack false) := by
  obtain ⟨rack, acc, src, stream, expect, busy, held⟩ := k
  obtain rfl : held = [] := hheld
  simp only [State.resetArrive, hk]
  rfl

/-- A stream without held messages expects the number that a STREAM_RESET names. -/
theorem resetArrive_spec {s : State} {p : Nat} {m : Msg} {k : InStream} (hk : s.inStream m.hdr = k) (hheld : k.held = [])
    (first : Nat) : s.KeepsRx (s.resetArrive p m first) ∧ (s.resetArrive p m first).tasks = s.tasks ∧
      (s.resetArrive p m first).inStream m.hdr = { k with expect := first } := by
  rw [resetArrive_eq hk hheld]
  have honly := respondVia_onlyTx (s.setIn { k with expect := first }) p
    { m with hdr := { m.hdr with seq := BitVec.ofNat 24 (first + 2 ^ 24 - 1) } } .ack false
  generalize State.respondVia _ _ _ _ _ = v at honly ⊢
  obtain ⟨-, htasks, -, hins⟩ := honly.kept
  have hin : v.inStream m.hdr = { k with expect := first } := by
    rw [State.inStream, hins]
    exact inStream_setIn (k := { k with expect := first }) (hk ▸ inStream_isFor s m.hdr) s
  rw [runStream_of_noTurn (by rw [hin]; exact fun x hx => absurd (hheld ▸ hx) List.not_mem_nil)]
  exact ⟨(setIn_keepsRx ..).trans honly.keepsRx, htasks, hin⟩

/-! ## CANCEL (R350) -/

/-- A task is the subrequest that a CANCEL names. -/
def Task.Named (t : Task) (h : MsgHdr) (tag : Nat) : Prop :=
  ∃ q m w, t.kind = .msg q m ∧ m.body = .subreq w ∧ m.hdr.src = h.src ∧ m.hdr.srcRack = h.srcRack ∧ m.hdr.seq.toNat = tag

/-- The test of the tasks that a CANCEL names. -/
def isNamed (h : MsgHdr) (tag : Nat) (t : Nat × Task) : Bool :=
  match t.2.kind with
  | .msg _ m => m.hdr.src = h.src && m.hdr.srcRack = h.srcRack && decide (m.hdr.seq.toNat = tag) &&
      (match m.body with | .subreq _ => true | _ => false)
  | _ => false

theorem isNamed_iff (h : MsgHdr) (tag : Nat) (t : Nat × Task) : isNamed h tag t = true ↔ t.2.Named h tag := by
  unfold isNamed Task.Named
  cases hkind : t.2.kind with
  | msg q m =>
    cases hbody : m.body with
    | subreq w =>
      simp [hbody, and_assoc]
    | _ => simp [hbody]
  | _ => simp

/-- The named tasks that have not ended are to end with `ST_ABORTED`. -/
def State.abortNamed (s : State) (h : MsgHdr) (tag : Nat) : State :=
  (s.tasks.filter (isNamed h tag)).foldl (fun s t => s.killTask t.1 .aborted) s

/-- A CANCEL aborts what it names; one that names nothing may become a task for an open update. -/
theorem cancelArrives_eq (s : State) (p : Nat) (m : Msg) (tag : Nat) : s.cancelArrives p m tag =
    (if (s.tasks.filter (isNamed m.hdr tag)).isEmpty && (s.abortNamed m.hdr tag).openUpdate m.hdr.src.toNat tag ≠ 0
      then ((s.abortNamed m.hdr tag).addTask ((s.abortNamed m.hdr tag).msgTask p m)).2 else s.abortNamed m.hdr tag).go := rfl

theorem killTask_cases (s : State) (id : Nat) (st : Status) :
    s.killTask id st = s ∨ ∃ t, s.killTask id st = s.setTask id t := by
  unfold State.killTask
  split
  · exact .inl rfl
  · split
    · exact .inl rfl
    · split
      · split
        · exact .inr ⟨_, rfl⟩
        · exact .inl rfl
      · split
        · exact .inl rfl
        · exact .inr ⟨_, rfl⟩

theorem find_killTask_other (s : State) {id i : Nat} (h : i ≠ id) (st : Status) :
    SMap.find (s.killTask id st).tasks i = SMap.find s.tasks i := by
  rcases killTask_cases s id st with hk | ⟨t, hk⟩
  · rw [hk]
  · rw [hk]
    exact SMap.find_put_other _ _ h

/-- A task that is to end with a status already stays so. -/
theorem find_killTask_of_kill {s : State} {i : Nat} {t : Task} (hfind : SMap.find s.tasks i = some t) (hfin : t.fin = none)
    (hend : t.ending = none) (hkill : t.kill.isSome = true) (id : Nat) (st : Status) :
    SMap.find (s.killTask id st).tasks i = some t := by
  by_cases hi : i = id
  · subst hi
    simp [State.killTask, hfind, hfin, hend, hkill]
  · rw [find_killTask_other s hi, hfind]

theorem find_foldl_killTask_of_notMem {l : List (Nat × Task)} {i : Nat} (hi : ∀ e ∈ l, i ≠ e.1) (st : Status) (s : State) :
    SMap.find (l.foldl (fun s t => s.killTask t.1 st) s).tasks i = SMap.find s.tasks i := by
  refine List.foldlRecOn (motive := fun u : State => SMap.find u.tasks i = SMap.find s.tasks i) l _ rfl fun u hu e he => ?_
  rw [find_killTask_other u (hi e he), hu]

/-- Of tasks that are to end, each that was under way is to end so. -/
theorem find_foldl_killTask {l : List (Nat × Task)} {i : Nat} (hi : ∃ e ∈ l, e.1 = i) {t : Task} (hfin : t.fin = none)
    (hend : t.ending = none) (hkill : t.kill = none) (st : Status) {s : State} (hfind : SMap.find s.tasks i = some t) :
    SMap.find (l.foldl (fun s t => s.killTask t.1 st) s).tasks i = some { t with kill := some st } := by
  induction l generalizing s with
  | nil => obtain ⟨e, he, -⟩ := hi; cases he
  | cons e l ih =>
    by_cases hei : e.1 = i
    · have hkilled : SMap.find (s.killTask e.1 st).tasks i = some { t with kill := some st } := by
        rw [hei, killTask_of_find hfind hfin hend hkill]
        exact SMap.find_put_same ..
      exact List.foldlRecOn (motive := fun u : State => SMap.find u.tasks i = some { t with kill := some st }) l _ hkilled
        fun u hu d _ => find_killTask_of_kill hu hfin hend rfl d.1 st
    · obtain ⟨d, hd, hdi⟩ := hi
      refine ih ⟨d, (List.mem_cons.1 hd).resolve_left fun h => hei (h ▸ hdi), hdi⟩ ?_
      rw [find_killTask_other s (Ne.symm hei), hfind]

/-- What a CANCEL does to the tasks. -/
theorem cancelArrives_spec (s : State) (p : Nat) (m : Msg) (tag : Nat) : ∃ u : State, s.cancelArrives p m tag = u.go ∧
    s.KeepsRx u ∧
    (∀ id t, SMap.find s.tasks id = some t → t.Named m.hdr tag → t.fin = none → t.ending = none → t.kill = none →
      (u.task id).kill = some .aborted) ∧
    ∀ id, id ≠ s.nextTask → (∀ t, (id, t) ∈ s.tasks → ¬ t.Named m.hdr tag) → SMap.find u.tasks id = SMap.find s.tasks id := by
  obtain ⟨x, hx⟩ := foldl_killTask_onlyTasks (s.tasks.filter (isNamed m.hdr tag)) .aborted s
  have habort : s.abortNamed m.hdr tag = { s with tasks := x } := hx
  have hothers : ∀ id, (∀ t, (id, t) ∈ s.tasks → ¬ t.Named m.hdr tag) → SMap.find x id = SMap.find s.tasks id := fun id hid => by
    have hkept := find_foldl_killTask_of_notMem (l := s.tasks.filter (isNamed m.hdr tag)) (i := id) ?_ .aborted s
    · rwa [hx] at hkept
    · rintro ⟨_, t⟩ he rfl
      obtain ⟨hmem, hnamed⟩ := List.mem_filter.1 he
      exact hid t hmem ((isNamed_iff ..).1 hnamed)
  have hmem : ∀ id t, SMap.find s.tasks id = some t → t.Named m.hdr tag → (id, t) ∈ s.tasks.filter (isNamed m.hdr tag) :=
    fun id t hfind hnamed => List.mem_filter.2 ⟨mem_of_find hfind, (isNamed_iff ..).2 hnamed⟩
  rw [cancelArrives_eq, habort]
  refine ⟨_, rfl, ?_⟩
  split
  case isTrue hnone =>
    refine ⟨.of_fields rfl rfl rfl, fun id t hfind hnamed => ?_, fun id hid hnot => ?_⟩
    · rw [List.isEmpty_iff.1 (Bool.and_eq_true_iff.1 hnone).1] at hmem
      exact absurd (hmem id t hfind hnamed) List.not_mem_nil
    · exact (SMap.find_put_other _ _ hid).trans (hothers id hnot)
  case isFalse =>
    refine ⟨.of_fields rfl rfl rfl, fun id t hfind hnamed hfin hend hkill => ?_, fun id _ hnot => hothers id hnot⟩
    have hkilled := find_foldl_killTask ⟨_, hmem id t hfind hnamed, rfl⟩ hfin hend hkill .aborted hfind
    rw [hx] at hkilled
    exact congrArg Task.kill (task_of_find hkilled)

/-- Settles O52: each message is served in the state that its taking from the buffer leaves. -/
theorem messagesServed : Obligations.MessagesServed := by
  intro p h s hrack hdst
  refine ⟨fun a n => ?_, fun w => ?_, fun a d => ⟨?_, ?_⟩, fun a m d => ⟨?_, ?_⟩, fun a o w x y => ⟨?_, ?_⟩,
    fun q cq v => ⟨?_, fun hseq hbusy hheld => ?_⟩, fun first hheld => ?_, fun tag => ?_⟩
  · exact serves_of_serveMsg hrack hdst rfl nofun fun hgw ports out =>
      ⟨_, serveMsg_rd (s := s.withPorts ports out) (hgw rfl), addTask_keepsRx .., becomesTask_addTask s .., rfl⟩
  · exact serves_of_serveMsg hrack hdst rfl nofun fun _ ports out =>
      ⟨((s.withPorts ports out).addTask ((s.withPorts ports out).msgTask p.val ⟨h, .subreq w, false⟩)).2, rfl,
        addTask_keepsRx .., becomesTask_addTask s .., rfl⟩
  · exact store_serves hrack hdst rfl nofun rfl fun _ => rfl
  · exact again_serves hrack hdst rfl nofun fun _ => rfl
  · exact store_serves hrack hdst rfl nofun rfl fun _ => rfl
  · exact again_serves hrack hdst rfl nofun fun _ => rfl
  · exact store_serves hrack hdst rfl nofun rfl fun _ => rfl
  · exact again_serves hrack hdst rfl nofun fun _ => rfl
  · exact again_serves hrack hdst rfl nofun fun _ => rfl
  · refine serves_of_serveMsg hrack hdst rfl nofun fun _ ports out => ?_
    obtain ⟨u, hu, hkeeps, htasks, hin, hrung⟩ := storeArrive_doorbell (s := s.withPorts ports out) (p := p.val) (q := q)
      (cq := cq) (v := v) rfl hseq hbusy hheld
    exact ⟨u, congrArg State.go hu, hkeeps, htasks, hin, hrung⟩
  · exact serves_of_serveMsg hrack hdst rfl nofun fun _ ports out => ⟨_, serveMsg_streamReset ..,
      resetArrive_spec (s := s.withPorts ports out) (m := ⟨h, .streamReset first, false⟩) rfl hheld _⟩
  · exact serves_of_serveMsg hrack hdst rfl nofun fun _ ports out =>
      cancelArrives_spec (s.withPorts ports out) p.val ⟨h, .cancel tag, false⟩ tag.toNat

end Sys2Proof.Machine
end

section
/-! O4: the clock (R158): what a step does to `MODULE_TICK`, and how `GLB_TICK` shows it. -/

namespace Sys2Proof.Machine

/-- A step leaves the clock, counts one tick, or is a POWER_UP that restarts it. -/
theorem step_tick {s t : State} (h : step s = .next t) :
    t.tick = s.tick ∨ t.tick = s.tick + 1 ∨ ∃ img rest, s.pending = .powerUp img :: rest ∧ t.tick = 0 := by
  unfold step at h
  split at h
  · injection h with h
    exact .inr (.inl (h ▸ rfl))
  · rename_i c rest hpending
    rcases exec_answers c { s with pending := rest } with ⟨u, hu⟩ | ⟨img, u, rfl, hu⟩
    · injection hu.symm.trans h with h
      exact .inl (h ▸ rfl)
    · injection hu.symm.trans h with h
      exact .inr (.inr ⟨img, rest, hpending, h ▸ rfl⟩)

/-- The row of `GLB_TICK` in the register map. -/
def tickRow : RegRow := ⟨"GLB_TICK", 0x110, [], fun _ _ _ => Reg.GLB_TICK, [Reg.GLB_TICK_MODULE_TICK]⟩

theorem findReg_glbTick : findReg Reg.GLB_TICK.off = some (tickRow, Reg.GLB_TICK) := rfl

theorem word_glbTick (s : State) (sec : Bool) : s.word tickRow Reg.GLB_TICK sec = s.tick := rfl

/-- The one field of `GLB_TICK` is its whole word. -/
theorem readFields_glbTick (sec : Bool) (w : Nat) : readFields sec tickRow.flds w 0 = w % 2 ^ 64 := by
  have hget : Reg.GLB_TICK_MODULE_TICK.get w = w % 2 ^ 64 := by
    simp [Fld.get, Reg.GLB_TICK_MODULE_TICK, bits]
  calc readFields sec tickRow.flds w 0
      = Reg.GLB_TICK_MODULE_TICK.put 0 (Reg.GLB_TICK_MODULE_TICK.get w) := rfl
    _ = w % 2 ^ 64 := by rw [hget]; simp [Fld.put, Reg.GLB_TICK_MODULE_TICK, putBits]

/-- `GLB_TICK` is no register of a secure queue, a secure bank or an engine that may be absent. -/
theorem readBar0_glbTick {s : State} {via : Via} (hserved : s.served via = true)
    (hread : s.mayRead via Reg.GLB_TICK.off = true) : s.readBar0 via 8 Reg.GLB_TICK.off = some (s.tick % 2 ^ 64) := by
  have hsecure : s.secureOnly Reg.GLB_TICK.off = false := rfl
  have habsent : s.absentAt Reg.GLB_TICK.off = false := rfl
  have haligned : Reg.GLB_TICK.off % 8 = 0 := rfl
  simp [State.readBar0, hserved, hread, hsecure, habsent, haligned, findReg_glbTick, word_glbTick, readFields_glbTick]

/-- Settles O4: a step that is no POWER_UP leaves the clock or counts one tick. -/
theorem tickNeverBackward : Obligations.TickNeverBackward := by
  refine ⟨fun s t h => ?_, fun s via hserved hread => readBar0_glbTick hserved hread, rfl⟩
  rcases step_tick h with h | h | h
  · exact .inl h.ge
  · exact .inl (by omega)
  · exact .inr h

end Sys2Proof.Machine
end

section
/-! O10: atomics at a line (R184), and what the eleven operations compute (R184, R187). -/

namespace Sys2Proof.Machine

/-! ## Bytes of a line -/

theorem spliceBytes_length {l d : List Byte} {off : Nat} (h : off + d.length ≤ l.length) :
    (spliceBytes l off d).length = l.length := by
  simp only [spliceBytes, List.length_append, List.length_take, List.length_drop]
  omega

/-- The bytes spliced in are read back. -/
theorem fieldLE_spliceBytes {l d : List Byte} {off : Nat} (h : off ≤ l.length) :
    fieldLE (spliceBytes l off d) off d.length = leNat d := by
  have hlen : (l.take off).length = off := by simp [h]
  rw [fieldLE, spliceBytes, List.append_assoc, List.drop_append_of_le_length hlen.ge, List.drop_of_length_le hlen.le,
    List.nil_append, List.take_append_of_le_length le_rfl, List.take_length]

/-- A splice leaves the bytes before and after it. -/
theorem getD_spliceBytes_outside {l d : List Byte} {off i : Nat} (h : off + d.length ≤ l.length)
    (hi : i < off ∨ off + d.length ≤ i) : (spliceBytes l off d).getD i 0 = l.getD i 0 := by
  have hlen : (l.take off).length = off := by simp; omega
  simp only [spliceBytes, List.append_assoc, List.getD_eq_getElem?_getD]
  congr 1
  rcases hi with hi | hi
  · rw [List.getElem?_append_left (by omega), List.getElem?_take_of_lt hi]
  · rw [List.getElem?_append_right (by omega), List.getElem?_append_right (by omega), List.getElem?_drop]
    congr 1
    omega

/-! ## Sums of FP32 numbers -/

theorem round32_lt (neg : Bool) (n d : Nat) (e : Int) : round32 neg n d e < 2 ^ 32 := by
  have hneg := neg.toNat_lt
  unfold round32
  dsimp only
  split
  case isTrue =>
    simp only [inf32]
    omega
  case isFalse hmax =>
    simp only [Fmt.fp32, Fmt.maxCode, Fmt.signed] at hmax ⊢
    omega

theorem to32_lt (v : Fv) : v.to32 < 2 ^ 32 := by
  cases v with
  | nan => decide
  | inf neg => cases neg <;> decide
  | fin neg m e => exact round32_lt ..

/-! ## The operations -/

/-- An operation's value fits its width. -/
theorem atomicNew_lt {subop width : Nat} (h : subop ≤ 9 ∨ width = 4) (old op1 op2 : Nat) :
    atomicNew subop width old op1 op2 < 2 ^ (8 * width) := by
  have ha : old % 2 ^ (8 * width) < 2 ^ (8 * width) := Nat.mod_lt _ (Nat.two_pow_pos _)
  have hb : op1 % 2 ^ (8 * width) < 2 ^ (8 * width) := Nat.mod_lt _ (Nat.two_pow_pos _)
  unfold atomicNew
  dsimp only
  split
  · exact Nat.mod_lt _ (Nat.two_pow_pos _)
  · exact Nat.and_lt_two_pow _ hb
  · exact Nat.or_lt_two_pow ha hb
  · exact Nat.xor_lt_two_pow ha hb
  · split <;> assumption
  · split <;> assumption
  · exact (Nat.min_le_left ..).trans_lt ha
  · exact max_lt ha hb
  · exact hb
  · split <;> assumption
  · obtain rfl : width = 4 := h.resolve_left fun h => by interval_cases subop <;> simp_all
    exact to32_lt _

theorem signed_ite_le (w a b : Nat) : signed w (if signed w a ≤ signed w b then a else b) = min (signed w a) (signed w b) := by
  rw [apply_ite (signed w), min_def]

theorem signed_ite_ge (w a b : Nat) : signed w (if signed w a ≥ signed w b then a else b) = max (signed w a) (signed w b) := by
  rw [apply_ite (signed w), max_comm, max_def]

/-! ## At a line -/

theorem perform_atomic {s : State} {line : Nat} (hcell : (s.cell (line * 64)).isSome) (hpoison : s.linePoison line = false)
    (subop width off op1 op2 : Nat) : s.perform line (.atomic subop width off op1 op2) =
      (s.writeLine line (spliceBytes (s.readLine line) off
        (natLE width (atomicNew subop width (fieldLE (s.readLine line) off width) op1 op2))),
       { val := fieldLE (s.readLine line) off width, data := s.readLine line }) := by
  have hsome : (s.cell (line * 64)).isNone = false := by simpa using hcell
  simp [State.perform, hsome, hpoison]

/-- Settles O10: the line is the old one with the operation's value spliced in, and each operation is its arm. -/
theorem atomicsOnLines : Obligations.AtomicsOnLines := by
  refine ⟨fun s line subop width off op1 op2 hcell hpoison _ hoff hsubop hwidth => ?_,
    fun width old op1 op2 _ hold hop1 hop2 => ?_⟩
  · have hlen := readLine_length s line
    set new := atomicNew subop width (fieldLE (s.readLine line) off width) op1 op2 with hnew
    have hfit : off + (natLE width new).length ≤ (s.readLine line).length := by rw [natLE_length, hlen]; exact hoff
    have hread := readLine_writeLine hcell ((spliceBytes_length hfit).trans hlen)
    refine ⟨_, _, perform_atomic hcell hpoison .., rfl, rfl, ?_, fun i hi => ?_⟩
    · have hlt : new < 2 ^ (8 * width) := atomicNew_lt (by omega) ..
      rw [← hnew, hread]
      have hfield := fieldLE_spliceBytes (d := natLE width new) (Nat.le_of_add_right_le hfit)
      rw [natLE_length] at hfield
      rw [hfield, leNat_natLE, Nat.mod_eq_of_lt (by rwa [show (256 : Nat) = 2 ^ 8 by rfl, ← Nat.pow_mul])]
    · rw [hread, getD_spliceBytes_outside hfit (by rwa [natLE_length])]
  · have ha := Nat.mod_eq_of_lt hold
    have hb := Nat.mod_eq_of_lt hop1
    have hc := Nat.mod_eq_of_lt hop2
    refine ⟨fun subop hsubop => atomicNew_lt (.inl hsubop) .., ?_, ?_, ?_, ?_, ?_, ?_, ?_, ?_, ?_, ?_, ?_, ?_⟩ <;>
      simp only [atomicNew, ha, hb, hc]
    · exact Nat.testBit_and _ _
    · exact Nat.testBit_or _ _
    · exact Nat.testBit_xor _ _
    · exact signed_ite_le ..
    · exact signed_ite_ge ..
    · exact fun h => if_pos h
    · exact fun h => if_neg h

end Sys2Proof.Machine
end

section
/-! O29: combined atomics come due (R188, R189), and homes time out (R348). -/

namespace Sys2Proof.Machine

/-! ## COMBINE_ENTRY_EXPIRY (R188) -/

theorem exec_combineEntryExpiry {slice : Fin 64} {k : Fin 32} {s : State} {c : Combine}
    (hc : SMap.find s.combine (slice.val * 32 + k.val) = some c) : exec (.combineEntryExpiry slice k) s =
      done s (if c.since + us 2 ≤ s.tick then (s.submit { line := c.line, who := .comb }).go else s) := by
  change execCombineEntryExpiry slice k s = _
  rw [execCombineEntryExpiry, hc]

/-- The combined atomics of a line, as a request at its arbiter. -/
abbrev dueAt (line : Nat) : LineReq := { line := line, who := .comb }

/-- Only a request of the same line comes before one that is no store of a host. -/
theorem comesBefore_of_noStore {s : State} {r : LineReq} (hr : s.hostStore r = none) (x : LineReq) :
    s.comesBefore x r = decide (x.line = r.line) := by
  rw [State.comesBefore, hr]
  cases s.hostStore x <;> simp

theorem take_dueAt {s : State} {line : Nat} (hheld : s.lineHeld line = false) (hdir : SMap.find s.dir line = none) :
    s.take (dueAt line) = (s.performCombines line, true) := by
  obtain ⟨hpage, hchunk⟩ := Bool.or_eq_false_iff.1 hheld
  simp [State.take, hpage, hchunk, hdir, State.serve]

/-- With nothing in their way the combined atomics are performed at once. -/
theorem submit_dueAt {s : State} {line : Nat} (hwait : ∀ x ∈ s.waitq, x.line ≠ line) (hheld : s.lineHeld line = false)
    (hdir : SMap.find s.dir line = none) (hcell : (s.cell (line * 64)).isSome) :
    s.submit (dueAt line) = s.performCombines line := by
  have hfirst : (s.waitq.any fun x => s.comesBefore x (dueAt line)) = false := by
    simpa [comesBefore_of_noStore (show s.hostStore (dueAt line) = none from rfl)] using hwait
  have hrefusal : s.refusal (dueAt line) = none := by simp [State.refusal]
  have hsome : (s.cell (line * 64)).isNone = false := by simpa using hcell
  simp [State.submit, hfirst, State.arbiter, hsome, take_dueAt hheld hdir, hrefusal, State.accept]

/-- A table whose one entry is of the line is emptied, and its atomic performed. -/
theorem performCombines_single {s : State} {c : Combine} {k : Nat} (hc : s.combine = [(k, c)])
    (hpoison : s.linePoison c.line = false) : s.performCombines c.line =
      ({ s with combine := [] }.perform c.line (.atomic c.subop c.width c.off c.val 0)).1 := by
  have hentries : s.combinesOf c.line = [(k, c)] := by simp [State.combinesOf, hc]
  have hempty : SMap.del s.combine k = [] := by simp [SMap.del, hc]
  have hclean : ({ s with combine := [] } : State).linePoison c.line = false := hpoison
  simp [State.performCombines, hentries, hempty, hclean]

/-! ## HOME_TMO_EXPIRY (R348) -/

theorem fan_of_find {s : State} {id : Nat} {f : Fan} (h : SMap.find s.eng.fans id = some f) : s.fan id = f := by
  simp [State.fan, SMap.get, h]

theorem fan_setFan_same (s : State) (id : Nat) (f : Fan) : (s.setFan id f).fan id = f := SMap.get_put_same ..

theorem fanNote_fan (s : State) (id k : Nat) : (s.fanNote id).fan k = s.fan k := by
  unfold State.fanNote
  split
  · obtain ⟨m, hm⟩ := deliver_onlyTasks s id {}
    rw [hm]; rfl
  · rfl

/-- The parts of a fan with those that no home has answered missing. -/
theorem giveUpFan_parts {s : State} {id : Nat} {f : Fan} (h : SMap.find s.eng.fans id = some f) (st : Status) :
    ((s.giveUpFan id st).fan id).parts = f.parts.map fun p => if p.answered then p else { p with missing := some st } := by
  simp only [State.giveUpFan, h, fanNote_fan, fan_setFan_same]

theorem exec_homeTmoExpiry {d : DescRef} {s : State} {id : Nat} {t : Task} {f : Fan}
    (hdesc : s.findDesc d (fun t => t.fin.isNone) = some (id, t)) (hwait : t.wait = .reports)
    (hfan : SMap.find s.eng.fans id = some f) (htmo : f.tmo ≠ 0)
    (hlate : ∃ p ∈ f.parts, p.answered = false ∧ p.at_ + 1000 * f.tmo ≤ s.tick) :
    exec (.homeTmoExpiry d) s = .next (settle s (s.giveUpFan id .timeout).go) := by
  have hany : f.parts.any (fun p => !p.answered && decide (p.at_ + us f.tmo ≤ s.tick)) = true := by
    obtain ⟨p, hp, hans, htime⟩ := hlate
    refine List.any_eq_true.2 ⟨p, hp, ?_⟩
    rw [hans, Bool.not_false, Bool.true_and, decide_eq_true_eq, us]
    omega
  change execHomeTmoExpiry d s = _
  simp only [execHomeTmoExpiry, hdesc, fan_of_find hfan]
  rw [if_pos ⟨hwait, htmo, hany⟩, done_eq]

/-- Settles O29: the two sides of the entry's time, the arbiter with nothing in the way, and the fan given up. -/
theorem combiningAndTimeouts : Obligations.CombiningAndTimeouts := by
  refine ⟨fun slice k s c hc => ⟨fun htime hs => ?_, fun htime => ⟨?_, fun hwait hheld hdir hcell => ?_⟩⟩,
    fun s c k hc _ hpoison => performCombines_single hc hpoison, fun d s id t f hdesc hwait hfan htmo hlate => ?_⟩
  · rw [exec_combineEntryExpiry hc, if_neg (by simp only [us]; omega), done_self hs]
  · rw [exec_combineEntryExpiry hc, if_pos (show c.since + us 2 ≤ s.tick from htime), done_eq]
  · exact submit_dueAt hwait hheld hdir hcell
  · exact ⟨_, exec_homeTmoExpiry hdesc hwait hfan htmo hlate, giveUpFan_parts hfan .timeout⟩

end Sys2Proof.Machine
end

section
/-! SUPPORT. Programs whose accesses were answered before (log 5): one after another, and an EMB_SWITCH SUBOP 2 (R407). -/

namespace Sys2Proof.Machine

theorem Prog.bind_eq {α β : Type} (p : Prog α) (f : α → Prog β) (r : Rs) : (p >>= f) r =
    match p r with
    | (.ok a, v) => f a v
    | (.error e, v) => (.error e, v) := by
  change (ExceptT.bind p f) r = _
  unfold ExceptT.bind ExceptT.mk
  change (StateT.bind p _) r = _
  unfold StateT.bind
  cases h : p r with
  | mk x v =>
    change ExceptT.bindCont f x v = _
    cases x <;> rfl

theorem Prog.pure_eq {α : Type} (a : α) (r : Rs) : (pure a : Prog α) r = (.ok a, r) := rfl

theorem Prog.bind_of_ok {α β : Type} {p : Prog α} (f : α → Prog β) {r v : Rs} {a : α} (h : p r = (.ok a, v)) :
    (p >>= f) r = f a v := by rw [Prog.bind_eq, h]

theorem Prog.bind_of_error {α β : Type} {p : Prog α} (f : α → Prog β) {r v : Rs} {e : Stop} (h : p r = (.error e, v)) :
    (p >>= f) r = (.error e, v) := by rw [Prog.bind_eq, h]

/-- An access that was answered gives that answer again and does nothing. -/
theorem act_of_answer {r : Rs} {a : Ans} (w : Wait) (f : Nat → State → State)
    (h : (r.s.task r.id).log[r.pos]? = some a) : act w f r = (.ok a, { r with pos := r.pos + 1 }) := by
  rw [act, h]

theorem look_of_answer {r : Rs} {a : Ans} (f : State → Nat) (h : (r.s.task r.id).log[r.pos]? = some a) :
    look f r = (.ok a.val, { r with pos := r.pos + 1 }) := Prog.bind_of_ok _ (act_of_answer _ _ h)

/-- A look at a count that is not 0 parks the task on reports. -/
theorem waitDrain_parks {r : Rs} {t : Task} {tab : Nat} {ver : Bool} (ht : r.s.task r.id = t) (hlog : t.log[r.pos]? = none)
    (hover : t.over = none) (hcount : r.s.drainOf tab ver ≠ 0) :
    waitDrain tab ver r = (.error .park, { r with s := r.s.setTask r.id { t with wait := .reports } }) := by
  have hcount' (u : Task) : ¬ (r.s.setTask r.id u).drainOf tab ver = 0 := hcount
  apply Prog.bind_of_error
  simp [act, ht, hlog, hover, hcount', task_setTask_same]

/-- A descriptor that goes on and parks is left as it parked. -/
theorem runTask_of_park {s u : State} {id q slot : Nat} {half tad : Bool} {t : Task} {c : Fin_} (ht : SMap.find s.tasks id = some t)
    (hk : t.kind = .desc q slot half tad) (hfin : t.fin = none) (hending : t.ending = none) (hj : t.journaled = false)
    (hrun : runProg s id (descProg (t.eng.getD ⟨.newt, 0⟩) q t.bytes) = (u, c, .error .park)) : s.runTask id = u := by
  simp [State.runTask, State.runMain, ht, hk, hfin, hending, hj, hrun]

end Sys2Proof.Machine
end
section
/-! O27: the counterexample, a list of running work that gives one number to two descriptors. -/

namespace Sys2Proof.Machine

/-- An EMB_SWITCH SUBOP 2 of a table, in slot 3 of queue 5. -/
def switchTask (tab : Byte) : Task :=
  { kind := .desc 5 3 false false, src := .queue 5, ctx := 0
    bytes := [0x52, 0, 2] ++ List.replicate 13 0 ++ [tab] ++ List.replicate 47 0 }

/-- A directory entry: VALID, CUR 0, of context 0. -/
def entryOfOne : List Byte := 1 :: List.replicate 63 0

/-- The answers that a switch has had before it waits for its count: EN, the entry's address, that the entry is at this home, the
home's three checks, the entry and the count taken. -/
def entryRead : List Ans :=
  [{ val := 1 }, {}, { val := 1 }, {}, {}, {}, { data := entryOfOne }, {}]

/-- A switch of table 1 that has read its directory entry. -/
def switchOfOne : Task := { switchTask 1 with eng := some ⟨.emb, 0⟩, log := entryRead }

/-- A switch of table 0 that waits for a count. -/
def switchOfZero : Task := { switchTask 0 with wait := .reports }

/-- Both switches under number 0, and one count that is not 0: that of version 1 of table 1. -/
def twice : State :=
  { State.reset with
    tasks := [(0, switchOfOne), (0, switchOfZero)]
    eng := { State.reset.eng with drain := [(drainKey 1 true, 1)] } }

theorem twice_drainOf_zero (ver : Bool) : twice.drainOf 0 ver = 0 := by cases ver <;> rfl

theorem twice_drainOf_one : twice.drainOf 1 true ≠ 0 := by decide

theorem twice_waitingFor : twice.waitingFor (Task.switchOf 0) = [0] := by decide

section
variable {s : State} (ht : s.task 0 = switchOfOne)
include ht

/-- The first eight accesses of the switch of table 1 have their answers. -/
theorem act_switchOfOne {i : Nat} (hi : i < 8) (c : Fin_) (w : Wait) (f : Nat → State → State) :
    act w f ⟨s, 0, i, c⟩ = (.ok (entryRead[i]'hi), ⟨s, 0, i + 1, c⟩) := by
  refine act_of_answer w f ?_
  rw [ht]
  exact List.getElem?_eq_getElem hi

theorem look_switchOfOne {i : Nat} (hi : i < 8) (c : Fin_) (f : State → Nat) :
    look f ⟨s, 0, i, c⟩ = (.ok (entryRead[i]'hi).val, ⟨s, 0, i + 1, c⟩) :=
  Prog.bind_of_ok _ (act_switchOfOne ht hi ..)

/-- Run again, the switch of table 1 reads its directory entry from the answers it has had. -/
theorem ownRead_switchOfOne (c : Fin_) : ownRead 0 64 ⟨s, 0, 2, c⟩ = (.ok { data := entryOfOne }, ⟨s, 0, 7, c⟩) := by
  have hlen : entryOfOne.take 64 = entryOfOne := rfl
  simp [-bind_pure_comp, ownRead, homeRequest, change, lineAccess, entryRead, hlen, Prog.bind_eq, Prog.pure_eq,
    look_switchOfOne ht, act_switchOfOne ht]

theorem embEntry_switchOfOne (c : Fin_) : embEntry 1 ⟨s, 0, 0, c⟩ = (.ok entryOfOne, ⟨s, 0, 7, c⟩) := by
  have hvalid : bit (fieldLE entryOfOne 0 1) 0 = true := by decide
  have hctx : fieldLE entryOfOne 2 2 = switchOfOne.ctx := by decide
  simp [-bind_pure_comp, embEntry, myCtx, me, need, ok, entryRead, ht, hvalid, hctx, Prog.bind_eq, Prog.pure_eq,
    look_switchOfOne ht, ownRead_switchOfOne ht]

/-- It then waits for the other count of table 1, which is not 0. -/
theorem embWait_switchOfOne (hd : s.drainOf 1 true ≠ 0) (c : Fin_) :
    ∃ c', embWait switchOfOne.bytes ⟨s, 0, 0, c⟩ =
      (.error .park, ⟨s.setTask 0 { switchOfOne with wait := .reports }, 0, 8, c'⟩) := by
  have htab : bits (dOp switchOfOne.bytes 0) 9 0 = 1 := by decide
  have hcur : embCur entryOfOne = false := by decide
  have hpark (c : Fin_) := waitDrain_parks (r := ⟨s, 0, 8, c⟩) ht rfl rfl hd
  simp [embWait, htab, hcur, switchResult, progress, Prog.bind_eq, embEntry_switchOfOne ht, look_switchOfOne ht, hpark]
  exact ⟨_, rfl⟩

end

theorem descProg_switchOfOne (q : Nat) : descProg ⟨.emb, 0⟩ q switchOfOne.bytes = embWait switchOfOne.bytes := by
  rfl

/-- Run again, the switch of table 1 waits on. -/
theorem runTask_switchOfOne {s : State} (h : SMap.find s.tasks 0 = some switchOfOne) (hd : s.drainOf 1 true ≠ 0) :
    ∃ x, SMap.find (s.runTask 0).tasks 0 = some x ∧ x.wait = .reports := by
  obtain ⟨c', hwait⟩ := embWait_switchOfOne (task_of_find h) hd { st := .ok }
  let u := s.setTask 0 { switchOfOne with wait := .reports }
  have hprog : runProg s 0 (descProg ⟨.emb, 0⟩ 5 switchOfOne.bytes) =
      (u.setTask 0 { u.task 0 with cur := c' }, c', .error .park) := by
    rw [runProg, descProg_switchOfOne, hwait]
  have hrun : s.runTask 0 = u.setTask 0 { u.task 0 with cur := c' } := runTask_of_park h rfl rfl rfl rfl hprog
  refine ⟨{ u.task 0 with cur := c' }, hrun ▸ SMap.find_put_same .., ?_⟩
  exact congrArg Task.wait (task_setTask_same s 0 _)

/-- Refutes O27, by its clause of DRAIN_COUNT_ZERO (R404): where the list of running work gives number 0 to two descriptors, the
switch of table 0 that waits is found by its wait, and the switch of table 1 under the same number goes on. It waits for a count
of table 1, while both counts of table 0 are 0. Such a list is not canonical (`SMap.rising`), but the statement speaks of every state. -/
theorem not_waitsEnd : ¬ Obligations.WaitsEnd := by
  unfold Obligations.WaitsEnd
  rintro ⟨-, -, -, -, hswitch⟩
  obtain ⟨u, rfl, -, hu⟩ :=
    hswitch 0 false twice 0 switchOfOne (twice_drainOf_zero false) twice_waitingFor rfl ⟨rfl, rfl, rfl, rfl⟩
  obtain ⟨x, hx, hw⟩ := runTask_switchOfOne (s := { twice with tasks := SMap.put twice.tasks 0 switchOfOne })
    (SMap.find_put_same ..) twice_drainOf_one
  exact hu x hx hw (twice_drainOf_zero true)

end Sys2Proof.Machine
end

section
/-! SUPPORT. Commands about hosts and domains: events leave the tiers alone. -/

namespace Sys2Proof.Machine

/-! ## Events and the tiers (R529 to R531) -/

theorem openEvent_tier (s : State) (e : Ev) (i : EvInfo) : (s.openEvent e i).1.tier = s.tier := by
  unfold State.openEvent
  dsimp only
  split
  · rfl
  · split
    · rfl
    · split
      · rfl
      · split
        · rfl
        · split
          · rfl
          · split <;> rfl

theorem advise_tier (s : State) (kind severity scope : Nat) (object : PartId) (value : Nat) (rec_ : Option Nat) (detail : Nat) :
    (s.advise kind severity scope object value rec_ detail).tier = s.tier := by
  unfold State.advise
  dsimp only
  split <;> rfl

theorem reserveCheck_tier (s : State) (n : Nat) : (s.reserveCheck n).tier = s.tier := by
  unfold State.reserveCheck
  split
  · exact (advise_tier ..).trans (openEvent_tier ..)
  · rfl

theorem eventSeq_tier (s : State) (e : Ev) (i : EvInfo) : (s.eventSeq e i).1.tier = s.tier := by
  have hopen : ((s.openEvent e i).1.reserveCheck s.ras.nextSeq).tier = s.tier :=
    (reserveCheck_tier ..).trans (openEvent_tier ..)
  unfold State.eventSeq
  split
  · exact hopen
  · split
    · dsimp only
      split <;> rfl
    · exact hopen

/-- Everything but the recorder, health and containment data, advisories and replies is as it was. -/
def State.OnlyRecords (s t : State) : Prop :=
  ∃ r q p, t = { s with ras := r, ringq := q, out := { s.out with replies := p } }

theorem State.OnlyNotes.onlyRecords {s t : State} (h : s.OnlyNotes t) (htier : t.tier = s.tier) : s.OnlyRecords t := by
  obtain ⟨r, q, p, i, rfl, -⟩ := h
  obtain rfl : i = s.tier := htier
  exact ⟨r, q, p, rfl⟩

theorem event_onlyRecords (s : State) (e : Ev) (i : EvInfo) : s.OnlyRecords (s.event e i) :=
  (event_onlyNotes s e i).onlyRecords (eventSeq_tier s e i)

theorem eventAdvise_tier (s : State) (e : Ev) (i : EvInfo) (value : Nat) : (s.eventAdvise e i value).tier = s.tier :=
  (advise_tier ..).trans (eventSeq_tier s e i)

theorem eventAdvise_onlyRecords (s : State) (e : Ev) (i : EvInfo) (value : Nat) : s.OnlyRecords (s.eventAdvise e i value) :=
  (eventAdvise_onlyNotes s e i value).onlyRecords (eventAdvise_tier ..)

theorem healthState_tier (s : State) (p : PartId) (st : Nat) (e : Ev) : (s.healthState p st e).tier = s.tier :=
  eventAdvise_tier (s.setHealth p _) e _ _

/-- Only a stack or a package has frames that a retirement takes away (R100). -/
theorem raiseScore_tier (s : State) {p : PartId} (h : ¬ (p.kind = 1 ∨ p.kind = 2)) (new : Nat) :
    (s.raiseScore p new).tier = s.tier := by
  have hretire (t : State) : (t.startRetire p).tier = t.tier := by rw [State.startRetire, if_neg h]
  unfold State.raiseScore
  dsimp only
  generalize hset : s.setHealth p { s.health p with score := new } = t
  have ht : t.tier = s.tier := hset ▸ rfl
  generalize hadv : (if (s.health p).st = 0 ∧ s.advisePoint p.kind.toNat ≤ new then t.healthState p 1 .healthAdvise else t) = u
  have hu : u.tier = s.tier := by
    rw [← hadv]
    split
    · exact (healthState_tier ..).trans ht
    · exact ht
  split
  · split
    · exact (hretire _).trans ((healthState_tier ..).trans hu)
    · split
      · exact (healthState_tier ..).trans hu
      · exact hu
  · exact hu

theorem score_onlyRecords (s : State) {p : PartId} (h : ¬ (p.kind = 1 ∨ p.kind = 2)) (e : PartEvent) :
    s.OnlyRecords (s.score p e) := by
  refine (score_onlyNotes s p e).onlyRecords ?_
  unfold State.score
  dsimp only
  split
  · rfl
  · exact raiseScore_tier _ h _

end Sys2Proof.Machine
end

section
/-! O37: hosts and coherence domains return (R194, R215, R220, R221). -/

namespace Sys2Proof.Machine

/-! ## Hosts (R194, R221) -/

/-- Host n is up again and holds nothing, its VALID as given (R194, R221). -/
def State.hostBack (s : State) (n valid : Nat) : State :=
  ((s.setFld (Reg.HOME_HOST n) Reg.HOME_HOST_VALID valid).setFld (Reg.HOME_HOST n) Reg.HOME_HOST_DOWN 0).setFld
    (Reg.HOME_HOST n) Reg.HOME_HOST_DOWN_CAUSE 0

theorem writeHomeHost_down {s : State} {via : Via} {n : Nat} {v : Word} (hsec : s.secureVia via = true)
    (hdown : s.flag (Reg.HOME_HOST n) Reg.HOME_HOST_DOWN = true) (hbusy : s.hostRecovering n = false)
    (hv : newFld Reg.HOME_HOST_DOWN v = 0) (hvalid : s.flag (Reg.HOME_HOST n) Reg.HOME_HOST_VALID = true) :
    s.writeHomeHost via n v = s.hostBack n (newFld Reg.HOME_HOST_VALID v) := by
  have hlt : newFld Reg.HOME_HOST_VALID v < 2 := Fld.get_lt ..
  obtain h | h : newFld Reg.HOME_HOST_VALID v = 1 ∨ newFld Reg.HOME_HOST_VALID v = 0 := by omega
  · simp [State.writeHomeHost, State.hostBack, hsec, hdown, hbusy, hv, hvalid, h]
  · simp [State.writeHomeHost, State.hostBack, hsec, hdown, hbusy, hv, hvalid, h]

theorem exec_hostReturn {via : Via} {n : Fin 64} {v : Word} {s : State} (hm : s.mayWrite via (Reg.HOME_HOST n.val).off = true)
    (hv : newFld Reg.HOME_HOST_DOWN v = 0) : exec (.hostReturn via n v) s = done s (s.writeHomeHost via n.val v) :=
  congrArg (done s) (if_pos ⟨hm, hv⟩)

theorem exec_hostInvalidate {via : Via} {n : Fin 64} {v : Word} {s : State}
    (hm : s.mayWrite via (Reg.HOME_HOST n.val).off = true) (hv : newFld Reg.HOME_HOST_VALID v = 0) :
    exec (.hostInvalidate via n v) s = done s (s.writeHomeHost via n.val v) :=
  congrArg (done s) (if_pos ⟨hm, hv⟩)

theorem hostBack_onlyReg (s : State) (n valid : Nat) : s.OnlyReg (s.hostBack n valid) (Reg.HOME_HOST n) :=
  ((setFld_onlyReg ..).trans (setFld_onlyReg ..)).trans (setFld_onlyReg ..)

/-- Fields of `HOME_HOST_n` apart from DOWN and DOWN_CAUSE. -/
theorem hostBack_fld_of_apart (s : State) (n valid : Nat) {g : Fld} (hdown : Reg.HOME_HOST_DOWN.Apart g)
    (hcause : Reg.HOME_HOST_DOWN_CAUSE.Apart g) : (s.hostBack n valid).fld (Reg.HOME_HOST n) g =
      (s.setFld (Reg.HOME_HOST n) Reg.HOME_HOST_VALID valid).fld (Reg.HOME_HOST n) g := by
  rw [State.hostBack, fld_setFld_field _ _ _ (by decide) (by decide) hcause,
    fld_setFld_field _ _ _ (by decide) (by decide) hdown]

theorem hostBack_valid (s : State) (n valid : Nat) :
    (s.hostBack n valid).fld (Reg.HOME_HOST n) Reg.HOME_HOST_VALID = valid % 2 := by
  rw [hostBack_fld_of_apart _ _ _ (by decide) (by decide), fld_setFld_same _ _ _ (by decide) (by decide)]
  rfl

theorem hostBack_head (s : State) (n valid : Nat) :
    (s.hostBack n valid).fld (Reg.HOME_HOST n) Reg.HOME_HOST_HEAD = s.fld (Reg.HOME_HOST n) Reg.HOME_HOST_HEAD := by
  rw [hostBack_fld_of_apart _ _ _ (by decide) (by decide), fld_setFld_field _ _ _ (by decide) (by decide) (by decide)]

theorem hostBack_cause (s : State) (n valid : Nat) :
    (s.hostBack n valid).fld (Reg.HOME_HOST n) Reg.HOME_HOST_DOWN_CAUSE = 0 := by
  rw [State.hostBack, fld_setFld_same _ _ _ (by decide) (by decide)]
  rfl

theorem hostBack_up (s : State) (n valid : Nat) :
    (s.hostBack n valid).flag (Reg.HOME_HOST n) Reg.HOME_HOST_DOWN = false := by
  rw [flag_eq_false, State.hostBack, fld_setFld_field _ _ _ (by decide) (by decide) (by decide), ← flag_eq_false]
  exact flag_setFld_zero _ _ (by decide) (by decide)

/-! ## Domains (R215 step 6, R220) -/

theorem cdomState_ne {d k : Nat} (h : d ≠ k) : (Reg.HOME_CDOM_STATE d).off ≠ (Reg.HOME_CDOM_STATE k).off := by
  simp only [Reg.HOME_CDOM_STATE]; omega

theorem exec_restart {via : Via} {d : Fin 256} {s : State} (hm : s.mayWrite via (Reg.HOME_CDOM_STATE d.val).off = true) :
    exec (.restart via d) s = done s (s.writeDomState via d.val 4) :=
  congrArg (done s) (if_pos hm)

theorem writeDomState_restarts {s : State} {via : Via} {d : Nat} (hsec : s.secureVia via = true) (hdown : s.domState d = 2)
    (hup : ∀ n, n < 64 → s.domLists d n = true → s.flag (Reg.HOME_HOST n) Reg.HOME_HOST_DOWN = false) :
    s.writeDomState via d 4 = s.setFld (Reg.HOME_CDOM_STATE d) Reg.HOME_CDOM_STATE_STATE 0 := by
  have hrestart : newFld Reg.HOME_CDOM_STATE_RESTART 4 = 1 := by decide
  have hall : ((List.range 64).all fun n => !s.domLists d n || !s.flag (Reg.HOME_HOST n) Reg.HOME_HOST_DOWN) = true := by
    refine List.all_eq_true.2 fun n hn => ?_
    cases hl : s.domLists d n with
    | false => rfl
    | true => rw [hup n (List.mem_range.1 hn) hl]; rfl
  rw [State.writeDomState, hsec, hrestart, if_neg (by decide), if_pos ⟨hdown, hall⟩]

/-- A domain becomes DOWN, with its record. -/
def State.domainDown (s : State) (d : Nat) : State :=
  (s.setFld (Reg.HOME_CDOM_STATE d) Reg.HOME_CDOM_STATE_STATE 2).event .domainState
    { object := obj 0x15 d, cause := 2, extra := s.fld (Reg.HOME_CDOM_STATE d) Reg.HOME_CDOM_STATE_POISONED }

theorem exec_domainDown {s : State} (h : s.recoveryDone = true) : exec .domainDown s =
    done s (((List.range 256).filter fun d => s.domState d = 1).foldl State.domainDown s) :=
  congrArg (done s) (if_pos h)

theorem State.OnlyRecords.reg_eq {s t : State} (h : s.OnlyRecords t) (r : RegId) : t.reg r = s.reg r := by
  obtain ⟨_, _, _, rfl⟩ := h; rfl

theorem domainDown_domState (s : State) (d k : Nat) : (s.domainDown d).domState k = if k = d then 2 else s.domState k := by
  have hrec := event_onlyRecords (s.setFld (Reg.HOME_CDOM_STATE d) Reg.HOME_CDOM_STATE_STATE 2) .domainState
    { object := obj 0x15 d, cause := 2, extra := s.fld (Reg.HOME_CDOM_STATE d) Reg.HOME_CDOM_STATE_POISONED }
  rw [State.domainDown, State.domState, fld_congr _ (hrec.reg_eq _)]
  split
  next h => subst h; exact fld_setFld_same _ _ _ (by decide) (by decide)
  next h => exact fld_setFld_other _ _ _ _ (cdomState_ne h)

theorem domainDown_home (s : State) (d : Nat) : (s.domainDown d).dir = s.dir ∧ (s.domainDown d).tier = s.tier := by
  obtain ⟨_, _, _, h⟩ := event_onlyRecords (s.setFld (Reg.HOME_CDOM_STATE d) Reg.HOME_CDOM_STATE_STATE 2) .domainState
    { object := obj 0x15 d, cause := 2, extra := s.fld (Reg.HOME_CDOM_STATE d) Reg.HOME_CDOM_STATE_POISONED }
  rw [State.domainDown, h]
  exact ⟨rfl, rfl⟩

theorem foldl_domainDown (l : List Nat) (s : State) :
    (∀ k, (l.foldl State.domainDown s).domState k = if k ∈ l then 2 else s.domState k) ∧
    (l.foldl State.domainDown s).dir = s.dir ∧ (l.foldl State.domainDown s).tier = s.tier := by
  induction l generalizing s with
  | nil => simp
  | cons d l ih =>
    obtain ⟨hstate, hdir, htier⟩ := ih (s.domainDown d)
    obtain ⟨hdir', htier'⟩ := domainDown_home s d
    refine ⟨fun k => ?_, hdir.trans hdir', htier.trans htier'⟩
    rw [List.foldl_cons, hstate, domainDown_domState]
    by_cases hk : k ∈ l
    · simp [hk]
    · simp [hk]

/-- Settles O37: each write of the host's or the domain's register takes effect, and DOMAIN_DOWN moves each domain that recovers. -/
theorem hostsAndDomainsReturn : Obligations.HostsAndDomainsReturn := by
  refine ⟨fun via n v s hs hm hsec hdown hbusy hv hvalid => ?_, fun via d s hs hm hsec hdown hup => ?_, fun s hrec => ?_⟩
  · have hwrite := writeHomeHost_down hsec hdown hbusy hv hvalid
    have hback := hostBack_onlyReg s n.val (newFld Reg.HOME_HOST_VALID v)
    refine ⟨fun hv1 => ⟨s.hostBack n.val 1, ?_, hv1 ▸ hback, hostBack_up .., hostBack_cause .., ?_, hostBack_head ..⟩,
      fun hv0 => ⟨s.hostBack n.val 0, ?_, hv0 ▸ hback, ?_⟩⟩
    · rw [exec_hostReturn hm hv, hwrite, done_of_onlyReg hs hback, hv1]
    · rw [flag_eq_true, hostBack_valid]
    · rw [exec_hostInvalidate hm hv0, hwrite, done_of_onlyReg hs hback, hv0]
    · rw [flag_eq_false, hostBack_valid]
      decide
  · have honly := setFld_onlyReg s (Reg.HOME_CDOM_STATE d.val) Reg.HOME_CDOM_STATE_STATE 0
    refine ⟨_, ?_, honly, fld_setFld_same _ _ _ (by decide) (by decide)⟩
    rw [exec_restart hm, writeDomState_restarts hsec hdown hup, done_of_onlyReg hs honly]
  · obtain ⟨hstate, hdir, htier⟩ := foldl_domainDown ((List.range 256).filter fun d => s.domState d = 1) s
    refine ⟨_, exec_domainDown hrec, fun d hd => ?_, hdir, htier⟩
    rw [hstate]
    simp [hd]

end Sys2Proof.Machine
end

section
/-! O35: what hosts answer to snoops (R203 to R205). -/

namespace Sys2Proof.Machine

/-- The answer of awaited host n stands in its line's entry; `kept` when it keeps a shared copy (R203). -/
def DirEnt.answered (e : DirEnt) (n : Nat) (kept : Bool) : DirEnt :=
  { e with awaited := putBit e.awaited n false, keep := e.keep || kept }

theorem answerSnoop_of_find {s : State} {line : Nat} {e : DirEnt} (h : SMap.find s.dir line = some e) (n : Nat) (kept : Bool) :
    s.answerSnoop line n kept =
      let u : State := { s with dir := SMap.put s.dir line (e.answered n kept) }
      if putBit e.awaited n false = 0 then u.pump else u := by
  simp only [State.answerSnoop, h]
  rfl

theorem biRsp_of_awaited {s : State} {r : HostMsg} {k l : Nat} {e : DirEnt} {kept : Bool}
    (harr : s.memArrives r.head.val = true) (hlive : s.live = true) (hknown : s.hostKnown r = true)
    (hdec : s.hostDecode r.head.val r.hpa.toNat = some (k, l)) (hfind : SMap.find s.dir (l / 64) = some e)
    (hawait : bit e.awaited r.host.val = true) (hkept : kept = false ∨ e.st = .mData) :
    s.biRsp r kept = (s.answerSnoop (l / 64) r.host.val kept).go := by
  rcases hkept with rfl | hst
  · simp [State.biRsp, harr, hlive, hknown, hdec, hfind, hawait]
  · simp [State.biRsp, harr, hlive, hknown, hdec, hfind, hawait, hst]

theorem exec_biConflict {s : State} {r : HostMsg} (hs : s.Quiet) (harr : s.memArrives r.head.val = true) :
    exec (.biConflict r) s = .next (s.toHost r.head.val r.host.val (s.hostLine r) .biConflictAck) := by
  have hexec : exec (.biConflict r) s = done s (s.toHost r.head.val r.host.val (s.hostLine r) .biConflictAck) :=
    congrArg (done s) (if_pos harr)
  exact hexec.trans (done_of_quiet hs rfl rfl rfl rfl rfl)

/-- Settles O35: both answers are `biRsp`, which leaves the answer in the entry and settles a line that awaits no other. -/
theorem hostsAnswerSnoops : Obligations.HostsAnswerSnoops := by
  refine fun r s harr => ⟨fun k l e hlive hknown hdec hfind hawait c hc hkept => ?_, fun hs => exec_biConflict hs harr⟩
  have hanswer {kept : Bool} (h : kept = false ∨ e.st = .mData) :=
    (biRsp_of_awaited harr hlive hknown hdec hfind hawait h).trans (congrArg State.go (answerSnoop_of_find hfind _ kept))
  refine ⟨{ s with dir := SMap.put s.dir (l / 64) (e.answered r.host.val c.2) }, ?_, ⟨_, rfl⟩,
    fun k hk => SMap.find_put_other _ _ hk, SMap.find_put_same ..⟩
  rcases List.mem_pair.1 hc with rfl | rfl
  · exact congrArg (done s) (hanswer hkept)
  · exact congrArg (done s) (hanswer hkept)

end Sys2Proof.Machine
end

section
/-! O36: a host goes down, and what becomes of its lines (R198, R213 to R215). -/

namespace Sys2Proof.Machine

/-! ## What a change of one line's entry leaves alone -/

/-- Only the entry and the poison of a line have changed, with the counts of domains: poison stays, and so do other lines' entries. -/
structure State.ChangesLine (s t : State) (line : Nat) : Prop where
  shape : ∃ w d p k, t = { s with regs := w, dir := d, tier := { s.tier with poison := p, stables := k } }
  other : ∀ k, k ≠ line → SMap.find t.dir k = SMap.find s.dir k
  poison : ∀ c, SMap.get s.tier.poison c false = true → SMap.get t.tier.poison c false = true
  regs : ∀ q : RegId, q.off < 0x401000 → t.reg q = s.reg q

namespace State.ChangesLine

variable {s t u : State} {line : Nat}

theorem refl (s : State) (line : Nat) : s.ChangesLine s line :=
  ⟨⟨s.regs, s.dir, s.tier.poison, s.tier.stables, rfl⟩, fun _ _ => rfl, fun _ h => h, fun _ _ => rfl⟩

theorem trans (h : s.ChangesLine t line) (h' : t.ChangesLine u line) : s.ChangesLine u line := by
  obtain ⟨⟨_, _, _, _, rfl⟩, hother, hpoison, hregs⟩ := h
  obtain ⟨⟨w, d, p, k, rfl⟩, hother', hpoison', hregs'⟩ := h'
  exact ⟨⟨w, d, p, k, rfl⟩, fun i hi => (hother' i hi).trans (hother i hi), fun c hc => hpoison' c (hpoison c hc),
    fun q hq => (hregs' q hq).trans (hregs q hq)⟩

theorem waitq_eq (h : s.ChangesLine t line) : t.waitq = s.waitq := by obtain ⟨⟨_, _, _, _, rfl⟩, -⟩ := h; rfl

theorem cell_eq (h : s.ChangesLine t line) (a : Nat) : t.cell a = s.cell a := by obtain ⟨⟨_, _, _, _, rfl⟩, -⟩ := h; rfl

/-- A line that reads as poison still does. -/
theorem linePoison (h : s.ChangesLine t line) {k : Nat} (hk : s.linePoison k = true) : t.linePoison k = true := by
  have hcell := h.cell_eq (k * 64)
  unfold State.linePoison at hk ⊢
  rw [hcell]
  cases hc : s.cell (k * 64) with
  | none => rw [hc] at hk; cases hk
  | some c => rw [hc] at hk; exact h.poison _ hk

end State.ChangesLine

theorem putDir_changesLine (s : State) (line : Nat) (e : DirEnt) (k : Nat) : s.ChangesLine
    { s with dir := SMap.put s.dir line e, tier := { s.tier with stables := k } } line :=
  ⟨⟨s.regs, _, s.tier.poison, k, rfl⟩, fun _ hk => SMap.find_put_other _ _ hk, fun _ h => h, fun _ _ => rfl⟩

theorem putStable_changesLine (s : State) (line : Nat) (e : DirEnt) : s.ChangesLine (s.putStable line e) line := by
  unfold State.putStable
  split
  · split <;> exact putDir_changesLine ..
  · exact putDir_changesLine ..

theorem dirI_changesLine (s : State) (line : Nat) : s.ChangesLine (s.dirI line) line :=
  ⟨⟨s.regs, _, s.tier.poison, s.tier.stables, rfl⟩, fun _ hk => SMap.find_del_other _ hk, fun _ h => h, fun _ _ => rfl⟩

theorem dirS_changesLine (s : State) (line sharers : Nat) : s.ChangesLine (s.dirS line sharers) line := by
  unfold State.dirS
  split
  · exact dirI_changesLine ..
  · exact putStable_changesLine ..

theorem setPoison_keeps (m : SMap Bool) (k : Nat) {c : Nat} (h : SMap.get m c false = true) :
    SMap.get (SMap.set m k true false) c false = true := by
  by_cases hc : c = k
  · rw [hc, SMap.get_set_same]
  · rw [SMap.get_set_other _ _ _ _ hc, h]

theorem addPoison_changesLine (s : State) (line c : Nat) : s.ChangesLine
    { s with tier := { s.tier with poison := SMap.set s.tier.poison c true false } } line :=
  ⟨⟨s.regs, s.dir, _, s.tier.stables, rfl⟩, fun _ _ => rfl, fun _ h => setPoison_keeps _ _ h, fun _ _ => rfl⟩

theorem setLinePoison_changesLine (s : State) (line k : Nat) : s.ChangesLine (s.setLinePoison k true) line := by
  unfold State.setLinePoison
  split
  · exact .refl s line
  · exact addPoison_changesLine ..

theorem poisonHome_changesLine (s : State) (line : Nat) : (s.setLinePoison line true).ChangesLine (s.poisonHome line) line := by
  unfold State.poisonHome
  dsimp only
  split
  · exact addPoison_changesLine ..
  · exact .refl _ line

theorem bump_changesLine (s : State) (line d : Nat) (f : Fld) (n : Nat) :
    s.ChangesLine (s.bump (Reg.HOME_CDOM_STATE d) f n) line :=
  ⟨⟨_, s.dir, s.tier.poison, s.tier.stables, rfl⟩, fun _ _ => rfl, fun _ h => h,
    fun q hq => reg_setFld_other _ _ _ (by simp only [Reg.HOME_CDOM_STATE]; omega)⟩

/-! ## Host n leaves a line's entry (R215 steps 3 and 4) -/

theorem loseOwner_poisons {s : State} {line : Nat} {e : DirEnt} (h : e.wrote = false) :
    (s.setLinePoison line true).ChangesLine (s.loseOwner line e) line := by
  have hpoison := poisonHome_changesLine s line
  unfold State.loseOwner
  rw [if_neg (by simp [h])]
  dsimp only
  split
  · exact hpoison.trans (bump_changesLine ..)
  · exact hpoison

theorem loseOwner_changesLine (s : State) (line : Nat) (e : DirEnt) : s.ChangesLine (s.loseOwner line e) line := by
  cases h : e.wrote with
  | false => exact (setLinePoison_changesLine ..).trans (loseOwner_poisons h)
  | true => rw [State.loseOwner, if_pos h]; exact .refl s line

theorem leaveLine_changesLine (s : State) (n line : Nat) (e : DirEnt) : s.ChangesLine (s.leaveLine n line e) line := by
  have hput (t : State) (e : DirEnt) : t.ChangesLine { t with dir := SMap.put t.dir line e } line :=
    putDir_changesLine t line e t.tier.stables
  unfold State.leaveLine
  split
  · split
    · exact dirS_changesLine ..
    · exact .refl s line
  · split
    · exact (loseOwner_changesLine ..).trans (dirI_changesLine ..)
    · exact .refl s line
  · exact hput ..
  all_goals
    split
    · exact (loseOwner_changesLine ..).trans (hput ..)
    · exact .refl s line

/-- A line that host n owned has no entry, and reads as poison unless n has written it back. -/
def State.LineLost (t : State) (line : Nat) (wrote : Bool) : Prop :=
  SMap.find t.dir line = none ∧ (wrote = false → (t.cell (line * 64)).isSome → t.linePoison line = true)

theorem leaveLine_loses {s : State} {n line : Nat} {e : DirEnt} (hst : e.st = .m) (howner : e.owner = n) :
    (s.leaveLine n line e).LineLost line e.wrote := by
  have heq : s.leaveLine n line e = (s.loseOwner line e).dirI line := by
    simp only [State.leaveLine, hst, howner, if_true]
  rw [heq]
  refine ⟨SMap.find_del_same .., fun hwrote hcell => ?_⟩
  have hpoison := loseOwner_poisons (s := s) (line := line) hwrote
  have hdir := hpoison.trans (dirI_changesLine _ line)
  refine hdir.linePoison (linePoison_setLinePoison true ?_)
  rwa [hdir.cell_eq, setLinePoison_cell] at hcell

/-- Another line's entry changes nothing of a line that is lost. -/
theorem State.LineLost.changesLine {s t : State} {line k : Nat} {wrote : Bool} (h : s.LineLost line wrote)
    (ht : s.ChangesLine t k) (hk : line ≠ k) : t.LineLost line wrote :=
  ⟨(ht.other _ hk).trans h.1, fun hw hc => ht.linePoison (h.2 hw (ht.cell_eq _ ▸ hc))⟩

/-- Host n leaves each entry of a list (R215 steps 3 and 4). -/
def State.leaveAll (s : State) (n : Nat) (l : SMap DirEnt) : State := l.foldl (fun s e => s.leaveLine n e.1 e.2) s

theorem leaveAll_waitq (l : SMap DirEnt) (s : State) (n : Nat) : (s.leaveAll n l).waitq = s.waitq := by
  induction l generalizing s with
  | nil => rfl
  | cons x l ih => exact (ih _).trans (leaveLine_changesLine ..).waitq_eq

theorem leaveAll_cell (l : SMap DirEnt) (s : State) (n a : Nat) : (s.leaveAll n l).cell a = s.cell a := by
  induction l generalizing s with
  | nil => rfl
  | cons x l ih => exact (ih _).trans ((leaveLine_changesLine ..).cell_eq a)

theorem leaveAll_reg (l : SMap DirEnt) (s : State) (n : Nat) {q : RegId} (hq : q.off < 0x401000) :
    (s.leaveAll n l).reg q = s.reg q := by
  induction l generalizing s with
  | nil => rfl
  | cons x l ih => exact (ih _).trans ((leaveLine_changesLine ..).regs q hq)

/-- The one entry of a line that host n owns is among those it leaves. -/
theorem leaveAll_loses {l : SMap DirEnt} {n line : Nat} {e : DirEnt} (hst : e.st = .m) (howner : e.owner = n)
    (honly : ∀ x ∈ l, x.1 = line → x.2 = e) {s : State}
    (h : s.LineLost line e.wrote ∨ ∃ x ∈ l, x.1 = line) : (s.leaveAll n l).LineLost line e.wrote := by
  induction l generalizing s with
  | nil => exact h.resolve_right fun ⟨_, hx, _⟩ => absurd hx List.not_mem_nil
  | cons x l ih =>
    obtain ⟨k, x⟩ := x
    refine ih (fun y hy => honly y (List.mem_cons_of_mem _ hy)) ?_
    by_cases hk : k = line
    · obtain rfl : x = e := honly _ (List.mem_cons_self ..) hk
      exact .inl (hk ▸ leaveLine_loses hst howner)
    · rcases h with h | ⟨y, hy, hline⟩
      · exact .inl (h.changesLine (leaveLine_changesLine ..) (Ne.symm hk))
      · refine .inr ⟨y, (List.mem_cons.1 hy).resolve_left fun hyx => hk ?_, hline⟩
        rw [← hline, hyx]

/-! ## Steps 1 to 3 (R215) -/

/-- Host n is marked as down, with the cause (R213). -/
def State.markDown (s : State) (n cause : Nat) : State :=
  (s.setFld (Reg.HOME_HOST n) Reg.HOME_HOST_DOWN 1).setFld (Reg.HOME_HOST n) Reg.HOME_HOST_DOWN_CAUSE cause

/-- The event to the domain manager (R214). -/
def State.tellDown (s : State) (n cause : Nat) : State :=
  if 2 ≤ cause then s.eventAdvise .hostDown { object := obj 0x14 n, cause := cause } cause else s

/-- Each domain that lists host n enters RECOVERING. -/
def State.enterAll (s : State) (n : Nat) (l : List Nat) : State := l.foldl (fun s d => s.enterRecovery n d) s

/-- Steps 1 to 3: host n is down, its domains recover, and its waiting requests are dropped. -/
def State.cutHost (s : State) (n cause : Nat) : State :=
  (((s.markDown n cause).tellDown n cause).enterAll n (List.range 256)).dropHostReqs n

/-- Step 4: host n has left every entry, and the lines lost are on their way to the poison log. -/
def State.leaveDir (s : State) (n cause : Nat) : State :=
  { s.leaveAll n s.dir with ringq := s.ringq ++ s.poisonRecs n cause (s.lostLines n) }

/-- Steps 1 to 4. -/
def State.lostHost (s : State) (n cause : Nat) : State := (s.cutHost n cause).leaveDir n cause

theorem declareDown_of_up {s : State} {n : Nat} (h : s.flag (Reg.HOME_HOST n) Reg.HOME_HOST_DOWN = false) (cause : Nat) :
    s.declareDown n cause = ((s.lostHost n cause).flushRecovering.pump.recallRecovering).go := by
  rw [State.declareDown, h, if_neg Bool.false_ne_true]
  unfold State.lostHost State.leaveDir State.cutHost State.leaveAll State.enterAll State.tellDown State.markDown
  rfl

theorem markDown_down (s : State) (n cause : Nat) : (s.markDown n cause).flag (Reg.HOME_HOST n) Reg.HOME_HOST_DOWN = true := by
  rw [flag_eq_true, State.markDown, fld_setFld_field _ _ _ (by decide) (by decide) (by decide), ← flag_eq_true]
  exact flag_setFld_one _ _ (by decide) (by decide)

theorem markDown_cause (s : State) (n : Nat) {cause : Nat} (h : cause < 8) :
    (s.markDown n cause).fld (Reg.HOME_HOST n) Reg.HOME_HOST_DOWN_CAUSE = cause :=
  (fld_setFld_same _ _ _ (by decide) (by decide)).trans (Nat.mod_eq_of_lt h)

/-- The directory, the tiers and the requests that wait are as they were. -/
def State.KeepsLines (s t : State) : Prop := t.dir = s.dir ∧ t.tier = s.tier ∧ t.waitq = s.waitq

theorem State.KeepsLines.trans {s t u : State} (h : s.KeepsLines t) (h' : t.KeepsLines u) : s.KeepsLines u := by
  obtain ⟨hdir, htier, hwait⟩ := h
  obtain ⟨hdir', htier', hwait'⟩ := h'
  exact ⟨hdir'.trans hdir, htier'.trans htier, hwait'.trans hwait⟩

theorem State.KeepsLines.cell_eq {s t : State} (h : s.KeepsLines t) (a : Nat) : t.cell a = s.cell a := by
  obtain ⟨-, htier, -⟩ := h
  simp only [State.cell, State.frameOf, State.page, htier]

theorem State.OnlyReg.keepsLines {s t : State} {r : RegId} (h : s.OnlyReg t r) : s.KeepsLines t := by
  obtain ⟨⟨_, rfl⟩, -⟩ := h
  exact ⟨rfl, rfl, rfl⟩

theorem State.OnlyRecords.keepsLines {s t : State} (h : s.OnlyRecords t) : s.KeepsLines t := by
  obtain ⟨_, _, _, rfl⟩ := h
  exact ⟨rfl, rfl, rfl⟩

theorem markDown_onlyReg (s : State) (n cause : Nat) : s.OnlyReg (s.markDown n cause) (Reg.HOME_HOST n) :=
  (setFld_onlyReg ..).trans (setFld_onlyReg ..)

theorem tellDown_onlyRecords (s : State) (n cause : Nat) : s.OnlyRecords (s.tellDown n cause) := by
  unfold State.tellDown
  split
  · exact eventAdvise_onlyRecords ..
  · exact ⟨s.ras, s.ringq, s.out.replies, rfl⟩

theorem enterRecovery_onlyReg (s : State) (n d : Nat) : s.OnlyReg (s.enterRecovery n d) (Reg.HOME_CDOM_STATE d) := by
  unfold State.enterRecovery
  split
  · exact (setFld_onlyReg ..).trans (setFld_onlyReg ..)
  · exact ⟨⟨s.regs, rfl⟩, fun _ _ => rfl⟩

theorem enterAll_keepsLines (l : List Nat) (s : State) (n : Nat) : s.KeepsLines (s.enterAll n l) := by
  induction l generalizing s with
  | nil => exact ⟨rfl, rfl, rfl⟩
  | cons d l ih => exact (enterRecovery_onlyReg s n d).keepsLines.trans (ih _)

theorem enterAll_reg (l : List Nat) (s : State) (n : Nat) {q : RegId} (hq : q.off < 0x401000) :
    (s.enterAll n l).reg q = s.reg q := by
  induction l generalizing s with
  | nil => rfl
  | cons d l ih => exact (ih _).trans ((enterRecovery_onlyReg s n d).2 q (by simp only [Reg.HOME_CDOM_STATE]; omega))

/-- An entry whose pending request of host n is dropped. -/
def DirEnt.without (e : DirEnt) (n : Nat) : DirEnt :=
  if (e.pend.map (Who.ofHost n)).getD false then { e with pend := none } else e

theorem dropHostReqs_reg (s : State) (n : Nat) (q : RegId) : (s.dropHostReqs n).reg q = s.reg q := rfl

theorem cutHost_reg (s : State) (n cause : Nat) {q : RegId} (hq : q.off < 0x401000) :
    (s.cutHost n cause).reg q = (s.markDown n cause).reg q := by
  rw [State.cutHost, dropHostReqs_reg, enterAll_reg _ _ n hq, (tellDown_onlyRecords ..).reg_eq q]

/-- What the dropping of host n's requests leaves of the lines and of the requests that wait. -/
theorem dropHostReqs_lines (s : State) (n : Nat) : (s.dropHostReqs n).tier = s.tier ∧
    (s.dropHostReqs n).dir = s.dir.mapv (fun _ e => e.without n) ∧
    (s.dropHostReqs n).waitq = s.waitq.filter fun r => !r.who.ofHost n := ⟨rfl, rfl, rfl⟩

theorem cutHost_lines (s : State) (n cause : Nat) : (s.cutHost n cause).tier = s.tier ∧
    (s.cutHost n cause).dir = s.dir.mapv (fun _ e => e.without n) ∧
    (s.cutHost n cause).waitq = s.waitq.filter fun r => !r.who.ofHost n := by
  obtain ⟨hdir, htier, hwait⟩ := (((markDown_onlyReg s n cause).keepsLines.trans
    (tellDown_onlyRecords _ n cause).keepsLines).trans (enterAll_keepsLines (List.range 256) _ n))
  rw [← hdir, ← htier, ← hwait]
  exact dropHostReqs_lines _ n

/-! ## The lines of a host that is down -/

theorem leaveDir_reg (s : State) (n cause : Nat) {q : RegId} (hq : q.off < 0x401000) :
    (s.leaveDir n cause).reg q = s.reg q := leaveAll_reg s.dir s n hq

theorem leaveDir_waitq (s : State) (n cause : Nat) : (s.leaveDir n cause).waitq = s.waitq := leaveAll_waitq s.dir s n

theorem leaveDir_cell (s : State) (n cause a : Nat) : (s.leaveDir n cause).cell a = s.cell a := leaveAll_cell s.dir s n a

theorem leaveDir_loses {s : State} {n cause line : Nat} {e : DirEnt} (hst : e.st = .m) (howner : e.owner = n)
    (hmem : (line, e) ∈ s.dir) (honly : ∀ x ∈ s.dir, x.1 = line → x.2 = e) :
    (s.leaveDir n cause).LineLost line e.wrote :=
  leaveAll_loses hst howner honly (.inr ⟨_, hmem, rfl⟩)

theorem lostHost_reg (s : State) (n cause : Nat) {q : RegId} (hq : q.off < 0x401000) :
    (s.lostHost n cause).reg q = (s.markDown n cause).reg q := by
  rw [State.lostHost, leaveDir_reg _ n cause hq, cutHost_reg s n cause hq]

theorem lostHost_waitq (s : State) (n cause : Nat) : ∀ x ∈ (s.lostHost n cause).waitq, x.who.ofHost n = false := by
  intro x hx
  rw [State.lostHost, leaveDir_waitq, (cutHost_lines s n cause).2.2] at hx
  simpa using (List.mem_filter.1 hx).2

/-- A key that no two entries share names the entry that it finds. -/
theorem eq_of_find_of_single {α : Type} {m : SMap α} {k : Nat} {v : α} (h : SMap.find m k = some v)
    (hone : (m.filter fun x => x.1 = k).length ≤ 1) {x : Nat × α} (hx : x ∈ m) (hk : x.1 = k) : x = (k, v) := by
  have hmem : ∀ y ∈ m, y.1 = k → y ∈ m.filter fun x => x.1 = k := fun y hy hyk =>
    List.mem_filter.2 ⟨hy, decide_eq_true hyk⟩
  obtain ⟨y, hy⟩ := List.length_eq_one_iff.1 (le_antisymm hone (List.length_pos_of_mem (hmem x hx hk)))
  have hsame : ∀ z ∈ m, z.1 = k → z = y := fun z hz hzk => List.mem_singleton.1 (hy ▸ hmem z hz hzk)
  rw [hsame x hx hk, hsame _ (mem_of_find h) rfl]

theorem without_fields (e : DirEnt) (n : Nat) :
    (e.without n).st = e.st ∧ (e.without n).owner = e.owner ∧ (e.without n).wrote = e.wrote := by
  unfold DirEnt.without
  split <;> exact ⟨rfl, rfl, rfl⟩

theorem lostHost_loses {s : State} {n cause line : Nat} {e : DirEnt} (hfind : SMap.find s.dir line = some e)
    (hone : (s.dir.filter fun x => x.1 = line).length ≤ 1) (hst : e.st = .m) (howner : e.owner = n) :
    (s.lostHost n cause).LineLost line e.wrote := by
  obtain ⟨-, hdir, -⟩ := cutHost_lines s n cause
  obtain ⟨hst', howner', hwrote'⟩ := without_fields e n
  have hmem : (line, e.without n) ∈ (s.cutHost n cause).dir :=
    hdir ▸ List.mem_map.2 ⟨(line, e), mem_of_find hfind, rfl⟩
  have honly : ∀ x ∈ (s.cutHost n cause).dir, x.1 = line → x.2 = e.without n := fun x hx hline => by
    rw [hdir] at hx
    obtain ⟨y, hy, rfl⟩ := List.mem_map.1 hx
    rw [eq_of_find_of_single hfind hone hy hline]
  rw [← hwrote', State.lostHost]
  exact leaveDir_loses (hst'.trans hst) (howner'.trans howner) hmem honly

theorem lostHost_cell (s : State) (n cause a : Nat) : (s.lostHost n cause).cell a = s.cell a := by
  rw [State.lostHost, leaveDir_cell]
  simp only [State.cell, State.frameOf, State.page, (cutHost_lines s n cause).1]

/-! ## The commands -/

/-- A command that declares host n down in a state whose lines and waiting requests are those of s. -/
def State.GoesDown (s : State) (o : Host.Outcome State Fault Refusal) (n cause : Nat) : Prop :=
  ∃ u : State, o = .next (settle s (u.flushRecovering.pump.recallRecovering).go) ∧
    u.flag (Reg.HOME_HOST n) Reg.HOME_HOST_DOWN = true ∧ u.fld (Reg.HOME_HOST n) Reg.HOME_HOST_DOWN_CAUSE = cause ∧
    (∀ x ∈ u.waitq, x.who.ofHost n = false) ∧
    ∀ line e, SMap.find s.dir line = some e → (s.dir.filter fun x => x.1 = line).length ≤ 1 → e.st = .m → e.owner = n →
      SMap.find u.dir line = none ∧ (e.wrote = false → (s.cell (line * 64)).isSome → u.linePoison line = true)

theorem goesDown_of_declareDown {s t : State} {n cause : Nat} (hn : n < 64) (hcause : cause < 8)
    (hup : t.flag (Reg.HOME_HOST n) Reg.HOME_HOST_DOWN = false) (hlines : s.KeepsLines t) :
    s.GoesDown (done s (t.declareDown n cause)) n cause := by
  have hoff : (Reg.HOME_HOST n).off < 0x401000 := by simp only [Reg.HOME_HOST]; omega
  have hreg := lostHost_reg t n cause hoff
  refine ⟨t.lostHost n cause, congrArg (done s) (declareDown_of_up hup cause), (flag_congr _ hreg).trans (markDown_down ..),
    (fld_congr _ hreg).trans (markDown_cause t n hcause), lostHost_waitq t n cause, fun line e hfind hone hst howner => ?_⟩
  rw [← hlines.1] at hfind hone
  obtain ⟨hgone, hpoison⟩ := lostHost_loses (cause := cause) hfind hone hst howner
  refine ⟨hgone, fun hwrote hcell => hpoison hwrote ?_⟩
  rwa [lostHost_cell, hlines.cell_eq]

theorem hostKnown_up {s : State} {r : HostMsg} (h : s.hostKnown r = true) :
    s.flag (Reg.HOME_HOST r.host.val) Reg.HOME_HOST_DOWN = false := by
  simp only [State.hostKnown, Bool.and_eq_true, decide_eq_true_eq] at h
  obtain ⟨⟨-, hdown⟩, -⟩ := h
  rw [flag_eq_false, hdown]
  decide

/-- A protocol error scores the head and takes the host down with cause 4 (R198, R520). -/
theorem goesDown_of_protocolError {s : State} {r : HostMsg} (h : s.hostKnown r = true) :
    s.GoesDown (done s (s.protocolError r)) r.host.val 4 := by
  have hkind : ¬ ((obj 0xB r.head.val).kind = 1 ∨ (obj 0xB r.head.val).kind = 2) := by
    simp only [obj]
    decide
  have hscore := score_onlyRecords s hkind .protocolError
  exact goesDown_of_declareDown r.host.isLt (by decide) ((flag_congr _ (hscore.reg_eq _)).trans (hostKnown_up h))
    hscore.keepsLines

theorem exec_memRdFwd {s : State} {r : HostMsg} (harr : s.memArrives r.head.val = true) (hlive : s.live = true)
    (hknown : s.hostKnown r = true) (x : Bool) : exec (.memRdFwd r x) s = done s (s.protocolError r) :=
  congrArg (done s) (if_pos (by rw [harr, hlive, hknown]; rfl))

theorem exec_biRspE {s : State} {r : HostMsg} (harr : s.memArrives r.head.val = true) (hlive : s.live = true)
    (hknown : s.hostKnown r = true) (x : Bool) : exec (.biRspE r x) s = done s (s.protocolError r) :=
  congrArg (done s) (if_pos (by rw [harr, hlive, hknown]; rfl))

theorem exec_snoopTimeout {s : State} {n : Fin 64}
    (hlate : ∃ x ∈ s.dir, bit x.2.awaited n.val = true ∧ x.2.since + s.snoopTicks ≤ s.tick) :
    exec (.snoopTimeout n) s = done s (s.declareDown n.val 2) := by
  obtain ⟨x, hx, hawait, htime⟩ := hlate
  exact congrArg (done s) (if_pos (List.any_eq_true.2 ⟨x, hx, by rw [hawait, decide_eq_true htime]; rfl⟩))

theorem exec_hostDownDeclare {via : Via} {n : Fin 64} {v : Word} {s : State}
    (hm : s.mayWrite via (Reg.HOME_HOST n.val).off = true) (hv : newFld Reg.HOME_HOST_DOWN v = 1) :
    exec (.hostDownDeclare via n v) s = done s (s.writeHomeHost via n.val v) :=
  congrArg (done s) (if_pos ⟨hm, hv⟩)

/-- What a write of DOWN = 1 to `HOME_HOST_n` does before the host goes down: HEAD and BI_ID while VALID is 0, then VALID (R193, R194). -/
def State.hostPlaced (s : State) (n : Nat) (v : Word) : State :=
  let r := Reg.HOME_HOST n
  let t := if s.flag r Reg.HOME_HOST_VALID then s
    else (s.setFld r Reg.HOME_HOST_HEAD (newFld Reg.HOME_HOST_HEAD v)).setFld r Reg.HOME_HOST_BI_ID (newFld Reg.HOME_HOST_BI_ID v)
  if newFld Reg.HOME_HOST_VALID v = 1 then t.setFld r Reg.HOME_HOST_VALID 1
  else if !s.flag r Reg.HOME_HOST_VALID then t
  else t.ignored (obj 0x14 n) r.off v.toNat

theorem writeHomeHost_declares {s : State} {via : Via} {n : Nat} {v : Word} (hsec : s.secureVia via = true)
    (hup : s.flag (Reg.HOME_HOST n) Reg.HOME_HOST_DOWN = false) (hv : newFld Reg.HOME_HOST_DOWN v = 1) :
    s.writeHomeHost via n v = (s.hostPlaced n v).declareDown n 1 := by
  simp only [State.writeHomeHost, State.hostPlaced, hsec, hup, hv, Bool.not_true, Bool.false_and, Bool.false_eq_true, if_false,
    if_true]

theorem flag_setFld_of_apart (s : State) (r : RegId) {f g : Fld} (v : Nat) (h : f.lo ≤ f.hi) (hw : f.hi < 64) (hd : f.Apart g) :
    (s.setFld r f v).flag r g = s.flag r g := by
  simp only [State.flag, fld_setFld_field s r v h hw hd]

/-- Host n is up as before, and the lines are as they were. -/
def State.KeepsUp (s t : State) (n : Nat) : Prop :=
  t.flag (Reg.HOME_HOST n) Reg.HOME_HOST_DOWN = s.flag (Reg.HOME_HOST n) Reg.HOME_HOST_DOWN ∧ s.KeepsLines t

theorem State.KeepsUp.trans {s t u : State} {n : Nat} (h : s.KeepsUp t n) (h' : t.KeepsUp u n) : s.KeepsUp u n :=
  ⟨h'.1.trans h.1, h.2.trans h'.2⟩

theorem setFld_keepsUp (s : State) (n : Nat) {f : Fld} (v : Nat) (h : f.lo ≤ f.hi) (hw : f.hi < 64)
    (hd : f.Apart Reg.HOME_HOST_DOWN) : s.KeepsUp (s.setFld (Reg.HOME_HOST n) f v) n :=
  ⟨flag_setFld_of_apart s _ v h hw hd, (setFld_onlyReg ..).keepsLines⟩

theorem hostPlaced_keepsUp (s : State) (n : Nat) (v : Word) : s.KeepsUp (s.hostPlaced n v) n := by
  have hset (t : State) {f : Fld} (w : Nat) (h : f.lo ≤ f.hi ∧ f.hi < 64 ∧ f.Apart Reg.HOME_HOST_DOWN) :
      t.KeepsUp (t.setFld (Reg.HOME_HOST n) f w) n := setFld_keepsUp t n w h.1 h.2.1 h.2.2
  unfold State.hostPlaced
  dsimp only
  generalize ht : (if s.flag (Reg.HOME_HOST n) Reg.HOME_HOST_VALID then s
    else (s.setFld (Reg.HOME_HOST n) Reg.HOME_HOST_HEAD (newFld Reg.HOME_HOST_HEAD v)).setFld (Reg.HOME_HOST n)
      Reg.HOME_HOST_BI_ID (newFld Reg.HOME_HOST_BI_ID v)) = t
  have hplaced : s.KeepsUp t n := by
    rw [← ht]
    split
    · exact ⟨rfl, rfl, rfl, rfl⟩
    · exact (hset _ _ (by decide)).trans (hset _ _ (by decide))
  split
  · exact hplaced.trans (hset _ _ (by decide))
  · split
    · exact hplaced
    · have hrec := event_onlyRecords t .configIgnored
        { object := obj 0x14 n, cause := v.toNat % 2 ^ 32, where_ := (Reg.HOME_HOST n).off }
      exact hplaced.trans ⟨flag_congr _ (hrec.reg_eq _), hrec.keepsLines⟩

/-- Settles O36: each command declares the host down in a state whose lines are those of the state it finds. -/
theorem hostsGoDown : Obligations.HostsGoDown := by
  refine ⟨fun r s x harr hlive hknown => ⟨?_, ?_⟩, fun n s hup hlate => ?_, fun via n v s hm hsec hup hv => ?_⟩
  · rw [exec_memRdFwd harr hlive hknown]
    exact goesDown_of_protocolError hknown
  · rw [exec_biRspE harr hlive hknown]
    exact goesDown_of_protocolError hknown
  · rw [exec_snoopTimeout hlate]
    exact goesDown_of_declareDown n.isLt (by decide) hup ⟨rfl, rfl, rfl⟩
  · obtain ⟨hflag, hlines⟩ := hostPlaced_keepsUp s n.val v
    rw [exec_hostDownDeclare hm hv, writeHomeHost_declares hsec hup hv]
    exact goesDown_of_declareDown n.isLt (by decide) (hflag.trans hup) hlines

end Sys2Proof.Machine
end

section
/-! SUPPORT. A host's request at its slice: what serving it leaves (R97, R203), its place at the arbiter (R201), and the snoops
that it needs (R200). -/

namespace Sys2Proof.Machine

/-! ## One line's entry -/

/-- Another directory, and another count of the entries that became stable (R202). -/
def State.withDir (s : State) (d : SMap DirEnt) (k : Nat) : State := { s with dir := d, tier := { s.tier with stables := k } }

theorem putStable_of_none {s : State} {line : Nat} (h : SMap.find s.dir line = none) (e : DirEnt) : s.putStable line e =
    s.withDir (SMap.put s.dir line { e with order := s.tier.stables }) (s.tier.stables + 1) := by
  simp only [State.putStable, h, State.withDir]

theorem putStable_of_stable {s : State} {line : Nat} {x : DirEnt} (h : SMap.find s.dir line = some x)
    (hx : x.st.transient = false) (e : DirEnt) :
    s.putStable line e = s.withDir (SMap.put s.dir line { e with order := x.order }) s.tier.stables := by
  simp only [State.putStable, h, hx, Bool.false_eq_true, if_false, State.withDir]

theorem dirI_eq (s : State) (line : Nat) : s.dirI line = s.withDir (SMap.del s.dir line) s.tier.stables := rfl

theorem dirS_of_ne_zero {s : State} {line sharers : Nat} (h : sharers ≠ 0) :
    s.dirS line sharers = s.putStable line { st := .s, sharers := sharers } := if_neg h

theorem putBit_true_ne_zero (n i : Nat) : putBit n i true ≠ 0 := fun h => by
  have hbit := testBit_putBit n i i true
  rw [h, if_pos rfl, Nat.zero_testBit] at hbit
  cases hbit

/-! ## Messages to hosts -/

/-- Messages to hosts, sent one after another. -/
def State.say (s : State) (l : List (Nat × Nat × Nat × S2M)) : State :=
  { s with out := { s.out with s2m := s.out.s2m ++ l } }

theorem say_toHost (s : State) (l : List (Nat × Nat × Nat × S2M)) (hd h line : Nat) (m : S2M) :
    (s.say l).toHost hd h line m = s.say (l ++ [(hd, h, line, m)]) := by
  simp only [State.say, State.toHost, List.append_assoc]

theorem toHost_say (s : State) (l : List (Nat × Nat × Nat × S2M)) (hd h line : Nat) (m : S2M) :
    (s.toHost hd h line m).say l = s.say ((hd, h, line, m) :: l) := by
  simp only [State.say, State.toHost, List.append_assoc, List.singleton_append]

/-- What answers a host's request that is served: data to a read, then the completion (R203). -/
def HostOp.replies (op : HostOp) (h hd line : Nat) (a : Ans) : List (Nat × Nat × Nat × S2M) :=
  (match op with
    | .rdS | .rdA | .rdI => [(hd, h, line, S2M.memData (fitBytes 64 a.data) (decide (a.st ≠ .ok)))]
    | _ => []) ++ [(hd, h, line, op.cmp)]

theorem answer_host {a : Ans} (ha : a.st ≠ .invalid) (s : State) (line h hd : Nat) (op : HostOp) :
    s.answer line (.host h hd op) a = s.say (op.replies h hd line a) := by
  unfold State.answer
  dsimp only
  rw [if_neg ha]
  cases op with
  | rdS => exact say_toHost s [_] ..
  | rdA => exact say_toHost s [_] ..
  | rdI => exact say_toHost s [_] ..
  | invA => rfl
  | invN => rfl
  | wr => rfl

/-! ## Serving (R97, R203) -/

theorem writeLine_withDir (s : State) (d : SMap DirEnt) (k line : Nat) (x : List Byte) :
    (s.withDir d k).writeLine line x = (s.writeLine line x).withDir d k := by
  have hcell : (s.withDir d k).cell (line * 64) = s.cell (line * 64) := rfl
  unfold State.writeLine
  rw [hcell]
  cases s.cell (line * 64) <;> rfl

theorem setLinePoison_withDir (s : State) (d : SMap DirEnt) (k line : Nat) (b : Bool) :
    (s.withDir d k).setLinePoison line b = (s.setLinePoison line b).withDir d k := by
  have hcell : (s.withDir d k).cell (line * 64) = s.cell (line * 64) := rfl
  unfold State.setLinePoison
  rw [hcell]
  cases s.cell (line * 64) <;> rfl

/-- A line is read and written whatever the directory says of it. -/
theorem perform_withDir (s : State) (d : SMap DirEnt) (k line : Nat) (op : LineOp) :
    (s.withDir d k).perform line op = ((s.perform line op).1.withDir d k, (s.perform line op).2) := by
  have hcell : (s.withDir d k).cell (line * 64) = s.cell (line * 64) := rfl
  have hread : (s.withDir d k).readLine line = s.readLine line := rfl
  have hpoison : (s.withDir d k).linePoison line = s.linePoison line := rfl
  unfold State.perform
  rw [hcell, hread, hpoison]
  split
  · rfl
  · cases op with
    | read => dsimp only; split <;> rfl
    | write mask x =>
      dsimp only
      rw [writeLine_withDir, setLinePoison_withDir]
      split <;> rfl
    | atomic =>
      dsimp only
      rw [writeLine_withDir]
      split <;> rfl
    | poison => dsimp only; rw [setLinePoison_withDir]

theorem writeLine_shape (s : State) (line : Nat) (x : List Byte) :
    ∃ m, s.writeLine line x = { s with tier := { s.tier with mem := m } } := by
  unfold State.writeLine
  split
  · exact ⟨s.tier.mem, rfl⟩
  · exact ⟨_, rfl⟩

theorem setLinePoison_shape (s : State) (line : Nat) (b : Bool) :
    ∃ p, s.setLinePoison line b = { s with tier := { s.tier with poison := p } } := by
  unfold State.setLinePoison
  split
  · exact ⟨s.tier.poison, rfl⟩
  · exact ⟨_, rfl⟩

/-- An access at a line changes bytes and poison alone. -/
theorem perform_shape (s : State) (line : Nat) (op : LineOp) :
    ∃ m p, (s.perform line op).1 = { s with tier := { s.tier with mem := m, poison := p } } := by
  have hself : ∃ m p, s = { s with tier := { s.tier with mem := m, poison := p } } := ⟨s.tier.mem, s.tier.poison, rfl⟩
  unfold State.perform
  split
  · exact hself
  · cases op with
    | read => dsimp only; split <;> exact hself
    | write mask x =>
      obtain ⟨m, hm⟩ := writeLine_shape s line (mergeLine mask (s.readLine line) x)
      dsimp only
      rw [hm]
      split
      · obtain ⟨p, hp⟩ := setLinePoison_shape { s with tier := { s.tier with mem := m } } line false
        exact ⟨m, p, hp⟩
      · exact ⟨m, s.tier.poison, rfl⟩
    | atomic subop width off op1 op2 =>
      dsimp only
      split
      · exact hself
      · obtain ⟨m, hm⟩ := writeLine_shape s line (spliceBytes (s.readLine line) off
          (natLE width (atomicNew subop width (fieldLE (s.readLine line) off width) op1 op2)))
        exact ⟨m, s.tier.poison, hm⟩
    | poison =>
      obtain ⟨p, hp⟩ := setLinePoison_shape s line true
      exact ⟨s.tier.mem, p, hp⟩

theorem perform_st {s : State} {line : Nat} (hcell : (s.cell (line * 64)).isSome) (op : LineOp) :
    (s.perform line op).2.st ≠ .invalid := by
  have hsome : (s.cell (line * 64)).isNone = false := by simpa using hcell
  unfold State.perform
  rw [hsome, if_neg Bool.false_ne_true]
  cases op with
  | read => dsimp only; split <;> exact nofun
  | write => exact nofun
  | atomic => dsimp only; split <;> exact nofun
  | poison => exact nofun

/-- A host's request makes its access at the line, if it asks for one. -/
def State.access (s : State) (line : Nat) : Option LineOp → State × Ans
  | none => (s, {})
  | some op => s.perform line op

theorem serve_host {s : State} {line : Nat} (hcell : (s.cell (line * 64)).isSome) (hslow : s.slowLine line = false)
    (h hd : Nat) (op : HostOp) : s.serve line (.host h hd op) =
      (s.access line op.lineOp).1.say (op.replies h hd line (s.access line op.lineOp).2) := by
  have hop : (Who.host h hd op).lineOp = op.lineOp := rfl
  unfold State.serve
  dsimp only
  rw [hop]
  cases op.lineOp with
  | none => exact answer_host (by exact nofun) ..
  | some lop =>
    dsimp only
    rw [hslow, if_neg Bool.false_ne_true]
    exact answer_host (perform_st hcell lop) ..

/-- Only a read's data are in what answers a request. -/
theorem replies_access (s : State) (line h hd : Nat) (op : HostOp) :
    op.replies h hd line (s.access line op.lineOp).2 = op.replies h hd line (s.perform line .read).2 := by
  cases op <;> rfl

/-- What a request of a host leaves when it is served and counted: the directory given, its bytes and poison, what answers it. -/
structure State.ServedTo (s u : State) (line h hd : Nat) (op : HostOp) (d : SMap DirEnt) : Prop where
  dir : u.dir = d
  waitq : u.waitq = s.waitq
  s2m : u.out.s2m = s.out.s2m ++ op.replies h hd line (s.perform line .read).2
  regs : u.regs = s.regs
  mem : u.tier.mem = (s.access line op.lineOp).1.tier.mem
  poison : u.tier.poison = (s.access line op.lineOp).1.tier.poison

theorem accept_shape (s : State) (write counts : Bool) (l n : Nat) :
    ∃ a m, s.accept write counts l n = { s with tier := { s.tier with adds := a, meters := m } } := by
  have hcount : ∃ a, (if counts then s.countPage l else s) = { s with tier := { s.tier with adds := a } } := by
    split
    · exact ⟨_, rfl⟩
    · exact ⟨s.tier.adds, rfl⟩
  obtain ⟨a, ha⟩ := hcount
  unfold State.accept
  rw [ha]
  dsimp only
  split
  · exact ⟨a, s.tier.meters, rfl⟩
  · unfold State.countBytes
    split
    · exact ⟨a, s.tier.meters, rfl⟩
    · exact ⟨a, _, rfl⟩

theorem access_withDir (s : State) (d : SMap DirEnt) (k line : Nat) (o : Option LineOp) :
    (s.withDir d k).access line o = ((s.access line o).1.withDir d k, (s.access line o).2) := by
  cases o with
  | none => rfl
  | some op => exact perform_withDir s d k line op

theorem access_shape (s : State) (line : Nat) (o : Option LineOp) :
    ∃ m p, (s.access line o).1 = { s with tier := { s.tier with mem := m, poison := p } } := by
  cases o with
  | none => exact ⟨s.tier.mem, s.tier.poison, rfl⟩
  | some op => exact perform_shape s line op

theorem serve_servedTo {s : State} {line : Nat} (hcell : (s.cell (line * 64)).isSome) (hslow : s.slowLine line = false)
    (d : SMap DirEnt) (k h hd : Nat) (op : HostOp) (write counts : Bool) (l n : Nat) :
    s.ServedTo (((s.withDir d k).serve line (.host h hd op)).accept write counts l n) line h hd op d := by
  have hslow' : (s.withDir d k).slowLine line = false := hslow
  have hserve := serve_host (s := s.withDir d k) hcell hslow' h hd op
  obtain ⟨m, p, hshape⟩ := access_shape s line op.lineOp
  have hwait : (s.access line op.lineOp).1.waitq = s.waitq := by rw [hshape]
  have hs2m : (s.access line op.lineOp).1.out.s2m = s.out.s2m := by rw [hshape]
  have hregs : (s.access line op.lineOp).1.regs = s.regs := by rw [hshape]
  obtain ⟨_, _, haccept⟩ := accept_shape ((s.withDir d k).serve line (.host h hd op)) write counts l n
  rw [haccept, hserve, access_withDir, replies_access]
  exact ⟨rfl, hwait, congrArg (· ++ op.replies h hd line (s.perform line .read).2) hs2m, hregs, rfl, rfl⟩

/-! ## The arbiter (R201) -/

theorem arbiter_of_take {s t : State} {q : LineReq} (hcell : (s.cell (q.line * 64)).isSome) (htake : s.take q = (t, true))
    (hrefusal : s.refusal q = none) (hdomain : s.domainHolds q = false) :
    s.arbiter q = (t.accept q.who.stores q.counts (q.line * 64) q.bytes, true) := by
  have hsome : (s.cell (q.line * 64)).isNone = false := by simpa using hcell
  unfold State.arbiter
  rw [hsome, Bool.false_and, if_neg Bool.false_ne_true, htake, hrefusal]
  dsimp only
  split
  · contradiction
  · rw [hdomain, if_neg Bool.false_ne_true]
  · rfl

theorem submit_of_arbiter {s t : State} {q : LineReq} (hfirst : (s.waitq.any fun x => s.comesBefore x q) = false)
    (harb : s.arbiter q = (t, true)) : s.submit q = t := by
  rw [State.submit, hfirst, if_neg Bool.false_ne_true, harb]

theorem performCombines_of_none {s : State} {line : Nat} (h : s.combinesOf line = []) : s.performCombines line = s := by
  rw [State.performCombines, h]
  rfl

/-- A request that its arbiter takes now is accepted as the table leaves it. -/
theorem submit_of_taken {s t : State} {q : LineReq} (h : s.Taken q) (htake : s.take q = (t, true)) :
    s.submit q = t.accept q.who.stores q.counts (q.line * 64) q.bytes := by
  obtain ⟨hfirst, ⟨hcell, -, -, -⟩, hrefusal, hdomain⟩ := h
  exact submit_of_arbiter hfirst (arbiter_of_take hcell htake hrefusal hdomain)

/-! ## Snoops (R200, R210) -/

theorem foldl_toHost (l : List Nat) (s : State) (line : Nat) (m : S2M) :
    l.foldl (fun s h => s.toHost (s.hostHead h) h line m) s = s.say (l.map fun h => (s.hostHead h, h, line, m)) := by
  induction l generalizing s with
  | nil => simp [State.say]
  | cons h l ih =>
    rw [List.foldl_cons, ih]
    exact toHost_say s (l.map fun g => (s.hostHead g, g, line, m)) ..

/-- The entry of a line whose snoops are out with a request pending. -/
def DirEnt.snooped (e : DirEnt) (st : DirState) (mask since : Nat) (w : Who) : DirEnt :=
  { e with st := st, awaited := mask, keep := false, pend := some w, since := since }

/-- The snoop that leads to a transient state. -/
def DirState.snp (st : DirState) : S2M := if st = .mData then .snpData else .snpInv

/-- The line's snoops go out and its request is held in the entry. -/
def State.snooping (s : State) (line : Nat) (e : DirEnt) (st : DirState) (mask : Nat) (w : Who) : State :=
  ((s.withDir (SMap.put s.dir line (e.snooped st mask s.tick w)) s.tier.stables).bump Reg.HOME_DIR_CNT
    Reg.HOME_DIR_CNT_SNOOPS (setBits 64 mask).length).say ((setBits 64 mask).map fun g => (s.hostHead g, g, line, st.snp))

theorem hostHead_bump (s : State) {g : Nat} (hg : g < 64) (f : Fld) (n : Nat) :
    (s.bump Reg.HOME_DIR_CNT f n).hostHead g = s.hostHead g :=
  fld_setFld_other _ _ _ _ (by simp only [Reg.HOME_HOST, Reg.HOME_DIR_CNT]; omega)

theorem snoop_of_room {s : State} {line mask : Nat} (hroom : s.transients line < 256)
    (hmax : ((setBits 64 mask).all fun g => decide (s.snoopsOut g < s.snoopMax)) = true) (e : DirEnt) (st : DirState) (w : Who) :
    s.snoop line e st mask w = some (s.snooping line e st mask w) := by
  have hany : ¬ ((setBits 64 mask).any fun g => decide (s.snoopsOut g ≥ s.snoopMax)) = true := by
    rw [List.any_eq_true]
    rintro ⟨g, hg, hfull⟩
    have hfree := List.all_eq_true.1 hmax g hg
    rw [decide_eq_true_eq] at hfull hfree
    omega
  have hheads : ∀ g ∈ setBits 64 mask, ∀ t : State, (t.bump Reg.HOME_DIR_CNT Reg.HOME_DIR_CNT_SNOOPS
      (setBits 64 mask).length).hostHead g = t.hostHead g := fun g hg t =>
    hostHead_bump t (List.mem_range.1 (List.mem_filter.1 hg).1) _ _
  unfold State.snoop
  rw [if_neg (by rw [not_or]; exact ⟨by omega, hany⟩)]
  dsimp only
  rw [foldl_toHost]
  congr 2
  exact List.map_congr_left fun g hg => by rw [hheads g hg]; rfl

end Sys2Proof.Machine
end

section
/-! O33: how requests of hosts fare before the directory (R197, R203, R206, R208, R216, R445, R460). -/

namespace Sys2Proof.Machine

/-! ## The commands -/

/-- A command that brings a host's request hands it to the home (R203). -/
theorem exec_of_hostOp {c : Instr} {r : HostMsg} {op : HostOp} (h : hostOpOf c = some (r, op)) (s : State) :
    exec c s = done s (s.hostRequest r op) := by
  unfold hostOpOf at h
  split at h
  case h_1 => split at h <;> cases h <;> rfl
  case h_2 => cases h; rfl
  case h_3 => split at h <;> cases h <;> rfl
  case h_4 => split at h <;> cases h <;> rfl
  case h_5 => split at h <;> cases h <;> rfl
  case h_6 => cases h

/-- A served write: the owner's goes ahead; of others' those that give S or A are errors (R203, R206). -/
def State.serveStore (s : State) (r : HostMsg) (op : HostOp) (line ctx : Nat) : State :=
  let q := hostLineReq r.host.val r.head.val op line ctx
  if s.owns r.host.val line then (s.ownerWrite q).go
  else
    match op with
    | .wr _ _ _ .a | .wr _ _ _ .s => s.protocolError r
    | _ => (s.submit q).go

/-- A served read or invalidation: to its meter, then to its slice (R208, R445). -/
def State.serveQuery (s : State) (r : HostMsg) (op : HostOp) (line ctx : Nat) : State :=
  let q := hostLineReq r.host.val r.head.val op line ctx
  if s.sliceFull line then s
  else
    match s.meterCheck ctx (.host q) 64 with
    | (u, .pass _) => (u.submit q).go
    | (u, _) => if s.delayFull ctx then s else u

/-- How a host's request fares at its home. -/
def State.admitted (s : State) (r : HostMsg) (op : HostOp) : Admitted :=
  s.admitHost r op.isWrite fun line => op.stores && s.owns r.host.val line

/-- What the home makes of a host's request that fares so (R203, R216, R460). -/
def State.fares (s : State) (r : HostMsg) (op : HostOp) : Admitted → State
  | .refused => s.refuseHost r.host.val r.head.val (s.hostLine r) op
  | .recovering line => s.answerRecovering r.host.val r.head.val line op
  | .served line ctx => if op.stores then s.serveStore r op line ctx else s.serveQuery r op line ctx

theorem fares_store {s : State} {r : HostMsg} {op : HostOp} (h : op.stores = true) (line ctx : Nat) :
    s.fares r op (.served line ctx) = s.serveStore r op line ctx := if_pos h

theorem fares_query {s : State} {r : HostMsg} {op : HostOp} (h : op.stores = false) (line ctx : Nat) :
    s.fares r op (.served line ctx) = s.serveQuery r op line ctx := if_neg (by rw [h]; exact Bool.false_ne_true)

theorem hostRequest_eq {s : State} {r : HostMsg} (harr : s.memArrives r.head.val = true) (op : HostOp) :
    s.hostRequest r op = s.fares r op (s.admitted r op) := by
  unfold State.hostRequest
  dsimp only
  rw [harr, Bool.not_true, if_neg Bool.false_ne_true]
  cases op with
  | wr m d p mv =>
    dsimp only [State.admitted, HostOp.stores]
    generalize s.admitHost r (HostOp.wr m d p mv).isWrite (fun line => true && s.owns r.host.val line) = a
    cases a with
    | served => rw [fares_store rfl]; rfl
    | _ => rfl
  | _ =>
    dsimp only [State.admitted, HostOp.stores]
    generalize s.admitHost r _ (fun line => false && s.owns r.host.val line) = a
    cases a with
    | served => rw [fares_query rfl]; rfl
    | _ => rfl

/-! ## Reads and invalidations (R208, R445; log 94) -/

theorem serveQuery_full {s : State} {line : Nat} (h : s.sliceFull line = true) (r : HostMsg) (op : HostOp) (ctx : Nat) :
    s.serveQuery r op line ctx = s := if_pos h

section
variable {s u : State} {r : HostMsg} {op : HostOp} {line ctx : Nat} (hroom : s.sliceFull line = false)
include hroom

theorem serveQuery_passes {y : Bool}
    (h : s.meterCheck ctx (.host (hostLineReq r.host.val r.head.val op line ctx)) 64 = (u, .pass y)) :
    s.serveQuery r op line ctx = (u.submit (hostLineReq r.host.val r.head.val op line ctx)).go := by
  rw [State.serveQuery, hroom, if_neg Bool.false_ne_true, h]

theorem serveQuery_waits (h : s.meterCheck ctx (.host (hostLineReq r.host.val r.head.val op line ctx)) 64 = (u, .wait))
    (hdelay : s.delayFull ctx = false) : s.serveQuery r op line ctx = u := by
  rw [State.serveQuery, hroom, if_neg Bool.false_ne_true, h]
  exact if_neg (by rw [hdelay]; exact Bool.false_ne_true)

theorem serveQuery_held
    (h : ∀ u y, s.meterCheck ctx (.host (hostLineReq r.host.val r.head.val op line ctx)) 64 ≠ (u, .pass y))
    (hdelay : s.delayFull ctx = true) : s.serveQuery r op line ctx = s := by
  obtain ⟨u, x, hm⟩ : ∃ u x, s.meterCheck ctx (.host (hostLineReq r.host.val r.head.val op line ctx)) 64 = (u, x) :=
    ⟨_, _, rfl⟩
  rw [State.serveQuery, hroom, if_neg Bool.false_ne_true, hm]
  cases x with
  | pass y => exact absurd hm (h u y)
  | wait => exact if_pos hdelay
  | refuse => exact if_pos hdelay

end

/-! ## Writes (R203, R206) -/

theorem serveStore_of_owner {s : State} {r : HostMsg} {line : Nat} (h : s.owns r.host.val line = true) (op : HostOp)
    (ctx : Nat) : s.serveStore r op line ctx = (s.ownerWrite (hostLineReq r.host.val r.head.val op line ctx)).go := if_pos h

theorem serveStore_of_other {s : State} {r : HostMsg} {line : Nat} (h : s.owns r.host.val line = false) (m : Nat)
    (d : List Byte) (p : Bool) (mv : MetaValue) (ctx : Nat) : s.serveStore r (.wr m d p mv) line ctx =
      if mv = .s ∨ mv = .a then s.protocolError r
      else (s.submit (hostLineReq r.host.val r.head.val (.wr m d p mv) line ctx)).go := by
  have hother : ¬ s.owns r.host.val line = true := by rw [h]; exact Bool.false_ne_true
  cases mv with
  | a => exact (if_neg hother).trans (if_pos (Or.inr rfl)).symm
  | s => exact (if_neg hother).trans (if_pos (Or.inl rfl)).symm
  | i => exact (if_neg hother).trans (if_neg (by decide)).symm
  | noOp => exact (if_neg hother).trans (if_neg (by decide)).symm
  | reserved => exact (if_neg hother).trans (if_neg (by decide)).symm

theorem ownWrite_host (s : State) (n hd m : Nat) (d : List Byte) (p : Bool) (mv : MetaValue) (line ctx : Nat) :
    s.ownWrite (hostLineReq n hd (.wr m d p mv) line ctx) = s.owns n line := by
  unfold State.ownWrite State.owns hostLineReq
  dsimp only
  cases SMap.find s.dir line <;> rfl

/-- The entry that a write of owner n leaves of its line (R203). -/
def DirEnt.afterOwn (e : DirEnt) (n : Nat) (mv : MetaValue) : Option DirEnt :=
  if e.st ≠ .m ∨ mv = .a then some { e with wrote := true }
  else if mv = .s then some { st := .s, sharers := 2 ^ n, order := e.order }
  else none

/-- A directory in which one line's entry is the given one, and the others' are as before. -/
def State.LineGets (s : State) (d : SMap DirEnt) (line : Nat) (e : Option DirEnt) : Prop :=
  SMap.find d line = e ∧ ∀ k, k ≠ line → SMap.find d k = SMap.find s.dir k

theorem lineGets_put (s : State) (line : Nat) (e : DirEnt) : s.LineGets (SMap.put s.dir line e) line (some e) :=
  ⟨SMap.find_put_same .., fun _ hk => SMap.find_put_other _ _ hk⟩

theorem lineGets_del (s : State) (line : Nat) : s.LineGets (SMap.del s.dir line) line none :=
  ⟨SMap.find_del_same .., fun _ hk => SMap.find_del_other _ hk⟩

theorem dirS_of_stable {s : State} {line sharers : Nat} {x : DirEnt} (h : SMap.find s.dir line = some x)
    (hx : x.st.transient = false) (hne : sharers ≠ 0) : s.dirS line sharers =
      s.withDir (SMap.put s.dir line { st := .s, sharers := sharers, order := x.order }) s.tier.stables :=
  (dirS_of_ne_zero hne).trans (putStable_of_stable h hx _)

/-- The owner's write goes ahead of all that waits at its line, and is served at once. -/
theorem take_of_owner {s : State} {q : LineReq} {n hd m : Nat} {x : List Byte} {p : Bool} {mv : MetaValue} {e : DirEnt}
    (hwho : q.who = .host n hd (.wr m x p mv)) (hfind : SMap.find s.dir q.line = some e) (hown : s.ownWrite q = true)
    (hheld : s.chunkHeld q.line = false) :
    ∃ d k, s.take q = ((s.withDir d k).serve q.line q.who, true) ∧ s.LineGets d q.line (e.afterOwn n mv) := by
  obtain ⟨⟨hs, hsInv⟩, howner⟩ : (e.st ≠ .s ∧ e.st ≠ .sInv) ∧ e.owner = n := by
    simpa [State.ownWrite, hwho, hfind] using hown
  by_cases hm : e.st = .m
  · cases mv with
    | a =>
      have htake : s.take q = (({ s with dir := SMap.put s.dir q.line { e with wrote := true } } : State).serve q.line q.who,
          true) := by simp [State.take, hwho, hfind, hown, hheld, hm, howner, DirState.transient]
      exact ⟨_, s.tier.stables, htake, by simpa [DirEnt.afterOwn] using lineGets_put s q.line _⟩
    | s =>
      have htake : s.take q = ((s.dirS q.line (2 ^ n)).serve q.line q.who, true) := by
        simp [State.take, hwho, hfind, hown, hheld, hm, howner, DirState.transient]
      rw [dirS_of_stable hfind (by rw [hm]; rfl) (Nat.two_pow_pos n).ne'] at htake
      exact ⟨_, _, htake, by simpa [DirEnt.afterOwn, hm] using lineGets_put s q.line _⟩
    | _ =>
      have htake : s.take q = ((s.dirI q.line).serve q.line q.who, true) := by
        simp [State.take, hwho, hfind, hown, hheld, hm, howner, DirState.transient]
      exact ⟨_, _, htake, by simpa [DirEnt.afterOwn, hm] using lineGets_del s q.line⟩
  · have htransient : e.st.transient = true := by cases hst : e.st <;> simp_all [DirState.transient]
    refine ⟨_, s.tier.stables, ?_, by simpa [DirEnt.afterOwn, hm] using lineGets_put s q.line _⟩
    simp [State.take, hwho, hfind, hown, hheld, hsInv, howner, htransient, State.withDir]

/-- The owner's write is completed at once, whatever waits at its line (R201, R203, R206). -/
theorem ownerWrite_served {s : State} {q : LineReq} {n hd m : Nat} {x : List Byte} {p : Bool} {mv : MetaValue} {e : DirEnt}
    (hwho : q.who = .host n hd (.wr m x p mv)) (hfind : SMap.find s.dir q.line = some e) (hown : s.ownWrite q = true)
    (hheld : s.chunkHeld q.line = false) (hslow : s.slowLine q.line = false) (hcell : (s.cell (q.line * 64)).isSome) :
    ∃ v d, s.ownerWrite q = v.pump ∧ s.LineGets d q.line (e.afterOwn n mv) ∧
      s.ServedTo v q.line n hd (.wr m x p mv) d := by
  obtain ⟨d, k, htake, hgets⟩ := take_of_owner hwho hfind hown hheld
  have hrefusal : s.refusal q = none := by simp [State.refusal, hown]
  have hdomain : s.domainHolds q = false := by simp [State.domainHolds, hwho, hown]
  have harb := arbiter_of_take hcell htake hrefusal hdomain
  rw [hwho] at harb
  exact ⟨_, d, by rw [State.ownerWrite, harb], hgets, serve_servedTo hcell hslow ..⟩

/-! ## Protocol errors (R197, R203) -/

theorem hostMeta_reserved {s : State} {r : HostMsg} (harr : s.memArrives r.head.val = true) (hlive : s.live = true)
    (hknown : s.hostKnown r = true) (f : MetaValue → HostOp) : s.hostMeta r .reserved f = s.protocolError r := by
  simp [State.hostMeta, MetaValue.asks, harr, hlive, hknown]

theorem hostPartial_claims {s : State} {r : HostMsg} {mv : MetaValue} {line ctx : Nat}
    (harr : s.memArrives r.head.val = true) (hmv : mv = .s ∨ mv = .a)
    (hserved : s.admitHost r true (s.owns r.host.val ·) = .served line ctx) (mask : Nat) (d : List Byte) :
    s.hostPartial r mv mask d = s.protocolError r := by
  rcases hmv with rfl | rfl
  · simp [State.hostPartial, MetaValue.asks, harr, hserved]
  · simp [State.hostPartial, MetaValue.asks, harr, hserved]

/-! ## MemClnEvct (R203) -/

theorem exec_memClnEvct {s : State} {r : HostMsg} {line ctx : Nat} (harr : s.memArrives r.head.val = true)
    (hserved : s.admitHost r false (fun _ => true) = .served line ctx) : exec (.memClnEvct r) s =
      done s ((((s.accept false true (line * 64) 0).cleanEvict r.host.val line).toHost r.head.val r.host.val line .cmp).pump.go) := by
  change execMemClnEvct r s = _
  simp [execMemClnEvct, harr, hserved]

theorem cleanEvict_changesLine (s : State) (n line : Nat) : s.ChangesLine (s.cleanEvict n line) line := by
  unfold State.cleanEvict
  split
  · exact .refl s line
  · split
    · exact dirS_changesLine ..
    · split
      · exact dirI_changesLine ..
      · exact .refl s line
    · exact .refl s line

theorem cleanEvict_of_owner {s : State} {n line : Nat} {e : DirEnt} (hfind : SMap.find s.dir line = some e) (hst : e.st = .m)
    (howner : e.owner = n) : s.cleanEvict n line = s.dirI line := by
  simp [State.cleanEvict, hfind, hst, howner]

theorem cleanEvict_of_shared {s : State} {n line : Nat} {e : DirEnt} (hfind : SMap.find s.dir line = some e) (hst : e.st = .s) :
    s.cleanEvict n line = s.dirS line (putBit e.sharers n false) := by
  simp [State.cleanEvict, hfind, hst]

/-- What MemClnEvct leaves of the directory. -/
theorem cleanEvict_spec (s : State) (n line : Nat) :
    (∀ e, SMap.find s.dir line = some e → e.st = .m → e.owner = n → SMap.find (s.cleanEvict n line).dir line = none) ∧
    (∀ e, SMap.find s.dir line = some e → e.st = .s → putBit e.sharers n false = 0 →
      SMap.find (s.cleanEvict n line).dir line = none) ∧
    (∀ e, SMap.find s.dir line = some e → e.st = .s → putBit e.sharers n false ≠ 0 →
      SMap.find (s.cleanEvict n line).dir line = some { st := .s, sharers := putBit e.sharers n false, order := e.order }) ∧
    ∀ k, k ≠ line → SMap.find (s.cleanEvict n line).dir k = SMap.find s.dir k := by
  refine ⟨fun e hfind hst howner => ?_, fun e hfind hst hz => ?_, fun e hfind hst hne => ?_,
    (cleanEvict_changesLine s n line).other⟩
  · rw [cleanEvict_of_owner hfind hst howner]
    exact SMap.find_del_same ..
  · rw [cleanEvict_of_shared hfind hst, State.dirS, if_pos hz]
    exact SMap.find_del_same ..
  · rw [cleanEvict_of_shared hfind hst, dirS_of_stable hfind (by rw [hst]; rfl) hne]
    exact SMap.find_put_same ..

/-- Settles O33: by how the request fares, then by what it is: a query goes to its meter, the owner's write ahead. -/
theorem hostRequestsServed : Obligations.HostRequestsServed := by
  refine ⟨fun c r op s hop harr => ⟨fun h => ?_, fun line h => ?_, fun line ctx h hquery => ⟨fun hfull hs => ?_, fun hroom =>
    ⟨fun u y hm => ?_, fun u hm hdelay => ?_, fun hm hdelay hs => ?_⟩⟩, fun line ctx m d p mv h hwr => ?_⟩,
    fun r s harr => ⟨fun mv mask data line ctx hmv h => ?_, fun mask data p hlive hknown c hc => ?_, fun hs => ?_,
    fun line ctx h => ?_⟩⟩
  · rw [exec_of_hostOp hop, hostRequest_eq harr, State.admitted, h]
    rfl
  · rw [exec_of_hostOp hop, hostRequest_eq harr, State.admitted, h]
    rfl
  · rw [exec_of_hostOp hop, hostRequest_eq harr, State.admitted, h, fares_query hquery, serveQuery_full hfull, done_self hs]
  · rw [exec_of_hostOp hop, hostRequest_eq harr, State.admitted, h, fares_query hquery, serveQuery_passes hroom hm]
    rfl
  · rw [exec_of_hostOp hop, hostRequest_eq harr, State.admitted, h, fares_query hquery, serveQuery_waits hroom hm hdelay]
    rfl
  · rw [exec_of_hostOp hop, hostRequest_eq harr, State.admitted, h, fares_query hquery, serveQuery_held hroom hm hdelay,
      done_self hs]
  · subst hwr
    have hexec : exec c s = done s (s.serveStore r (.wr m d p mv) line ctx) := by
      rw [exec_of_hostOp hop, hostRequest_eq harr, State.admitted, h, fares_store rfl]
    refine ⟨fun hother => ?_, fun e lop hfind howns hlop hheld hslow hcell => ?_⟩
    · rw [hexec, serveStore_of_other hother]
      rfl
    · obtain ⟨v, x, hwrite, ⟨hline, hothers⟩, hdir, hwait, hs2m, -, hmem, hpoison⟩ :=
        ownerWrite_served (q := hostLineReq r.host.val r.head.val (.wr m d p mv) line ctx) rfl hfind
          ((ownWrite_host ..).trans howns) hheld hslow hcell
      rw [hlop] at hmem hpoison
      refine ⟨v, ?_, hs2m, hmem, hpoison, fun k hk => hdir ▸ hothers k hk, hwait, hdir ▸ hline⟩
      rw [hexec, serveStore_of_owner howns, hwrite]
      rfl
  · have hexec : exec (.memWrPtl r mv mask data) s = done s (s.hostPartial r mv mask.toNat data) :=
      congrArg (done s) (if_neg (by rcases hmv with rfl | rfl <;> decide))
    rw [hexec, hostPartial_claims harr hmv h]
    rfl
  · have herr := hostMeta_reserved harr hlive hknown
    simp only [List.mem_cons, List.not_mem_nil, or_false] at hc
    rcases hc with rfl | rfl | rfl | rfl
    · exact congrArg (done s) (herr _)
    · exact congrArg (done s) (herr _)
    · exact congrArg (done s) (herr _)
    · exact congrArg (done s) ((if_pos rfl).trans (herr _))
  · exact done_self hs
  · obtain ⟨a, b, haccept⟩ := accept_shape s false true (line * 64) 0
    have hdir : (s.accept false true (line * 64) 0).dir = s.dir := by rw [haccept]
    have hout : (s.accept false true (line * 64) 0).out = s.out := by rw [haccept]
    obtain ⟨⟨w, x, p, k, hshape⟩, -⟩ := cleanEvict_changesLine (s.accept false true (line * 64) 0) r.host.val line
    have hspec := cleanEvict_spec (s.accept false true (line * 64) 0) r.host.val line
    rw [hdir] at hspec
    refine ⟨_, exec_memClnEvct harr h, ?_, hspec⟩
    rw [hshape]
    exact congrArg (fun o : Outputs => o.s2m ++ [(r.head.val, r.host.val, line, S2M.cmp)]) hout

end Sys2Proof.Machine
end

section
/-! O34: the directory table for the requests of hosts (R200, R202, R203). -/

namespace Sys2Proof.Machine

/-! ## What the table makes of a line's entry (R203) -/

/-- A host's request at a line that no host holds. -/
def State.whenAbsent (s : State) (line h : Nat) : HostOp → State
  | .rdS => s.dirS line (2 ^ h)
  | .rdA | .invA => s.dirM line h
  | .rdI | .invN | .wr .. => s

/-- A host's request at a shared line whose other sharers are not asked. -/
def State.whenShared (s : State) (line sharers h : Nat) : HostOp → State
  | .rdS => s.dirS line (putBit sharers h true)
  | .rdI => s
  | .rdA | .invA => s.dirM line h
  | .invN | .wr .. => s.dirI line

/-- A request of the line's owner, other than a write. -/
def State.whenOwned (s : State) (line h : Nat) : HostOp → State
  | .rdS => s.dirS line (2 ^ h)
  | .rdA | .invA => s.dirM line h
  | .rdI | .invN | .wr .. => s.dirI line

/-- Requests that leave other sharers their copies. -/
def HostOp.shares : HostOp → Bool
  | .rdS | .rdI => true
  | _ => false

/-- Requests for which a line without an entry gets one. -/
def HostOp.keeps : HostOp → Bool
  | .rdS | .rdA | .invA => true
  | _ => false

theorem whenAbsent_of_not_keeps {op : HostOp} (h : op.keeps = false) (s : State) (line n : Nat) :
    s.whenAbsent line n op = s := by
  cases op with
  | rdI => rfl
  | invN => rfl
  | wr => rfl
  | _ => cases h

theorem shares_of_ne {op : HostOp} (hS : op ≠ .rdS) (hI : op ≠ .rdI) : op.shares = false := by
  cases op with
  | rdS => contradiction
  | rdI => contradiction
  | _ => rfl

/-- A request whose snoops are sent, if there is room for them (R200, R210). -/
def State.snoopFor (s : State) (q : LineReq) (e : DirEnt) (st : DirState) (mask : Nat) : State × Bool :=
  match s.snoop q.line e st mask q.who with
  | some t => (t, true)
  | none => (s, false)

/-- At a free line neither its chunk, its page nor a combined atomic stands in a request's way (R189, R201). -/
theorem State.LineFree.gates {s : State} {line : Nat} (h : s.LineFree line) :
    s.chunkHeld line = false ∧ s.pageHeld line = false ∧ s.combinesOf line = [] ∧ s.performCombines line = s := by
  obtain ⟨-, hheld, -, hcomb⟩ := h
  obtain ⟨hpage, hchunk⟩ := Bool.or_eq_false_iff.1 hheld
  exact ⟨hchunk, hpage, hcomb, performCombines_of_none hcomb⟩

section
variable {s : State} {q : LineReq} {h hd : Nat} {op : HostOp} {e : DirEnt}
  (hfree : s.LineFree q.line) (hwho : q.who = .host h hd op)
include hfree hwho

theorem take_of_absent (hfind : SMap.find s.dir q.line = none) (hroom : op.keeps = true → s.makeRoom q.line = (s, true)) :
    s.take q = ((s.whenAbsent q.line h op).serve q.line q.who, true) := by
  obtain ⟨hchunk, hpage, hcomb, hperf⟩ := hfree.gates
  cases op with
  | rdS => simp [State.take, hwho, hfind, hchunk, hpage, hcomb, hperf, hroom rfl, State.whenAbsent]
  | rdA => simp [State.take, hwho, hfind, hchunk, hpage, hcomb, hperf, hroom rfl, State.whenAbsent]
  | invA => simp [State.take, hwho, hfind, hchunk, hpage, hcomb, hperf, hroom rfl, State.whenAbsent]
  | _ => simp [State.take, hwho, hfind, hchunk, hpage, hcomb, hperf, State.whenAbsent]

theorem take_of_shared (hfind : SMap.find s.dir q.line = some e) (hst : e.st = .s)
    (hop : op.shares = true ∨ putBit e.sharers h false = 0) :
    s.take q = ((s.whenShared q.line e.sharers h op).serve q.line q.who, true) := by
  obtain ⟨hchunk, hpage, hcomb, hperf⟩ := hfree.gates
  cases op with
  | rdS => simp [State.take, hwho, hfind, hchunk, hpage, hcomb, hperf, hst, State.whenShared, DirState.transient]
  | rdI => simp [State.take, hwho, hfind, hchunk, hpage, hcomb, hperf, hst, State.whenShared, DirState.transient]
  | _ =>
    have hnone := hop.resolve_left Bool.false_ne_true
    simp [State.take, hwho, hfind, hchunk, hpage, hcomb, hperf, hst, hnone, State.whenShared, DirState.transient]

theorem take_of_shared_others (hfind : SMap.find s.dir q.line = some e) (hst : e.st = .s) (hop : op.shares = false)
    (hothers : putBit e.sharers h false ≠ 0) : s.take q = s.snoopFor q e .sInv (putBit e.sharers h false) := by
  obtain ⟨hchunk, hpage, hcomb, hperf⟩ := hfree.gates
  cases op with
  | rdS => cases hop
  | rdI => cases hop
  | _ => simp [State.take, hwho, hfind, hchunk, hpage, hcomb, hperf, hst, hothers, State.snoopFor, DirState.transient] <;> rfl

theorem take_of_owned (hfind : SMap.find s.dir q.line = some e) (hst : e.st = .m) (howner : e.owner = h)
    (hop : op.stores = false) : s.take q = ((s.whenOwned q.line h op).serve q.line q.who, true) := by
  obtain ⟨hchunk, hpage, hcomb, hperf⟩ := hfree.gates
  cases op with
  | wr => cases hop
  | _ => simp [State.take, hwho, hfind, hchunk, hpage, hcomb, hperf, hst, howner, State.whenOwned, DirState.transient]

theorem take_of_owned_other (hfind : SMap.find s.dir q.line = some e) (hst : e.st = .m) (howner : e.owner ≠ h) :
    s.take q = s.snoopFor q e (if op.shares then .mData else .mInv) (2 ^ e.owner) := by
  obtain ⟨hchunk, hpage, hcomb, hperf⟩ := hfree.gates
  cases op <;>
    simp [State.take, hwho, hfind, hchunk, hpage, hcomb, hperf, hst, howner, State.snoopFor, HostOp.shares, DirState.transient] <;>
    rfl

end

theorem eq_wr_of_stores {op : HostOp} (h : op.stores = true) : ∃ m d p mv, op = .wr m d p mv := by
  cases op with
  | wr m d p mv => exact ⟨m, d, p, mv, rfl⟩
  | _ => cases h

/-! ## What the table's two answers leave (R203) -/

/-- A host's request is served, and the line's entry is the given one. -/
def State.Gives (s u : State) (line h hd : Nat) (op : HostOp) (e : Option DirEnt) : Prop :=
  ∃ d, s.LineGets d line e ∧ s.ServedTo u line h hd op d

/-- A host's request is held in the line's entry, and the awaited hosts are snooped. -/
structure State.Awaits (s u : State) (line : Nat) (e : DirEnt) (st : DirState) (mask : Nat) (w : Who) : Prop where
  dir : s.LineGets u.dir line (some (e.snooped st mask s.tick w))
  waitq : u.waitq = s.waitq
  s2m : u.out.s2m = s.out.s2m ++ (setBits 64 mask).map fun g => (s.hostHead g, g, line, st.snp)
  mem : u.tier.mem = s.tier.mem
  poison : u.tier.poison = s.tier.poison

section
variable {s t : State} {q : LineReq} {h hd : Nat} {op : HostOp} (htaken : s.Taken q) (hwho : q.who = .host h hd op)
  (htake : s.take q = (t.serve q.line q.who, true))
include htaken hwho htake

theorem gives_of_withDir {d : SMap DirEnt} {k : Nat} {x : Option DirEnt} (ht : t = s.withDir d k) (hgets : s.LineGets d q.line x) :
    s.Gives (s.submit q) q.line h hd op x := by
  obtain ⟨hcell, -, hslow, -⟩ := htaken.2.1
  rw [submit_of_taken htaken htake, ht, hwho]
  exact ⟨d, hgets, serve_servedTo hcell hslow ..⟩

theorem gives_same (ht : t = s) : s.Gives (s.submit q) q.line h hd op (SMap.find s.dir q.line) :=
  gives_of_withDir htaken hwho htake (d := s.dir) (k := s.tier.stables) ht ⟨rfl, fun _ _ => rfl⟩

theorem gives_dirI (ht : t = s.dirI q.line) : s.Gives (s.submit q) q.line h hd op none :=
  gives_of_withDir htaken hwho htake (ht.trans (dirI_eq ..)) (lineGets_del ..)

theorem gives_dirS {sharers k o : Nat} (hne : sharers ≠ 0)
    (hput : ∀ x, s.putStable q.line x = s.withDir (SMap.put s.dir q.line { x with order := o }) k) (ht : t = s.dirS q.line sharers) :
    s.Gives (s.submit q) q.line h hd op (some { st := .s, sharers := sharers, order := o }) :=
  gives_of_withDir htaken hwho htake (ht.trans ((dirS_of_ne_zero hne).trans (hput _))) (lineGets_put ..)

theorem gives_dirM {k o : Nat}
    (hput : ∀ x, s.putStable q.line x = s.withDir (SMap.put s.dir q.line { x with order := o }) k) (ht : t = s.dirM q.line h) :
    s.Gives (s.submit q) q.line h hd op (some { st := .m, owner := h, order := o }) :=
  gives_of_withDir htaken hwho htake (ht.trans (hput _)) (lineGets_put ..)

end

theorem snooping_shape (s : State) (line : Nat) (e : DirEnt) (st : DirState) (mask : Nat) (w : Who) :
    ∃ r, s.snooping line e st mask w = { s with
      regs := r, dir := SMap.put s.dir line (e.snooped st mask s.tick w), out := { s.out with
        s2m := s.out.s2m ++ (setBits 64 mask).map fun g => (s.hostHead g, g, line, st.snp) } } := by
  obtain ⟨⟨r, hr⟩, -⟩ := setFld_onlyReg (s.withDir (SMap.put s.dir line (e.snooped st mask s.tick w)) s.tier.stables)
    Reg.HOME_DIR_CNT Reg.HOME_DIR_CNT_SNOOPS (s.fld Reg.HOME_DIR_CNT Reg.HOME_DIR_CNT_SNOOPS + (setBits 64 mask).length)
  exact ⟨r, congrArg (State.say · ((setBits 64 mask).map fun g => (s.hostHead g, g, line, st.snp))) hr⟩

theorem snooping_awaits (s : State) (line : Nat) (e : DirEnt) (st : DirState) (mask : Nat) (w : Who) :
    s.Awaits (s.snooping line e st mask w) line e st mask w := by
  obtain ⟨r, hr⟩ := snooping_shape s line e st mask w
  rw [hr]
  exact ⟨lineGets_put .., rfl, rfl, rfl, rfl⟩

/-- What is counted for a request changes nothing of its line. -/
theorem State.Awaits.accept {s u : State} {line mask : Nat} {e : DirEnt} {st : DirState} {w : Who}
    (h : s.Awaits u line e st mask w) (write counts : Bool) (l n : Nat) :
    s.Awaits (u.accept write counts l n) line e st mask w := by
  obtain ⟨hdir, hwait, hs2m, hmem, hpoison⟩ := h
  obtain ⟨_, _, haccept⟩ := accept_shape u write counts l n
  rw [haccept]
  exact ⟨hdir, hwait, hs2m, hmem, hpoison⟩

theorem awaits_of_snoopFor {s : State} {q : LineReq} {e : DirEnt} {st : DirState} {mask : Nat} (htaken : s.Taken q)
    (htake : s.take q = s.snoopFor q e st mask) (hroom : s.transients q.line < 256)
    (hmax : ((setBits 64 mask).all fun g => decide (s.snoopsOut g < s.snoopMax)) = true) :
    s.Awaits (s.submit q) q.line e st mask q.who := by
  have hsnoop : s.take q = (s.snooping q.line e st mask q.who, true) := by
    rw [htake, State.snoopFor, snoop_of_room hroom hmax]
  rw [submit_of_taken htaken hsnoop]
  exact (snooping_awaits ..).accept ..

/-! ## The table's cases (R203) -/

section
variable {s : State} {q : LineReq} {h hd : Nat} {op : HostOp} {e : DirEnt} (htaken : s.Taken q) (hwho : q.who = .host h hd op)
include htaken hwho

theorem gives_none_of_absent (hfind : SMap.find s.dir q.line = none) (hop : op = .rdI ∨ op = .invN ∨ op.stores = true) :
    s.Gives (s.submit q) q.line h hd op none := by
  have hkeeps : op.keeps = false := by
    rcases hop with rfl | rfl | hstores
    · rfl
    · rfl
    · obtain ⟨_, _, _, _, rfl⟩ := eq_wr_of_stores hstores
      rfl
  have htake := take_of_absent htaken.2.1 hwho hfind fun hk => absurd hk (by rw [hkeeps]; exact Bool.false_ne_true)
  exact hfind ▸ gives_same htaken hwho htake (whenAbsent_of_not_keeps hkeeps ..)

section
variable (hfind : SMap.find s.dir q.line = none) (hroom : s.makeRoom q.line = (s, true))
include hfind hroom

theorem gives_shared_of_absent (hop : op = .rdS) :
    s.Gives (s.submit q) q.line h hd op (some { st := .s, sharers := 2 ^ h, order := s.tier.stables }) := by
  have htake := take_of_absent htaken.2.1 hwho hfind fun _ => hroom
  exact gives_dirS htaken hwho htake (Nat.two_pow_pos h).ne' (putStable_of_none hfind) (by rw [hop]; rfl)

theorem gives_owned_of_absent (hop : op = .rdA ∨ op = .invA) :
    s.Gives (s.submit q) q.line h hd op (some { st := .m, owner := h, order := s.tier.stables }) := by
  have htake := take_of_absent htaken.2.1 hwho hfind fun _ => hroom
  exact gives_dirM htaken hwho htake (putStable_of_none hfind) (by rcases hop with rfl | rfl <;> rfl)

end

section
variable (hfind : SMap.find s.dir q.line = some e) (hst : e.st = .s)
include hfind hst

theorem gives_shared_of_shared (hop : op = .rdS) : s.Gives (s.submit q) q.line h hd op
    (some { st := .s, sharers := putBit e.sharers h true, order := e.order }) := by
  have htake := take_of_shared htaken.2.1 hwho hfind hst (.inl (by rw [hop]; rfl))
  have hput := putStable_of_stable hfind (by rw [hst]; rfl)
  exact gives_dirS htaken hwho htake (putBit_true_ne_zero _ _) hput (by rw [hop]; rfl)

theorem gives_same_of_shared (hop : op = .rdI) : s.Gives (s.submit q) q.line h hd op (some e) := by
  have htake := take_of_shared htaken.2.1 hwho hfind hst (.inl (by rw [hop]; rfl))
  exact hfind ▸ gives_same htaken hwho htake (by rw [hop]; rfl)

theorem gives_owned_of_shared (hnone : putBit e.sharers h false = 0) (hop : op = .rdA ∨ op = .invA) :
    s.Gives (s.submit q) q.line h hd op (some { st := .m, owner := h, order := e.order }) := by
  have htake := take_of_shared htaken.2.1 hwho hfind hst (.inr hnone)
  have hput := putStable_of_stable hfind (by rw [hst]; rfl)
  exact gives_dirM htaken hwho htake hput (by rcases hop with rfl | rfl <;> rfl)

theorem gives_none_of_shared (hnone : putBit e.sharers h false = 0) (hop : op = .invN ∨ op.stores = true) :
    s.Gives (s.submit q) q.line h hd op none := by
  have htake := take_of_shared htaken.2.1 hwho hfind hst (.inr hnone)
  refine gives_dirI htaken hwho htake ?_
  rcases hop with rfl | hstores
  · rfl
  · obtain ⟨_, _, _, _, rfl⟩ := eq_wr_of_stores hstores
    rfl

end

section
variable (hfind : SMap.find s.dir q.line = some e) (hst : e.st = .m) (howner : e.owner = h)
include hfind hst howner

theorem gives_shared_of_owned (hop : op = .rdS) :
    s.Gives (s.submit q) q.line h hd op (some { st := .s, sharers := 2 ^ h, order := e.order }) := by
  have htake := take_of_owned htaken.2.1 hwho hfind hst howner (by rw [hop]; rfl)
  have hput := putStable_of_stable hfind (by rw [hst]; rfl)
  exact gives_dirS htaken hwho htake (Nat.two_pow_pos h).ne' hput (by rw [hop]; rfl)

theorem gives_owned_of_owned (hop : op = .rdA ∨ op = .invA) :
    s.Gives (s.submit q) q.line h hd op (some { st := .m, owner := h, order := e.order }) := by
  have htake := take_of_owned htaken.2.1 hwho hfind hst howner (by rcases hop with rfl | rfl <;> rfl)
  have hput := putStable_of_stable hfind (by rw [hst]; rfl)
  exact gives_dirM htaken hwho htake hput (by rcases hop with rfl | rfl <;> rfl)

theorem gives_none_of_owned (hop : op = .rdI ∨ op = .invN) : s.Gives (s.submit q) q.line h hd op none := by
  have htake := take_of_owned htaken.2.1 hwho hfind hst howner (by rcases hop with rfl | rfl <;> rfl)
  exact gives_dirI htaken hwho htake (by rcases hop with rfl | rfl <;> rfl)

end

end

/-! ## From the command to the table -/

theorem access_of_query {op : HostOp} (h : op.stores = false) (s : State) (line : Nat) : (s.access line op.lineOp).1 = s := by
  have hread : (s.perform line .read).1 = s := by
    unfold State.perform
    split
    · rfl
    · dsimp only
      split <;> rfl
  cases op with
  | wr => cases h
  | invA => rfl
  | invN => rfl
  | _ => exact hread

/-- A host's request that its slice takes is executed as its submission to the arbiter (R201, R208). -/
theorem exec_submits {c : Instr} {r : HostMsg} {op : HostOp} {s0 s : State} {line ctx : Nat} (hop : hostOpOf c = some (r, op))
    (harr : s0.memArrives r.head.val = true) (hadmit : s0.admitted r op = .served line ctx)
    (hcase : if op.stores then s = s0 ∧ s0.owns r.host.val line = false ∧ ∃ m d p, op = .wr m d p .i
      else s0.sliceFull line = false ∧
        ∃ y, s0.meterCheck ctx (.host (hostLineReq r.host.val r.head.val op line ctx)) 64 = (s, .pass y)) :
    exec c s0 = done s0 (s.submit (hostLineReq r.host.val r.head.val op line ctx)).go := by
  rw [exec_of_hostOp hop, hostRequest_eq harr, hadmit]
  by_cases hstores : op.stores = true
  · rw [if_pos hstores] at hcase
    obtain ⟨rfl, hother, m, d, p, rfl⟩ := hcase
    rw [fares_store hstores, serveStore_of_other hother, if_neg (by decide)]
  · rw [if_neg hstores] at hcase
    obtain ⟨hroom, y, hpass⟩ := hcase
    rw [fares_query (Bool.eq_false_of_not_eq_true hstores), serveQuery_passes hroom hpass]

/-- Settles O34: by the line's entry and the request, the table either serves it or sends the snoops. -/
theorem directoryTable : Obligations.DirectoryTable := by
  intro c r op s0 s line ctx hop harr h hd q hadmit hcase htaken u done data reply stays gives shared owned snoops
  have hgives {e : Option DirEnt} (hg : s.Gives u line h hd op e) : gives e := by
    obtain ⟨d, ⟨hline, hothers⟩, hdir, hwait, hs2m, hregs, hmem, hpoison⟩ := hg
    refine ⟨hdir ▸ hline, ⟨fun k hk => hdir ▸ hothers k hk, hwait⟩, hs2m, hregs, fun hquery => ?_, fun lop _ hlop => ?_⟩
    · rw [access_of_query hquery] at hmem hpoison
      exact ⟨hmem, hpoison⟩
    · rw [hlop] at hmem hpoison
      exact ⟨hmem, hpoison⟩
  have hsnoops {e : DirEnt} {st : DirState} {mask : Nat} (htake : s.take q = s.snoopFor q e st mask) :
      snoops e st mask st.snp := fun hroom hmax => by
    obtain ⟨⟨hline, hothers⟩, hwait, hs2m, hmem, hpoison⟩ := awaits_of_snoopFor htaken htake hroom hmax
    exact ⟨hline, ⟨hothers, hwait⟩, hs2m, hmem, hpoison⟩
  have hnext : exec c s0 = .next (settle s0 u.go) := exec_submits hop harr hadmit hcase
  refine ⟨hnext, fun hfind => ⟨fun hq => ?_, fun hroom => ⟨fun hq => ?_, fun hq => ?_⟩⟩, fun e hfind =>
    ⟨fun hst => ⟨fun hq => ?_, fun hq => ?_, fun hnone => ⟨fun hq => ?_, fun hq => ?_⟩, fun hothers hS hI => ?_⟩,
      fun hst howner => ⟨fun hq => ?_, fun hq => ?_, fun hq => ?_⟩, fun hst howner => ?_⟩⟩
  · exact hgives (gives_none_of_absent htaken rfl hfind hq)
  · exact hgives (gives_shared_of_absent htaken rfl hfind hroom hq)
  · exact hgives (gives_owned_of_absent htaken rfl hfind hroom hq)
  · exact hgives (gives_shared_of_shared htaken rfl hfind hst hq)
  · exact hgives (gives_same_of_shared htaken rfl hfind hst hq)
  · exact hgives (gives_owned_of_shared htaken rfl hfind hst hnone hq)
  · exact hgives (gives_none_of_shared htaken rfl hfind hst hnone hq)
  · exact hsnoops (take_of_shared_others htaken.2.1 rfl hfind hst (shares_of_ne hS hI) hothers)
  · exact hgives (gives_shared_of_owned htaken rfl hfind hst howner hq)
  · exact hgives (gives_owned_of_owned htaken rfl hfind hst howner hq)
  · exact hgives (gives_none_of_owned htaken rfl hfind hst howner hq)
  · have htake := take_of_owned_other htaken.2.1 (q := q) rfl hfind hst howner
    refine ⟨fun hq => ?_, fun hS hI => ?_⟩
    · have hshares : op.shares = true := by rcases hq with rfl | rfl <;> rfl
      rw [hshares] at htake
      exact hsnoops htake
    · rw [shares_of_ne hS hI] at htake
      exact hsnoops htake

end Sys2Proof.Machine
end

section
/-! SUPPORT. The scratchpad: its words and their poison (R235), the owner registers of its banks (R224, R225), and what leaves
both as they were. -/

namespace Sys2Proof.Machine

/-- A map filtered by its keys keeps what it lists at the keys that pass. -/
theorem find_filter_keys {α : Type} (p : Nat → Bool) (m : SMap α) (k : Nat) :
    SMap.find (m.filter fun e => p e.1) k = if p k then SMap.find m k else none := by
  induction m with
  | nil => simp [SMap.find]
  | cons e m ih =>
    obtain ⟨j, v⟩ := e
    by_cases hp : p j = true
    · by_cases hj : j = k
      · subst hj
        simp [SMap.find, hp]
      · simp [SMap.find, hp, hj, ih]
    · by_cases hj : j = k
      · subst hj
        simp [hp, ih]
      · simp [SMap.find, hp, hj, ih]

theorem get_filter_keys {α : Type} (p : Nat → Bool) (m : SMap α) (k : Nat) (d : α) :
    SMap.get (m.filter fun e => p e.1) k d = if p k then SMap.get m k d else d := by
  rw [SMap.get, find_filter_keys]
  split <;> rfl

/-! ## Words and their poison (R235) -/

theorem setWordPoison_mem (s : State) (off : Nat) (p : Bool) : (s.setWordPoison off p).pad.mem = s.pad.mem := by
  unfold State.setWordPoison
  split
  · rfl
  · rw [setFld_pad]

theorem wordPoison_setWordPoison_same (s : State) (off : Nat) (p : Bool) : (s.setWordPoison off p).wordPoison off = p := by
  unfold State.setWordPoison
  split
  next h => exact h.1
  next => exact SMap.get_set_same ..

theorem wordPoison_setWordPoison_other (s : State) {off k : Nat} (p : Bool) (h : k / 64 ≠ off / 64) :
    (s.setWordPoison off p).wordPoison k = s.wordPoison k := by
  unfold State.setWordPoison
  split
  · rfl
  · exact SMap.get_set_other _ _ _ _ h

/-- A bank with a poisoned word says so. -/
theorem own_poisoned_setWordPoison (s : State) (off : Nat) :
    (s.setWordPoison off true).own (bankOf off) Reg.CADDY_OWN_POISONED = 1 := by
  rw [State.setWordPoison, if_neg fun h => h.2 rfl]
  exact fld_setFld_same _ _ _ (by decide) (by decide)

theorem padPut_mem (s : State) (off : Nat) (d : List Byte) : (s.padPut off d).pad.mem = memWrite s.pad.mem off d := by
  unfold State.padPut
  dsimp only
  split
  · exact setWordPoison_mem ..
  · rfl

theorem wordPoison_padPut (s : State) (off : Nat) {d : List Byte} (h : d.length = 64) :
    (s.padPut off d).wordPoison off = false := by
  unfold State.padPut
  dsimp only
  rw [if_pos h]
  exact wordPoison_setWordPoison_same ..

/-! ## Owner registers (R224, R225) -/

theorem caddyOwn_off_ne {b k : Nat} (h : k ≠ b) : (Reg.CADDY_OWN k).off ≠ (Reg.CADDY_OWN b).off := by
  simp only [Reg.CADDY_OWN]
  omega

/-- The owner of a bank as the fields of its register say. -/
def State.setOwner (s : State) (b kind idx st : Nat) : State :=
  ((s.setFld (Reg.CADDY_OWN b) Reg.CADDY_OWN_KIND kind).setFld (Reg.CADDY_OWN b) Reg.CADDY_OWN_IDX idx).setFld
    (Reg.CADDY_OWN b) Reg.CADDY_OWN_STATE st

theorem giveRole_eq (s : State) (b kind idx : Nat) : s.giveRole b kind idx = s.setOwner b kind idx 1 := rfl

theorem setOwner_onlyReg (s : State) (b kind idx st : Nat) : s.OnlyReg (s.setOwner b kind idx st) (Reg.CADDY_OWN b) :=
  ((setFld_onlyReg ..).trans (setFld_onlyReg ..)).trans (setFld_onlyReg ..)

theorem own_setOwner (s : State) (b kind idx st : Nat) :
    (s.setOwner b kind idx st).own b Reg.CADDY_OWN_KIND = kind % 2 ^ 3 ∧
    (s.setOwner b kind idx st).own b Reg.CADDY_OWN_IDX = idx % 2 ^ 5 ∧
    (s.setOwner b kind idx st).own b Reg.CADDY_OWN_STATE = st % 2 ^ 2 := by
  simp (disch := decide) only [State.setOwner, State.own, fld_setFld_same, fld_setFld_field]
  exact ⟨rfl, rfl, rfl⟩

theorem own_withPad (s : State) (p : PadState) (b : Nat) (f : Fld) : ({ s with pad := p } : State).own b f = s.own b f := rfl

theorem settle_own (s t : State) (b : Nat) (f : Fld) : (settle s t).own b f = t.own b f := rfl

/-- The handovers in progress replaced. -/
def State.withHandovers (s : State) (m : SMap Handover) : State := { s with pad := { s.pad with handovers := m } }

@[simp] theorem withHandovers_mem (s : State) (m : SMap Handover) : (s.withHandovers m).pad.mem = s.pad.mem := rfl

@[simp] theorem withHandovers_handovers (s : State) (m : SMap Handover) : (s.withHandovers m).pad.handovers = m := rfl

@[simp] theorem withHandovers_reg (s : State) (m : SMap Handover) (r : RegId) : (s.withHandovers m).reg r = s.reg r := rfl

@[simp] theorem withHandovers_own (s : State) (m : SMap Handover) (b : Nat) (f : Fld) :
    (s.withHandovers m).own b f = s.own b f := rfl

theorem State.OnlyReg.pad_eq {s t : State} {r : RegId} (h : s.OnlyReg t r) : t.pad = s.pad := by
  obtain ⟨⟨_, rfl⟩, -⟩ := h
  rfl

theorem State.OnlyReg.own_other {s t : State} {b k : Nat} (h : s.OnlyReg t (Reg.CADDY_OWN b)) (hk : k ≠ b) (f : Fld) :
    t.own k f = s.own k f :=
  fld_congr f (h.2 _ (caddyOwn_off_ne hk))

/-! ## What leaves the scratchpad and its owners alone -/

/-- The scratchpad and the owner registers of its banks are as they were. -/
def State.KeepsBanks (s t : State) : Prop := t.pad = s.pad ∧ ∀ b < 2048, t.reg (Reg.CADDY_OWN b) = s.reg (Reg.CADDY_OWN b)

namespace State.KeepsBanks

variable {s t u : State}

theorem refl (s : State) : s.KeepsBanks s := ⟨rfl, fun _ _ => rfl⟩

theorem trans (h : s.KeepsBanks t) (h' : t.KeepsBanks u) : s.KeepsBanks u :=
  ⟨h'.1.trans h.1, fun b hb => (h'.2 b hb).trans (h.2 b hb)⟩

theorem own_eq (h : s.KeepsBanks t) {b : Nat} (hb : b < 2048) (f : Fld) : t.own b f = s.own b f := fld_congr f (h.2 b hb)

theorem wordPoison_eq (h : s.KeepsBanks t) (off : Nat) : t.wordPoison off = s.wordPoison off := by
  simp only [State.wordPoison, h.1]

end State.KeepsBanks

theorem State.OnlyNotes.keepsBanks {s t : State} (h : s.OnlyNotes t) : s.KeepsBanks t := by
  obtain ⟨_, _, _, _, rfl, -⟩ := h
  exact .refl s

/-- A count outside the owner registers. -/
theorem bump_keepsBanks (s : State) {r : RegId} (h : r.off < 0x600000 ∨ 0x604000 ≤ r.off) (f : Fld) (n : Nat) :
    s.KeepsBanks (s.bump r f n) :=
  ⟨rfl, fun b hb => reg_setFld_other s f _ (by simp only [Reg.CADDY_OWN]; omega)⟩

theorem dir_keepsBanks (s : State) (d : SMap DirEnt) : s.KeepsBanks { s with dir := d } := .refl s

theorem say_keepsBanks (s : State) (l : List (Nat × Nat × Nat × S2M)) : s.KeepsBanks (s.say l) := .refl s

theorem choose_keepsBanks (s : State) (n : Nat) : s.KeepsBanks (s.choose n).2 := .refl s

theorem capChange_keepsBanks (s : State) : s.KeepsBanks s.capChange := bump_keepsBanks s (by decide) _ _

theorem killTask_keepsBanks (s : State) (id : Nat) (st : Status) : s.KeepsBanks (s.killTask id st) := by
  obtain ⟨m, hm⟩ := killTask_onlyTasks s id st
  rw [hm]
  exact .refl s

/-- Lost state ends work and is counted (R516). -/
theorem loseState_keepsBanks (s : State) (p : PartId) : s.KeepsBanks (s.loseState p) := by
  unfold State.loseState
  refine List.foldlRecOn (motive := s.KeepsBanks) _ _ (.refl s) fun t ht j _ => ht.trans ?_
  exact (killTask_keepsBanks t j.task .lostState).trans (bump_keepsBanks _ (r := Reg.RAS_JRNL) (by decide) _ _)

theorem snoop_keepsBanks {s t : State} {line mask : Nat} {e : DirEnt} {st : DirState} {w : Who}
    (h : s.snoop line e st mask w = some t) : s.KeepsBanks t := by
  unfold State.snoop at h
  split at h
  · cases h
  · dsimp only at h
    rw [foldl_toHost] at h
    obtain rfl := Option.some.inj h
    exact (dir_keepsBanks s _).trans ((bump_keepsBanks _ (r := Reg.HOME_DIR_CNT) (by decide) _ _).trans (say_keepsBanks ..))

end Sys2Proof.Machine
end

section
/-! O11: words of the scratchpad (R235). -/

namespace Sys2Proof.Machine

/-- Settles O11: the bytes are written as to any memory, and a whole word clears its poison. -/
theorem scratchpadWords : Obligations.ScratchpadWords := by
  intro s off d
  rw [padPut_mem]
  refine ⟨?_, fun a ha => memWrite_outside d _ ha, wordPoison_padPut s off, memWrite_wf d off⟩
  rw [State.padBytes, padPut_mem]
  exact memRead_memWrite ..

end Sys2Proof.Machine
end

section
/-! O49: banks of the scratchpad: owners, errors, repair, retirement, clearing (R226, R227, R235 to R237, R240, R492). -/

namespace Sys2Proof.Machine

/-! ## Scrubbing (R227 step 4) -/

theorem scrubBank_reg_other (s : State) {b : Nat} {q : RegId} (h : q.off ≠ (Reg.CADDY_OWN b).off) :
    (s.scrubBank b).reg q = s.reg q := reg_setFld_other _ _ _ h

theorem own_scrubBank (s : State) (b : Nat) {f : Fld} (h : Reg.CADDY_OWN_POISONED.Apart f) :
    (s.scrubBank b).own b f = s.own b f := fld_setFld_field _ _ _ (by decide) (by decide) h

theorem get_scrubBank (s : State) (b a : Nat) :
    SMap.get (s.scrubBank b).pad.mem a 0 = if a / 2 ^ 21 = b then 0 else SMap.get s.pad.mem a 0 := by
  refine (get_filter_keys (fun k => decide (k < b * 2 ^ 21) || decide (b * 2 ^ 21 + 2 ^ 21 ≤ k)) s.pad.mem a 0).trans ?_
  by_cases h : a / 2 ^ 21 = b
  · rw [if_pos h, if_neg (by simp only [Bool.or_eq_true, decide_eq_true_eq]; omega)]
  · rw [if_neg h, if_pos (by simp only [Bool.or_eq_true, decide_eq_true_eq]; omega)]

/-! ## Writes of `CADDY_OWN_b` (R226, R492) -/

/-- The world that a write of its register leaves a bank in: a secure write changes that of an UNOWNED bank (R492). -/
def State.worldWritten (s : State) (via : Via) (b : Nat) (v : Word) : Bool :=
  if s.secureVia via && s.own b Reg.CADDY_OWN_STATE = 0 then decide (newFld Reg.CADDY_OWN_WORLD v = 1)
  else s.flag (Reg.CADDY_OWN b) Reg.CADDY_OWN_WORLD

/-- The fields of a bank's register as a write leaves them, the bank's world among them. -/
def State.ownWritten (s : State) (via : Via) (b : Nat) (v : Word) : State :=
  (s.writePlain (s.secureVia via) (Reg.CADDY_OWN b) [Reg.CADDY_OWN_WORLD] v.toNat).setFld (Reg.CADDY_OWN b)
    Reg.CADDY_OWN_WORLD (s.worldWritten via b v).toNat

theorem ownWritten_onlyReg (s : State) (via : Via) (b : Nat) (v : Word) :
    s.OnlyReg (s.ownWritten via b v) (Reg.CADDY_OWN b) := (writePlain_onlyReg ..).trans (setFld_onlyReg ..)

/-- A handover that a write asks for. -/
def State.askedHandover (s : State) (via : Via) (b : Nat) (v : Word) : Handover :=
  ⟨newFld Reg.CADDY_OWN_NEXT_KIND v,
    if newFld Reg.CADDY_OWN_NEXT_KIND v = 7 then 0 else newFld Reg.CADDY_OWN_NEXT_IDX v,
    decide (newFld Reg.CADDY_OWN_SCRUB v = 1) || s.flag Reg.SEC_CFG Reg.SEC_CFG_FORCE_SCRUB || s.worldWritten via b v ||
      s.flag (Reg.CADDY_OWN b) Reg.CADDY_OWN_WORLD⟩

/-- The bank's handover has begun (R226). -/
def State.handingOver (s : State) (via : Via) (b : Nat) (v : Word) : State :=
  let t := (s.ownWritten via b v).setFld (Reg.CADDY_OWN b) Reg.CADDY_OWN_STATE 2
  t.withHandovers (SMap.put t.pad.handovers b (s.askedHandover via b v))

theorem handingOver_mem (s : State) (via : Via) (b : Nat) (v : Word) : (s.handingOver via b v).pad.mem = s.pad.mem := by
  rw [State.handingOver, withHandovers_mem, setFld_pad, (ownWritten_onlyReg s via b v).pad_eq]

theorem find_handovers_handingOver (s : State) (via : Via) (b : Nat) (v : Word) :
    SMap.find (s.handingOver via b v).pad.handovers b = some (s.askedHandover via b v) := by
  rw [State.handingOver, withHandovers_handovers, SMap.find_put_same]

theorem own_state_handingOver (s : State) (via : Via) (b : Nat) (v : Word) :
    (s.handingOver via b v).own b Reg.CADDY_OWN_STATE = 2 := by
  rw [State.handingOver, withHandovers_own]
  exact fld_setFld_same _ _ 2 (by decide) (by decide)

theorem handingOver_reg_other (s : State) (via : Via) {b : Nat} (v : Word) {q : RegId} (h : q.off ≠ (Reg.CADDY_OWN b).off) :
    (s.handingOver via b v).reg q = s.reg q := by
  rw [State.handingOver, withHandovers_reg, reg_setFld_other _ _ _ h, (ownWritten_onlyReg s via b v).2 q h]

/-- A GO is refused, or begins a handover. -/
theorem writeCaddyOwn_go {via : Via} {b : Nat} {v : Word} (hgo : newFld Reg.CADDY_OWN_GO v = 1) (s : State) :
    s.writeCaddyOwn via b v =
      if s.refusesHandover b (newFld Reg.CADDY_OWN_NEXT_KIND v) (newFld Reg.CADDY_OWN_NEXT_IDX v) (s.worldWritten via b v) then
        s.setFld (Reg.CADDY_OWN b) Reg.CADDY_OWN_REFUSED 1
      else s.handingOver via b v := if_neg (by omega)

/-- Without GO a write changes the fields alone, and scrubs a bank whose world it changes. -/
theorem writeCaddyOwn_changesWorld {via : Via} {b : Nat} {v : Word} {s : State} (hgo : newFld Reg.CADDY_OWN_GO v = 0)
    (hw : s.worldWritten via b v ≠ s.flag (Reg.CADDY_OWN b) Reg.CADDY_OWN_WORLD) :
    s.writeCaddyOwn via b v = (s.ownWritten via b v).scrubBank b := (if_pos hgo).trans (if_neg hw)

theorem exec_bankHandover {via : Via} {b : Fin 2048} {v : Word} {s : State}
    (hm : s.mayWrite via (Reg.CADDY_OWN b.val).off = true) (hgo : newFld Reg.CADDY_OWN_GO v = 1) :
    exec (.bankHandover via b v) s = done s (s.writeCaddyOwn via b.val v) := congrArg (done s) (if_pos ⟨hm, hgo⟩)

theorem exec_bankWorldWrite {via : Via} {b : Fin 2048} {v : Word} {s : State}
    (hm : s.mayWrite via (Reg.CADDY_OWN b.val).off = true)
    (hw : newFld Reg.CADDY_OWN_WORLD v ≠ s.own b.val Reg.CADDY_OWN_WORLD) :
    exec (.bankWorldWrite via b v) s = done s (s.writeCaddyOwn via b.val v) := congrArg (done s) (if_pos ⟨hm, hw⟩)

theorem bankHandover_begins {via : Via} {b : Fin 2048} {v : Word} {s : State}
    (hm : s.mayWrite via (Reg.CADDY_OWN b.val).off = true) (hgo : newFld Reg.CADDY_OWN_GO v = 1)
    (href : s.refusesHandover b.val (newFld Reg.CADDY_OWN_NEXT_KIND v) (newFld Reg.CADDY_OWN_NEXT_IDX v)
      (s.worldWritten via b.val v) = false) :
    ∃ t, exec (.bankHandover via b v) s = .next t ∧ t.own b.val Reg.CADDY_OWN_STATE = 2 ∧ t.pad.mem = s.pad.mem ∧
      SMap.find t.pad.handovers b.val = some (s.askedHandover via b.val v) ∧
      ∀ q : RegId, q.off ≠ (Reg.CADDY_OWN b.val).off → t.reg q = s.reg q := by
  have hexec : exec (.bankHandover via b v) s = .next (settle s (s.handingOver via b.val v)) := by
    rw [exec_bankHandover hm hgo, writeCaddyOwn_go hgo, href]
    rfl
  refine ⟨_, hexec, ?_, ?_, ?_, fun q hq => ?_⟩
  · rw [settle_own, own_state_handingOver]
  · rw [settle_pad, handingOver_mem]
  · rw [settle_pad, find_handovers_handingOver]
  · rw [settle_reg, handingOver_reg_other s via v hq]

theorem bankHandover_refused {via : Via} {b : Fin 2048} {v : Word} {s : State} (hs : s.Quiet)
    (hm : s.mayWrite via (Reg.CADDY_OWN b.val).off = true) (hgo : newFld Reg.CADDY_OWN_GO v = 1)
    (href : s.refusesHandover b.val (newFld Reg.CADDY_OWN_NEXT_KIND v) (newFld Reg.CADDY_OWN_NEXT_IDX v)
      (s.worldWritten via b.val v) = true) :
    ∃ t, exec (.bankHandover via b v) s = .next t ∧ s.OnlyReg t (Reg.CADDY_OWN b.val) ∧
      t.flag (Reg.CADDY_OWN b.val) Reg.CADDY_OWN_REFUSED = true := by
  rw [exec_bankHandover hm hgo, writeCaddyOwn_go hgo, if_pos href]
  exact ⟨_, done_of_onlyReg hs (setFld_onlyReg ..), setFld_onlyReg .., flag_setFld_one s _ (by decide) (by decide)⟩

/-- The world of an UNOWNED bank is the one that a secure write gives it. -/
theorem worldWritten_toNat {via : Via} {b : Nat} {s : State} (hsec : s.secureVia via = true)
    (hst : s.own b Reg.CADDY_OWN_STATE = 0) (v : Word) :
    (s.worldWritten via b v).toNat = newFld Reg.CADDY_OWN_WORLD v := by
  have hlt : newFld Reg.CADDY_OWN_WORLD v < 2 := Fld.get_lt _ _
  have hw : s.worldWritten via b v = decide (newFld Reg.CADDY_OWN_WORLD v = 1) := by
    simp [State.worldWritten, hsec, hst]
  rw [hw]
  by_cases h1 : newFld Reg.CADDY_OWN_WORLD v = 1
  · rw [h1]
    rfl
  · rw [decide_eq_false h1, Bool.toNat_false]
    omega

theorem bankWorldWrite_scrubs {via : Via} {b : Fin 2048} {v : Word} {s : State}
    (hm : s.mayWrite via (Reg.CADDY_OWN b.val).off = true) (hgo : newFld Reg.CADDY_OWN_GO v = 0)
    (hsec : s.secureVia via = true) (hst : s.own b.val Reg.CADDY_OWN_STATE = 0)
    (hw : newFld Reg.CADDY_OWN_WORLD v ≠ s.own b.val Reg.CADDY_OWN_WORLD) :
    ∃ t, exec (.bankWorldWrite via b v) s = .next t ∧ t.own b.val Reg.CADDY_OWN_WORLD = newFld Reg.CADDY_OWN_WORLD v ∧
      ∀ a, SMap.get t.pad.mem a 0 = if a / 2 ^ 21 = b.val then 0 else SMap.get s.pad.mem a 0 := by
  have hlt : newFld Reg.CADDY_OWN_WORLD v < 2 := Fld.get_lt _ _
  have hold : s.own b.val Reg.CADDY_OWN_WORLD < 2 := fld_lt ..
  have hnew := worldWritten_toNat hsec hst v
  have hchange : s.worldWritten via b.val v ≠ s.flag (Reg.CADDY_OWN b.val) Reg.CADDY_OWN_WORLD := by
    intro h
    rw [h] at hnew
    by_cases h1 : s.own b.val Reg.CADDY_OWN_WORLD = 1
    · rw [flag_eq_true.2 h1, Bool.toNat_true] at hnew
      omega
    · rw [flag_eq_false.2 h1, Bool.toNat_false] at hnew
      omega
  rw [exec_bankWorldWrite hm hw, writeCaddyOwn_changesWorld hgo hchange]
  refine ⟨_, rfl, ?_, fun a => get_scrubBank (s.ownWritten via b.val v) b.val a⟩
  calc ((s.ownWritten via b.val v).scrubBank b.val).own b.val Reg.CADDY_OWN_WORLD
      = (s.ownWritten via b.val v).own b.val Reg.CADDY_OWN_WORLD := own_scrubBank _ _ (by decide)
    _ = (s.worldWritten via b.val v).toNat % 2 ^ 1 := fld_setFld_same _ _ _ (by decide) (by decide)
    _ = newFld Reg.CADDY_OWN_WORLD v := by rw [hnew, Nat.pow_one, Nat.mod_eq_of_lt hlt]

/-! ## The end of a handover (R227 steps 4 to 6) -/

/-- The bank belongs to its next owner; what waits for it has not been granted yet. -/
def State.handedOver (s : State) (b : Nat) (h : Handover) : State :=
  let t := (if h.scrub then s.scrubBank b else s).setOwner b h.kind h.idx (if h.kind = 7 then 0 else 1)
  t.withHandovers (SMap.del t.pad.handovers b)

theorem exec_bankHandoverDone {b : Fin 2048} {s : State} {h : Handover} (hfind : SMap.find s.pad.handovers b.val = some h) :
    exec (.bankHandoverDone b) s = .next (settle s
      (State.serveBank b.val true ((s.handedOver b.val h).bankWaiters b.val).length (s.handedOver b.val h)).go) := by
  have hmatch : (match SMap.find s.pad.handovers b.val with
      | some h => s.endHandover b.val h
      | none => s) = s.endHandover b.val h := by rw [hfind]
  exact congrArg (done s) hmatch

theorem handedOver_reg_other (s : State) {b : Nat} (h : Handover) {q : RegId} (hq : q.off ≠ (Reg.CADDY_OWN b).off) :
    (s.handedOver b h).reg q = s.reg q := by
  have hscrub : (if h.scrub then s.scrubBank b else s).reg q = s.reg q := by
    split
    · exact scrubBank_reg_other s hq
    · rfl
  rw [State.handedOver, withHandovers_reg, (setOwner_onlyReg ..).2 q hq, hscrub]

theorem get_handedOver (s : State) (b : Nat) (h : Handover) (a : Nat) :
    SMap.get (s.handedOver b h).pad.mem a 0 = if h.scrub ∧ a / 2 ^ 21 = b then 0 else SMap.get s.pad.mem a 0 := by
  rw [State.handedOver, withHandovers_mem, (setOwner_onlyReg ..).pad_eq]
  by_cases hs : h.scrub = true
  · simp only [hs, if_true, true_and, get_scrubBank]
  · simp only [hs, Bool.false_eq_true, if_false, false_and]

theorem find_handovers_handedOver (s : State) (b : Nat) (h : Handover) :
    SMap.find (s.handedOver b h).pad.handovers b = none := by
  rw [State.handedOver, withHandovers_handovers, SMap.find_del_same]

theorem own_handedOver (s : State) (b : Nat) {h : Handover} (hk : h.kind < 8) (hi : h.idx < 32) :
    (s.handedOver b h).own b Reg.CADDY_OWN_KIND = h.kind ∧ (s.handedOver b h).own b Reg.CADDY_OWN_IDX = h.idx ∧
    (s.handedOver b h).own b Reg.CADDY_OWN_STATE = if h.kind = 7 then 0 else 1 := by
  have hst : (if h.kind = 7 then 0 else 1) < 2 ^ 2 := by split <;> decide
  obtain ⟨hkind, hidx, hstate⟩ :=
    own_setOwner (if h.scrub then s.scrubBank b else s) b h.kind h.idx (if h.kind = 7 then 0 else 1)
  simp only [State.handedOver, withHandovers_own, hkind, hidx, hstate]
  exact ⟨Nat.mod_eq_of_lt hk, Nat.mod_eq_of_lt hi, Nat.mod_eq_of_lt hst⟩

/-! ## Errors (R235, R500, R516) -/

theorem rebuildEntry_keepsBanks (s : State) (line : Nat) (e : DirEnt) : s.KeepsBanks (s.rebuildEntry line e) := by
  unfold State.rebuildEntry
  split
  next hsnoop => exact snoop_keepsBanks hsnoop
  next => exact .refl s

theorem containRegion_keepsBanks (s : State) (r nest : Nat) : s.KeepsBanks (s.containRegion r nest) := by
  unfold State.containRegion
  split
  · exact .refl s
  · exact (eventAdvise_onlyNotes (s.enterAction (obj 0x12 r) 5 nest) _ _ _).keepsBanks

theorem recoveringRegions_keepsBanks (s : State) (sl : Nat) : s.KeepsBanks (s.recoveringRegions sl) := by
  unfold State.recoveringRegions
  dsimp only
  split
  · exact List.foldlRecOn (motive := s.KeepsBanks) _ _ (.refl s) fun _ ht _ _ => ht.trans (containRegion_keepsBanks ..)
  · exact .refl s

theorem directoryUe_keepsBanks (s : State) (sl : Nat) : s.KeepsBanks (s.directoryUe sl) := by
  refine State.KeepsBanks.trans ?_ (recoveringRegions_keepsBanks ..)
  refine List.foldlRecOn (motive := s.KeepsBanks) _ _ (choose_keepsBanks s 5) fun t ht _ _ => ht.trans ?_
  dsimp only
  split
  · exact (choose_keepsBanks t _).trans (rebuildEntry_keepsBanks ..)
  · exact choose_keepsBanks t _

theorem securityUe_keepsBanks (s : State) : s.KeepsBanks s.securityUe := by
  refine List.foldlRecOn (motive := s.KeepsBanks) _ _ (.refl s) fun t ht _ _ => ht.trans ?_
  dsimp only
  split
  · exact choose_keepsBanks t 2
  · exact (choose_keepsBanks t 2).trans (containRegion_keepsBanks ..)

/-- What an uncorrectable error in a bank leads to beside its word's poison: it is scored and recorded, what the bank's role
loses is rebuilt or contained, and work whose state the bank holds ends (R500, R516). -/
def State.bankError (s : State) (b cause : Nat) : State :=
  let t := (s.score (obj 3 b) .ue).event .bankUe { object := obj 3 b, cause := cause }
  let t := match t.own b Reg.CADDY_OWN_KIND with
    | 4 => t.directoryUe (b / 1024 * 32 + t.own b Reg.CADDY_OWN_IDX)
    | 5 => t.securityUe
    | _ => t
  t.loseState (obj 3 b)

theorem exec_scratchpadUe (off : BitVec 32) (s : State) : exec (.scratchpadUe off) s = .next (settle s
    ((s.setWordPoison off.toNat true).bankError (bankOf off.toNat) (alignDown off.toNat 64)).go) := rfl

theorem bankError_keepsBanks (s : State) (b cause : Nat) : s.KeepsBanks (s.bankError b cause) := by
  refine State.KeepsBanks.trans ?_ (loseState_keepsBanks ..)
  have hnotes := ((score_onlyNotes s (obj 3 b) .ue).trans
    (event_onlyNotes _ .bankUe { object := obj 3 b, cause := cause })).keepsBanks
  split
  · exact hnotes.trans (directoryUe_keepsBanks ..)
  · exact hnotes.trans (securityUe_keepsBanks _)
  · exact hnotes

theorem scratchpadUe_poisons (off : BitVec 32) (s : State) : ∃ u : State, exec (.scratchpadUe off) s = .next (settle s u.go) ∧
    u.wordPoison off.toNat = true ∧ u.own (bankOf off.toNat) Reg.CADDY_OWN_POISONED = 1 ∧ u.pad.mem = s.pad.mem ∧
    ∀ k, k / 64 ≠ off.toNat / 64 → u.wordPoison k = s.wordPoison k := by
  have hkeep := bankError_keepsBanks (s.setWordPoison off.toNat true) (bankOf off.toNat) (alignDown off.toNat 64)
  have hbank : bankOf off.toNat < 2048 := by
    have := off.isLt
    simp only [bankOf]
    omega
  refine ⟨_, exec_scratchpadUe off s, ?_, ?_, ?_, fun k hk => ?_⟩
  · rw [hkeep.wordPoison_eq, wordPoison_setWordPoison_same]
  · rw [hkeep.own_eq hbank, own_poisoned_setWordPoison]
  · rw [hkeep.1, setWordPoison_mem]
  · rw [hkeep.wordPoison_eq, wordPoison_setWordPoison_other s true hk]

/-! ## Field repair (R236) -/

/-- A column repaired: it takes an entry of its bank's die. -/
def State.repairColumn (s : State) (x : Nat × Nat × Nat) : State :=
  let pad := { s.pad with repaired := s.pad.repaired ++ [x] }
  { s with pad := if x.1 / 1024 = 0 then { pad with fuses0 := pad.fuses0 - 1 } else { pad with fuses1 := pad.fuses1 - 1 } }

theorem repairColumn_pad (s : State) (x : Nat × Nat × Nat) :
    (s.repairColumn x).pad.repaired = s.pad.repaired ++ [x] ∧
    (s.repairColumn x).pad.fuses0 = s.pad.fuses0 - (if x.1 / 1024 = 0 then 1 else 0) ∧
    (s.repairColumn x).pad.fuses1 = s.pad.fuses1 - (if x.1 / 1024 = 0 then 0 else 1) ∧
    (s.repairColumn x).pad.mem = s.pad.mem := by
  unfold State.repairColumn
  dsimp only
  split <;> exact ⟨rfl, rfl, rfl, rfl⟩

theorem exec_fieldRepair {b : Fin 2048} {sub : Fin 16} {column : Nat} {s : State}
    (hauto : s.flag Reg.CADDY_REPAIR_CFG Reg.CADDY_REPAIR_CFG_AUTO = true)
    (hleft : 0 < (if b.val / 1024 = 0 then s.pad.fuses0 else s.pad.fuses1))
    (hspare : (s.pad.repaired.filter fun x => x.1 = b.val && x.2.1 = sub.val).length < 4)
    (hreached : s.columnReached b.val = true) (hnew : (b.val, sub.val, column) ∉ s.pad.repaired) :
    exec (.fieldRepair b sub column) s = .next (settle s ((s.repairColumn (b.val, sub.val, column)).event .fuseRepair
      { object := obj 3 b.val, cause := (sub.val * 2 ^ 16 + column) % 2 ^ 32 })) := by
  refine congrArg (done s) (if_pos ?_)
  simp only [hauto, hleft, hspare, hreached, List.contains_eq_mem, hnew, decide_true, decide_false, Bool.not_false, Bool.and_true]

theorem fieldRepair_takes {b : Fin 2048} {sub : Fin 16} {column : Nat} {s : State}
    (hauto : s.flag Reg.CADDY_REPAIR_CFG Reg.CADDY_REPAIR_CFG_AUTO = true)
    (hleft : 0 < (if b.val / 1024 = 0 then s.pad.fuses0 else s.pad.fuses1))
    (hspare : (s.pad.repaired.filter fun x => x.1 = b.val && x.2.1 = sub.val).length < 4)
    (hreached : s.columnReached b.val = true) (hnew : (b.val, sub.val, column) ∉ s.pad.repaired) :
    ∃ t, exec (.fieldRepair b sub column) s = .next t ∧ t.pad.repaired = s.pad.repaired ++ [(b.val, sub.val, column)] ∧
      t.pad.fuses0 = s.pad.fuses0 - (if b.val / 1024 = 0 then 1 else 0) ∧
      t.pad.fuses1 = s.pad.fuses1 - (if b.val / 1024 = 0 then 0 else 1) ∧ t.pad.mem = s.pad.mem ∧ t.regs = s.regs := by
  have hnotes := event_onlyNotes (s.repairColumn (b.val, sub.val, column)) .fuseRepair
    { object := obj 3 b.val, cause := (sub.val * 2 ^ 16 + column) % 2 ^ 32 }
  obtain ⟨hrepaired, hfuses0, hfuses1, hmem⟩ := repairColumn_pad s (b.val, sub.val, column)
  refine ⟨_, exec_fieldRepair hauto hleft hspare hreached hnew, ?_⟩
  rw [settle_pad, settle_regs, hnotes.keepsBanks.1]
  exact ⟨hrepaired, hfuses0, hfuses1, hmem, hnotes.regs_eq⟩

/-! ## Retirement (R237) -/

/-- The bank is RETIRED and counted; its role has not gone elsewhere yet. -/
def State.bankOut (s : State) (b : Nat) : State :=
  let t := s.setFld (Reg.CADDY_OWN b) Reg.CADDY_OWN_STATE 3
  (t.withHandovers (SMap.del t.pad.handovers b)).bump Reg.CADDY_STATUS
    (if b / 1024 = 0 then Reg.CADDY_STATUS_RETIRED0 else Reg.CADDY_STATUS_RETIRED1) 1

theorem own_bankOut (s : State) (b : Nat) {k : Nat} (hk : k < 2048) (f : Fld) :
    (s.bankOut b).own k f = (s.setFld (Reg.CADDY_OWN b) Reg.CADDY_OWN_STATE 3).own k f := by
  rw [State.bankOut, (bump_keepsBanks _ (r := Reg.CADDY_STATUS) (by decide) _ _).own_eq hk, withHandovers_own]

theorem own_state_bankOut (s : State) {b : Nat} (hb : b < 2048) : (s.bankOut b).own b Reg.CADDY_OWN_STATE = 3 :=
  (own_bankOut s b hb _).trans (fld_setFld_same _ _ 3 (by decide) (by decide))

theorem own_bankOut_other (s : State) {b k : Nat} (hk : k < 2048) (h : k ≠ b) (f : Fld) :
    (s.bankOut b).own k f = s.own k f :=
  (own_bankOut s b hk f).trans ((setFld_onlyReg ..).own_other h f)

theorem bankOut_mem (s : State) (b : Nat) : (s.bankOut b).pad.mem = s.pad.mem := by
  rw [State.bankOut, bump_pad, withHandovers_mem, setFld_pad]

theorem find_handovers_bankOut (s : State) (b : Nat) : SMap.find (s.bankOut b).pad.handovers b = none := by
  rw [State.bankOut, bump_pad, withHandovers_handovers, SMap.find_del_same]

/-- A bank that has an owner is spare neither before nor after it has retired. -/
theorem spareBank_bankOut {s : State} {b : Nat} (hb : b < 2048) (hst : s.own b Reg.CADDY_OWN_STATE ≠ 0) {die : Nat}
    (hd : die < 2) : (s.bankOut b).spareBank die = s.spareBank die := by
  unfold State.spareBank
  refine List.find?_congr fun k hk => ?_
  obtain ⟨j, hj, rfl⟩ := List.mem_map.1 hk
  have hlt : die * 1024 + j < 2048 := by
    have := List.mem_range.1 hj
    omega
  by_cases h : die * 1024 + j = b
  · rw [h, own_state_bankOut s hb]
    simp [hst]
  · simp only [State.generalBank, own_bankOut_other s hlt h]

theorem exec_bankRetire {b : Fin 2048} {s : State} (hh : (s.health (obj 3 b.val)).st = 2)
    (hst : s.own b.val Reg.CADDY_OWN_STATE ≠ 3) : exec (.bankRetire b) s = done s (s.retireBank b.val) :=
  congrArg (done s) (if_pos ⟨hh, hst⟩)

/-- A bank with no fixed role has its retirement announced (R237). -/
theorem retireBank_general {s : State} {b : Nat}
    (hk : s.own b Reg.CADDY_OWN_KIND < 4 ∨ s.own b Reg.CADDY_OWN_KIND = 7) :
    s.retireBank b = (((s.bankOut b).capChange.advise Ev.healthRetireStart.code Ev.healthRetireStart.severity 0 (obj 3 b) 0
      none (s.own b Reg.CADDY_OWN_KIND + s.own b Reg.CADDY_OWN_IDX * 8)).loseState (obj 3 b)).go := by
  unfold State.retireBank
  dsimp only
  rw [if_neg (by omega), if_neg (by omega)]
  rfl

/-- A spare bank takes the place of a retired one that holds a table (R237). -/
theorem retireBank_table {s : State} {b x : Nat}
    (hk : s.own b Reg.CADDY_OWN_KIND = 5 ∨ s.own b Reg.CADDY_OWN_KIND = 6)
    (hspare : (s.bankOut b).spareBank (b / 1024) = some x) :
    s.retireBank b = (((s.bankOut b).replaceBank b x (s.own b Reg.CADDY_OWN_KIND) 0).loseState (obj 3 b)).go := by
  unfold State.bankOut State.withHandovers at hspare ⊢
  unfold State.retireBank
  dsimp only at hspare ⊢
  rw [if_neg (by omega), if_pos hk]
  simp only [hspare]

theorem bankRetire_general {b : Fin 2048} {s : State} (hh : (s.health (obj 3 b.val)).st = 2)
    (hst : s.own b.val Reg.CADDY_OWN_STATE ≠ 3)
    (hk : s.own b.val Reg.CADDY_OWN_KIND < 4 ∨ s.own b.val Reg.CADDY_OWN_KIND = 7) :
    ∃ u : State, exec (.bankRetire b) s = .next (settle s u.go) ∧ u.own b.val Reg.CADDY_OWN_STATE = 3 ∧
      SMap.find u.pad.handovers b.val = none ∧ u.pad.mem = s.pad.mem := by
  have hkeep := (capChange_keepsBanks (s.bankOut b.val)).trans ((advise_onlyNotes _ Ev.healthRetireStart.code
    Ev.healthRetireStart.severity 0 (obj 3 b.val) 0 none
    (s.own b.val Reg.CADDY_OWN_KIND + s.own b.val Reg.CADDY_OWN_IDX * 8)).keepsBanks.trans
    (loseState_keepsBanks _ (obj 3 b.val)))
  refine ⟨_, (exec_bankRetire hh hst).trans (congrArg (done s) (retireBank_general hk)), ?_, ?_, ?_⟩
  · rw [hkeep.own_eq b.isLt, own_state_bankOut s b.isLt]
  · rw [hkeep.1, find_handovers_bankOut]
  · rw [hkeep.1, bankOut_mem]

theorem own_replaceBank_other (s : State) {b x k : Nat} (hk : k < 2048) (h : k ≠ x) (kind idx : Nat) (f : Fld) :
    (s.replaceBank b x kind idx).own k f = s.own k f := by
  rw [State.replaceBank, own_withPad, (capChange_keepsBanks _).own_eq hk, giveRole_eq,
    (setOwner_onlyReg s x kind idx 1).own_other h]

theorem own_replaceBank_same (s : State) (b : Nat) {x : Nat} (hx : x < 2048) (kind idx : Nat) :
    (s.replaceBank b x kind idx).own x Reg.CADDY_OWN_KIND = kind % 2 ^ 3 ∧
    (s.replaceBank b x kind idx).own x Reg.CADDY_OWN_STATE = 1 := by
  obtain ⟨hkind, -, hstate⟩ := own_setOwner s x kind idx 1
  have hown (f : Fld) : (s.replaceBank b x kind idx).own x f = (s.setOwner x kind idx 1).own x f := by
    rw [State.replaceBank, own_withPad, (capChange_keepsBanks _).own_eq hx, giveRole_eq]
  exact ⟨(hown _).trans hkind, (hown _).trans hstate⟩

theorem bankRetire_table {b x : Fin 2048} {s : State} (hh : (s.health (obj 3 b.val)).st = 2)
    (hst : s.own b.val Reg.CADDY_OWN_STATE = 1)
    (hk : s.own b.val Reg.CADDY_OWN_KIND = 5 ∨ s.own b.val Reg.CADDY_OWN_KIND = 6)
    (hspare : s.spareBank (b.val / 1024) = some x.val) (hx : x ≠ b) :
    ∃ u : State, exec (.bankRetire b) s = .next (settle s u.go) ∧ u.own b.val Reg.CADDY_OWN_STATE = 3 ∧
      u.own x.val Reg.CADDY_OWN_KIND = s.own b.val Reg.CADDY_OWN_KIND ∧ u.own x.val Reg.CADDY_OWN_STATE = 1 := by
  have hout : (s.bankOut b.val).spareBank (b.val / 1024) = some x.val :=
    (spareBank_bankOut b.isLt (by omega) (by omega)).trans hspare
  have hkeep := loseState_keepsBanks ((s.bankOut b.val).replaceBank b.val x.val (s.own b.val Reg.CADDY_OWN_KIND) 0)
    (obj 3 b.val)
  obtain ⟨hkind, hstate⟩ := own_replaceBank_same (s.bankOut b.val) b.val x.isLt (s.own b.val Reg.CADDY_OWN_KIND) 0
  refine ⟨_, (exec_bankRetire hh (by omega)).trans (congrArg (done s) (retireBank_table hk hout)), ?_, ?_, ?_⟩
  · rw [hkeep.own_eq b.isLt, own_replaceBank_other _ b.isLt (Fin.val_ne_of_ne hx.symm), own_state_bankOut s b.isLt]
  · rw [hkeep.own_eq x.isLt, hkind]
    omega
  · rw [hkeep.own_eq x.isLt, hstate]

/-! ## Clearing (R240) -/

theorem caddyClearDone_clears {s : State} (hready : s.flag Reg.CADDY_STATUS Reg.CADDY_STATUS_READY = false)
    (hrun : s.running = true) :
    ∃ u : State, exec .caddyClearDone s = .next (settle s u.serveBanks.go) ∧ s.live = u.live ∧ u.dir = [] ∧
      u.flag Reg.CADDY_STATUS Reg.CADDY_STATUS_READY = true ∧ ∀ a, SMap.get u.pad.mem a 0 = 0 ∧ u.wordPoison a = false := by
  have hexec : exec .caddyClearDone s = done s s.banksReady := congrArg (done s) (if_neg (by simp [hready, hrun]))
  have hpower : (s.clearBanks.setFld Reg.CADDY_STATUS Reg.CADDY_STATUS_READY 1).power = s.power :=
    fld_setFld_other _ _ _ _ (by decide)
  refine ⟨s.clearBanks.setFld Reg.CADDY_STATUS Reg.CADDY_STATUS_READY 1, hexec, ?_, rfl,
    flag_setFld_one _ _ (by decide) (by decide), fun a => ⟨rfl, rfl⟩⟩
  simp only [State.live, State.ready, hpower]
  rfl

/-- Settles O49: one rule for each command, with the two answers of a handover and the two kinds of role of a retired bank. -/
theorem scratchpadBanks : Obligations.ScratchpadBanks := by
  refine ⟨fun via b v s hm => ⟨bankHandover_begins hm, fun hgo href hs => bankHandover_refused hs hm hgo href,
      bankWorldWrite_scrubs hm⟩, fun b s h hfind hk hi => ?_, scratchpadUe_poisons,
    fun b sub column s => fieldRepair_takes, fun b s => bankRetire_general, fun b x s => bankRetire_table,
    fun s => caddyClearDone_clears⟩
  obtain ⟨hkind, hidx, hstate⟩ := own_handedOver s b.val hk hi
  exact ⟨s.handedOver b.val h, exec_bankHandoverDone hfind, find_handovers_handedOver s b.val h, hkind, hidx, hstate,
    get_handedOver s b.val h, fun q => handedOver_reg_other s h⟩

end Sys2Proof.Machine
end
